-- ==== Sys2Proof/Word.lean ====
section
/-! DEFINITION. The types of the words the ZF8840 holds, and the one shape of sparse storage the model uses: a sorted
list of (key, value) pairs with a value for every key it does not list. -/

namespace Sys2Proof

/-- A byte. -/
abbrev Byte := BitVec 8
/-- A 32-bit word. -/
abbrev Word := BitVec 32
/-- A 64-bit word. -/
abbrev Word64 := BitVec 64

/-- Sparse storage: (key, value) pairs with strictly rising keys. -/
abbrev Tab (α : Type) := List (Nat × α)

/-- A field of a register: the byte address of the register, the lowest bit, the width and the value after power-on
reset (R3, R5). -/
structure Fld where
  addr : Nat
  lo : Nat
  w : Nat
  rst : Nat
  deriving DecidableEq, Repr

/-- The access codes of R3. `w1csat` is the W1C flag SAT of a class S counter: clearing it clears the COUNT beside it. -/
inductive Access where
  | rw | ro | wo | w1c | w1csat | w1s | rc
  deriving DecidableEq, Repr

/-- One field of a register's row: lowest bit, width, access, reset value. Bits no field names are RSV (R3). -/
structure RegFld where
  lo : Nat
  w : Nat
  acc : Access
  rst : Nat
  deriving DecidableEq, Repr

/-- Whether a register's reset value depends on its number: the slack of a tick ledger (R104) and the Keeper bit of an
event's route (R577). -/
inductive RstKind where
  | plain | tlSlack | route
  deriving DecidableEq, Repr

/-- A row of a block's register list: offset of its first register, (stride, count) of each index, width in bits and
fields. -/
structure RegRow where
  off : Nat
  dims : List (Nat × Nat)
  wide : Nat
  flds : List RegFld
  kind : RstKind
  deriving DecidableEq, Repr

end Sys2Proof
end

