-- ==== Sys2Proof/Syntax.lean ====
section
/-! DEFINITION. The commands the block takes: one constructor of Instr for each row of spec/opcode_table.json, and the
operands they carry. -/

namespace Sys2Proof

/-- The masters of the part (R30). M6, M7 and M26-M63 are never issued (R31): nothing comes from them. -/
inductive Master where
  | host (k : Fin 4) | keeper | debug | lantern (l : Fin 8) | loop (m : Fin 2) | dispatch | metering | packet | can | watch
  | key | store | image
  | tender (n : Fin 64)
  deriving DecidableEq, Repr

/-- The 7-bit number of a master (R30). -/
def Master.val : Master → Nat
  | .host k => k.val | .keeper => 4 | .debug => 5 | .lantern l => 8 + l.val | .loop m => 16 + m.val | .dispatch => 18
  | .metering => 19 | .packet => 20 | .can => 21 | .watch => 22 | .key => 23 | .store => 24 | .image => 25
  | .tender n => 64 + n.val

/-- Where a register command comes from: the master and the domain it carries (R29). -/
structure Src where
  master : Master
  dom : BitVec 8
  deriving DecidableEq, Repr

/-- Width of an access to a register block (R6). -/
inductive Width where
  | w8 | w16 | w32 | w64
  deriving DecidableEq, Repr

/-- Kind of a transaction (R370). -/
inductive TKind where
  | read | write | fetch
  deriving DecidableEq, Repr

/-- How a host core makes an access, which selects the domain it carries (R352, R353). -/
inductive HostAcc where
  | machine          -- machine mode
  | lower            -- S or U mode
  | mprv (m : Bool)  -- load or store under mstatus.MPRV, `m` when MPP is M
  | walk             -- implicit page-table read
  deriving DecidableEq, Repr

/-- For what a master with several domains makes a transaction (R29): a program of a Lantern, payload under a classification
rule or a descriptor of the packet engine, a CAN channel; any other master has one domain. -/
inductive TxnFor where
  | own | program (p : Fin 32) | payload (rule : Fin 256) | descriptor | channel (n : Fin 8)
  deriving DecidableEq, Repr

/-- A transaction as its source port issues it: master, how a host core makes it, what it is made for, whether a host core
makes it as LR, SC or AMO and whether it has performed a FENCE.I since its access before, kind, address, bytes and the data of
a write. A host core's page-table read carries the kind of the access that it serves. -/
structure Txn where
  master : Master
  host : HostAcc
  use_ : TxnFor
  atomic : Bool
  fencei : Bool
  kind : TKind
  addr : BitVec 64
  size : Nat
  data : List Byte
  deriving DecidableEq, Repr

/-- A read or a write of a domain CSR (R352). -/
inductive CsrOp where
  | read | write (v : BitVec 64)
  deriving DecidableEq, Repr

/-- How a transaction fares at its target: it is answered, it gets no response (R35), the target corrects an error on the way,
or its read meets an uncorrectable error (R368). -/
inductive TFate where
  | answered | silent | corrected | uncorrectable
  deriving DecidableEq, Repr

/-- How the reads of a block's own transactions fare: all are answered, or the one at a byte offset gets no response (R35) or meets
an uncorrectable error (R368). -/
inductive ReadFate where
  | answered | silent (at_ : Nat) | uncorrectable (at_ : Nat)
  deriving DecidableEq, Repr

/-- Cache errors of R360; `l2` says that the error lies in the L2 and not in a data cache. Whether a line in which a double-bit error
lies is clean, the state says. -/
inductive CacheErr where
  | parityI
  | single (l2 : Bool)
  | double (l2 : Bool)
  deriving DecidableEq, Repr

/-- Triggers of a Tender channel (R390). -/
inductive Trigger where
  | cmd (src : Src) | event | request
  deriving DecidableEq, Repr

/-- Errors of a Tender burst that its target or the fabric reports (R391). -/
inductive BurstErr where
  | found | uncorrectable | timeout
  deriving DecidableEq, Repr


/-! ## Uscia Logic Code (03) -/

/-- Address spaces of R112. -/
inductive Space where
  | inp | out | ilk | mrk | lw | tmr | ctr | edg | const | lsp | lrd
  deriving DecidableEq, Repr

/-- KIND of a MOD field (R121). -/
inductive ModKind where
  | none | strideA | strideB | one
  deriving DecidableEq, Repr

/-- MOD field: kind and the LC it takes (R121). -/
structure Mod where
  kind : ModKind
  lc : Fin 4
  deriving DecidableEq, Repr

/-- BOP functions (R125). -/
inductive BopFn where
  | not | clr | set | clrov
  deriving DecidableEq, Repr

/-- WMV functions (R135). -/
inductive WmvFn where
  | xab | cab | cba | wba
  deriving DecidableEq, Repr

/-- IOP functions (R137). -/
inductive IopFn where
  | add | sub | mul | div | rem | addw | subw | mulw | neg | abs | min | max | and | or | xor | not | shl | shr | sar
  | qmul | qdiv
  deriving DecidableEq, Repr

/-- FOP functions (R139). -/
inductive FopFn where
  | fadd | fsub | fmul | fdiv | fsqrt | fneg | fabs | fmin | fmax
  deriving DecidableEq, Repr

/-- CVT functions (R141). -/
inductive CvtFn where
  | itof | utof | qtof | ftoi | ftou | ftoq | ftoir
  deriving DecidableEq, Repr

/-- Relations and types of CMP (R142). -/
inductive Rel where
  | eq | ne | lt | le | gt | ge
  deriving DecidableEq, Repr
inductive CmpType where
  | i32 | u32 | f32
  deriving DecidableEq, Repr

/-- Type of SCL (R143). -/
inductive SclType where
  | f32 | q16
  deriving DecidableEq, Repr

/-- JMP conditions (R145). -/
inductive JCond where
  | always | ba | nba | z | nz | n | nn | ov | nov
  deriving DecidableEq, Repr

/-- Memory of a Lantern in which an error lies (R204). -/
inductive LntRegion where
  | localMem | bank0 | bank1
  deriving DecidableEq, Repr

/-! ## Mooring queues (10) -/

/-- Errors that a read of pool or link memory meets (R427, R428): a corrected one, an uncorrectable one in word `i` of the
packet, in its length word, or in the link of its cell `k`. -/
inductive PoolErr where
  | none | corrected | data (i : Nat) | length | link (k : Nat)
  deriving DecidableEq, Repr

/-! ## CAN (11) -/

/-- A CAN frame as the bus carries it: identifier, formats, ESI, DLC and data bytes (R440). -/
structure CanFrame where
  id : Nat
  ide : Bool
  fdf : Bool
  brs : Bool
  rtr : Bool
  esi : Bool
  dlc : Fin 16
  data : List Byte
  deriving DecidableEq, Repr

/-- Errors as they change the counters of ISO 11898-1 (R451, R453): a receiver's error by 1 or 8, a transmitter's error that
breaks its frame and counts 8, one that counts nothing, an identifier collision, and an error within an error or overload
flag of a transmitter. -/
inductive CanErr where
  | receive | receive8 | transmit | transmitUncounted | collision | flag8
  deriving DecidableEq, Repr

/-! ## Balsil code (06) -/

/-- Conditions of B with the registers they compare (R249 table). -/
inductive DCond where
  | always
  | ieq (a b : Fin 16) | ine (a b : Fin 16) | ilt (a b : Fin 16) | ige (a b : Fin 16)
  | flt (a b : Fin 16) | fge (a b : Fin 16)
  | nanf | brk
  | izero (a : Fin 16) | inonzero (a : Fin 16)
  deriving DecidableEq, Repr

/-- Functions of FMM and VMM with two sources, and the absolute value with one. -/
inductive DMm (α : Type) where
  | max (a b : α) | min (a b : α) | abs (a : α)
  deriving DecidableEq, Repr

/-- Functions of VNRM. -/
inductive DNorm where
  | inf | two | sum
  deriving DecidableEq, Repr

/-- Result codes of DONE. -/
inductive DResult where
  | converged | capped | primalInfeasible | dualInfeasible
  deriving DecidableEq, Repr

/-! ## Watch messages (16) -/

/-- The path a Watch message arrives on (R580). -/
inductive WPath where
  | a | b
  deriving DecidableEq, Repr

/-- A Watch message as it arrives (R581): the fields of its header that the rules use (its TYPE is the command's), the IPv4
source address of its datagram and the PCYC its tag was made with (path B and witness), payload, and CRC or tag. -/
structure WatchMsg where
  unit : BitVec 16
  epoch : Word
  seq : Word
  fnum : Word
  health : Word
  ckseq : Word
  value : Word
  ip : Word
  pcyc : BitVec 24
  payload : List Byte
  check : List Byte
  deriving DecidableEq, Repr

/-! ## What a start finds (13, 14, 18) -/

/-- Regeneration of the root from a helper copy: bits corrected and the largest count in a block (R530, R531). -/
structure PufRead where
  errs : BitVec 12
  maxBlk : BitVec 5
  deriving DecidableEq, Repr

/-- What the stages of a start find in the world: TAMPER_N low at mount, a plan record that does not read, what each helper
copy gives, committed saves that do not read, newest first, an UNCORRECTABLE line in slot A or B, DBGEN high at stage 9, and the
record-store sectors whose last line not ERASED a margin read does not return CLEAN (R490). -/
structure BootIn where
  tamperLow : Bool
  planLost : Bool
  copy0 : Option PufRead
  copy1 : Option PufRead
  copy2 : Option PufRead
  copy3 : Option PufRead
  savesBad : Fin 3
  slotAbad : Bool
  slotBbad : Bool
  dbgen : Bool
  cut : List (Fin 256)
  deriving DecidableEq, Repr

/-- A failure in a cycle of the standby's self-test: the island, and the free Mooring cell a MARCH failure names (R596, R618). -/
structure TestFail where
  island : Fin 20
  cell : Option (BitVec 16)
  deriving DecidableEq, Repr

/-- The commands of the block: one constructor for each row of spec/opcode_table.json. -/
inductive Instr where
  /-- REGISTER_WRITE (R3). A write to a register field that has no row of its own acts on the field according to its access code. -/
  | registerWrite (src : Src) (addr : BitVec 40) (width : Width) (val : BitVec 64)
  /-- LOWER_HALF_READ (R7). A 32-bit read of the lower half of a 64-bit register latches the upper half into the master's shadow. -/
  | lowerHalfRead (src : Src) (addr : BitVec 40)
  /-- TRANSACTION (R34). A fabric transaction reaches its target, which checks it against the access-table row of its master and domain and then applies its own target rules. -/
  | transaction (t : Txn) (fate : TFate)
  /-- STALLED_TRANSACTION (R30). A transaction that stalled for lack of credits issues once one of its master's own transactions completes. -/
  | stalledTransaction (m : Master) (fate : TFate)
  /-- FABRIC_TIMEOUT (R35). An outstanding transaction reaches 20 µs without a response; the target port is isolated, the transaction completes with an error, E6 is raised and a Logbook record is written. -/
  | fabricTimeout (m : Master)
  /-- LATE_RESPONSE (R37). A response that arrives from an isolated island is discarded. -/
  | lateResponse (island : Fin 20) (data : List Byte)
  /-- PRE_WAKE (R46). At F−2 µs the frame controller sends pre-wake to the memory, Lantern and loop islands. -/
  | preWake
  /-- FRAME_START (R51). The frame pulse marks F+0; snapshot, FNUM increment, E16 and all F+0 work of the frame follow. -/
  | frameStart (stall0 stall1 : Option (Fin 8192))
  /-- COMPUTE_WINDOW_OPEN (R162). At F+40 µs each Lantern clears OV and starts its due tasks, or treats late distribution as an overrun. -/
  | computeWindowOpen (late : BitVec 8)
  /-- LOOP_WINDOW_CLOSE (R235). At F+800 µs the loop window closes; due slots not yet computed overrun. -/
  | loopWindowClose (cause : Fin 3)
  /-- COMPUTE_WINDOW_CLOSE (R188). At F+850 µs Lanterns that have not reported END are stopped and the staged writes leave on the commit links. -/
  | computeWindowClose
  /-- PUBLISH (R77). At F+880 µs OUT is published atomically and E17 is raised. -/
  | publish (late : Option (BitVec 17)) (copyFailed : Bool)
  /-- FRAME_WATCHDOG (R56). OUT has not been published at three consecutive expected times, and the part resets with source FRMWD. -/
  | frameWatchdog
  /-- LANDING (R60). A write to an input point in the NEXT view by a master of the zone's source class lands the point. -/
  | landing (src : Src) (p : BitVec 17) (wide : Bool) (v : BitVec 64)
  /-- ZOWN_WRITE (R81). A write of zone owners takes effect, or is refused with ZREFUSED and E26. -/
  | zownWrite (src : Src) (n : Fin 256) (val : BitVec 32)
  /-- LOAD (R106). IMG.LCMD.LOAD starts a read of the layout table. -/
  | layoutLoad
  /-- LAYOUT_READ_DONE (R106). The layout read and its format checks end, and the load waits for the next F+0. -/
  | layoutReadDone (fate : ReadFate)
  /-- ADMIT (R84). The admission checker checks a program image for placement or on-line change. -/
  | admitProg (src : Src) (prog : Fin 32) (lnt : Fin 8)
  /-- CHECK (R84). The admission checker checks a program image and gives a verdict only. -/
  | check (src : Src) (prog : Fin 32) (lnt : Fin 8)
  /-- REVOKE (R172). A program is removed from its Lantern at the F+0 that R91 names. -/
  | revoke (src : Src) (prog : Fin 32) (lnt : Fin 8)
  /-- RETIRE_LNT (R94). The host requests the retirement of a Lantern and the re-placement of its programs. -/
  | retireLnt (src : Src) (lnt : Fin 8)
  /-- LOOP_ENABLE (R211). A slot list is checked and, if admitted, written into loop memory to start at R91's F+0. -/
  | loopEnable (src : Src) (eng : Fin 2)
  /-- LOOP_DISABLE (R212). Listed slots stop at R91's F+0 and their outputs become ORPHAN. -/
  | loopDisable (src : Src) (eng : Fin 2)
  /-- RETIRE_LOOP (R100). The host requests the retirement of a loop engine and the move of its slots. -/
  | retireLoop (src : Src) (eng : Fin 2)
  /-- PLAN_NM1 (R103). An N−1 plan is checked whole and its bank images are written to the work area. -/
  | planNm1 (src : Src)
  /-- ADMIT_VERDICT (R90). The admission checker returns its verdict, sets ADM_STAT and raises E20. -/
  | admitVerdict (fate : ReadFate)
  /-- RETIREMENT_REQUEST (R95). The Keeper sets FRM.KRQ.REQ to request the retirement of a Lantern or loop engine. -/
  | retirementRequest (src : Src) (loop : Bool) (lnt : Fin 8) (eng : Fin 2)
  /-- KEEPER_REQUEST_RUN (R95). A Keeper retirement request that waited for a host command runs when that command ends. -/
  | keeperRequestRun
  /-- SHADOW_LOAD_DONE (R97). The destination's shadow bank load completes, and the handover frame is fixed. -/
  | shadowLoadDone
  /-- RUN (R632). A write of FRM.CTRL.RUN starts or stops frames, or is refused while the key unit is not in RUN mode. -/
  | run (on : Bool)
  /-- COMMISSION (R89). A write of FRM.CTRL.COMMISSION enters or leaves commissioning mode. -/
  | commission (src : Src) (on : Bool)
  /-- LD (R125). BA takes the operand bit. -/
  | ulcLd (l : Fin 8) (sp : Space) (bit : Fin 32) (idx : BitVec 17)
  /-- LDN (R125). BA takes the inverse of the operand bit. -/
  | ulcLdn (l : Fin 8) (sp : Space) (bit : Fin 32) (idx : BitVec 17)
  /-- AND (R125). BA takes BA AND the operand bit. -/
  | ulcAnd (l : Fin 8) (sp : Space) (bit : Fin 32) (idx : BitVec 17)
  /-- ANDN (R125). BA takes BA AND NOT the operand bit. -/
  | ulcAndn (l : Fin 8) (sp : Space) (bit : Fin 32) (idx : BitVec 17)
  /-- OR (R125). BA takes BA OR the operand bit. -/
  | ulcOr (l : Fin 8) (sp : Space) (bit : Fin 32) (idx : BitVec 17)
  /-- ORN (R125). BA takes BA OR NOT the operand bit. -/
  | ulcOrn (l : Fin 8) (sp : Space) (bit : Fin 32) (idx : BitVec 17)
  /-- XOR (R125). BA takes BA XOR the operand bit. -/
  | ulcXor (l : Fin 8) (sp : Space) (bit : Fin 32) (idx : BitVec 17)
  /-- XORN (R125). BA takes BA XOR NOT the operand bit. -/
  | ulcXorn (l : Fin 8) (sp : Space) (bit : Fin 32) (idx : BitVec 17)
  /-- AND_BRACKET (R125). AND( pushes a bracket entry and sets BA to 1. -/
  | ulcAndBracket (l : Fin 8)
  /-- OR_BRACKET (R125). OR( pushes a bracket entry and sets BA to 0. -/
  | ulcOrBracket (l : Fin 8)
  /-- XOR_BRACKET (R125). XOR( pushes a bracket entry and sets BA to 0. -/
  | ulcXorBracket (l : Fin 8)
  /-- CLOSE_BRACKET (R125). The closing bracket pops its entry and combines the saved BA with BA. -/
  | ulcCloseBracket (l : Fin 8)
  /-- ST (R125). The operand bit takes BA. -/
  | ulcSt (l : Fin 8) (sp : Space) (bit : Fin 32) (idx : BitVec 17)
  /-- STN (R125). The operand bit takes NOT BA. -/
  | ulcStn (l : Fin 8) (sp : Space) (bit : Fin 32) (idx : BitVec 17)
  /-- S (R125). The operand bit is set when BA is 1. -/
  | ulcS (l : Fin 8) (sp : Space) (bit : Fin 32) (idx : BitVec 17)
  /-- R_RESET (R125). The instruction R clears the operand bit when BA is 1. -/
  | ulcR (l : Fin 8) (sp : Space) (bit : Fin 32) (idx : BitVec 17)
  /-- RE (R126). A rising edge of BA against the edge bit is detected and the edge bit is updated. -/
  | ulcRe (l : Fin 8) (m : Mod) (idx : BitVec 17)
  /-- FE (R126). A falling edge of BA against the edge bit is detected and the edge bit is updated. -/
  | ulcFe (l : Fin 8) (m : Mod) (idx : BitVec 17)
  /-- BOP (R125). A bit function NOT, CLR, SET or CLROV acts on BA or OV. -/
  | ulcBop (l : Fin 8) (f : BopFn)
  /-- IF (R127). A block entry is pushed and ENB becomes ENB AND BA. -/
  | ulcIf (l : Fin 8)
  /-- ELSE (R127). ENB becomes the enclosing enable AND NOT the block condition. -/
  | ulcElse (l : Fin 8)
  /-- ENDIF (R127). The block entry is popped and ENB is restored. -/
  | ulcEndif (l : Fin 8)
  /-- TON (R129). An on-delay timer is executed with IN = BA and PT = WA. -/
  | ulcTon (l : Fin 8) (m : Mod) (idx : BitVec 17)
  /-- TOF (R129). An off-delay timer is executed with IN = BA and PT = WA. -/
  | ulcTof (l : Fin 8) (m : Mod) (idx : BitVec 17)
  /-- TP (R129). A pulse timer is executed with IN = BA and PT = WA. -/
  | ulcTp (l : Fin 8) (m : Mod) (idx : BitVec 17)
  /-- TRS (R129). A timer entry is reset. -/
  | ulcTrs (l : Fin 8) (m : Mod) (idx : BitVec 17)
  /-- CTU (R129). An up counter counts on a rising BA, sticking at its maximum. -/
  | ulcCtu (l : Fin 8) (m : Mod) (idx : BitVec 17)
  /-- CTD (R129). A down counter counts on a rising BA, sticking at 0. -/
  | ulcCtd (l : Fin 8) (m : Mod) (idx : BitVec 17)
  /-- CTW (R129). A wrapping counter counts on a rising BA modulo 2^32. -/
  | ulcCtw (l : Fin 8) (m : Mod) (idx : BitVec 17)
  /-- CLD (R129). A counter is loaded with WA. -/
  | ulcCld (l : Fin 8) (m : Mod) (idx : BitVec 17)
  /-- LA (R135). WA takes the operand word. -/
  | ulcLa (l : Fin 8) (sp : Space) (m : Mod) (idx : BitVec 17)
  /-- LB (R135). WB takes the operand word. -/
  | ulcLb (l : Fin 8) (sp : Space) (m : Mod) (idx : BitVec 17)
  /-- LAS (R135). WA takes the status of an IN point. -/
  | ulcLas (l : Fin 8) (m : Mod) (idx : BitVec 17)
  /-- LAG (R135). WA takes the age of an IN point. -/
  | ulcLag (l : Fin 8) (m : Mod) (idx : BitVec 17)
  /-- TA (R135). The operand word takes WA. -/
  | ulcTa (l : Fin 8) (sp : Space) (m : Mod) (idx : BitVec 17)
  /-- TAS (R136). SUBST and CLAMPED are staged for an OUT or ILK point from WA. -/
  | ulcTas (l : Fin 8) (sp : Space) (m : Mod) (idx : BitVec 17)
  /-- LAI (R135). WA takes a sign-extended immediate. -/
  | ulcLai (l : Fin 8) (imm : BitVec 22)
  /-- LBI (R135). WB takes a sign-extended immediate. -/
  | ulcLbi (l : Fin 8) (imm : BitVec 22)
  /-- LAK (R135). WA takes the literal word that follows. -/
  | ulcLak (l : Fin 8) (lit : Word)
  /-- LBK (R135). WB takes the literal word that follows. -/
  | ulcLbk (l : Fin 8) (lit : Word)
  /-- WMV (R135). A word move function swaps or copies between WA, WB and BA. -/
  | ulcWmv (l : Fin 8) (f : WmvFn)
  /-- IOP (R137). An I32 or Q16.16 function computes WA from WA and WB and sets the flags. -/
  | ulcIop (l : Fin 8) (f : IopFn)
  /-- FOP (R139). An F32 function computes WA from WA and WB and sets the flags. -/
  | ulcFop (l : Fin 8) (f : FopFn)
  /-- CVT (R141). WA is converted in place between I32, U32, Q16.16 and F32. -/
  | ulcCvt (l : Fin 8) (f : CvtFn)
  /-- CMP (R142). WA is compared with WB; BA and the flags take the relation. -/
  | ulcCmp (l : Fin 8) (ty : CmpType) (r : Rel)
  /-- SCL (R143). WA is scaled by two constants. -/
  | ulcScl (l : Fin 8) (ty : SclType) (m : Mod) (k : BitVec 12)
  /-- LIM (R143). WA is limited between two constants and BA reports the change. -/
  | ulcLim (l : Fin 8) (ty : CmpType) (m : Mod) (k : BitVec 12)
  /-- JMP (R144). The PC moves forward by the distance when the condition holds. -/
  | ulcJmp (l : Fin 8) (c : JCond) (dist : BitVec 15)
  /-- LOOP (R146). A loop at level d is opened with its count and strides. -/
  | ulcLoop (l : Fin 8) (count : BitVec 9) (a : BitVec 7) (b : BitVec 6)
  /-- ENDL (R144). The loop counter advances and the body repeats or the loop closes. -/
  | ulcEndl (l : Fin 8)
  /-- CALL (R144). The return address is pushed and control passes to a block. -/
  | ulcCall (l : Fin 8) (blk : BitVec 8)
  /-- RET (R144). The PC is popped from the call stack. -/
  | ulcRet (l : Fin 8)
  /-- END (R144). The task ends; the Lantern starts the next due task or reports END. -/
  | ulcEnd (l : Fin 8)
  /-- NOP (R144). No operation. -/
  | ulcNop (l : Fin 8)
  /-- LSM (R147). A mode value is staged as the mode item of an LSP index. -/
  | ulcLsm (l : Fin 8) (mode : BitVec 5) (idx : BitVec 17)
  /-- LDSB (R147). BA takes a system bit. -/
  | ulcLdsb (l : Fin 8) (sel : Fin 260)
  /-- LDSW (R147). WA takes a system word. -/
  | ulcLdsw (l : Fin 8) (sel : Fin 5)
  /-- LANTERN_MEMORY_ERROR (R680). An uncorrectable error in a bank or local memory stops the Lantern, and the frame is treated as an overrun. -/
  | lanternMemoryError (l : Fin 8) (corrected : Bool) (r : LntRegion) (off : BitVec 20)
  /-- FORCE_WRITE (R178). A write of a force entry is checked and takes effect whole, or is refused and logged. -/
  | forceWrite (src : Src) (n : Fin 4096) (val : BitVec 64)
  /-- STATION_WRITE (R201). A write of a station's RIO configuration or map is checked and held for the next F+0, or refused. -/
  | stationWrite (n : Fin 1536) (map : Bool) (val : BitVec 64)
  /-- STATION_SUPERVISION (R681). A write of RIO.CTRL.EN turns station supervision on or off at the next F+0. -/
  | stationSupervision (on : Bool)
  /-- LOOP_DESCRIPTOR_WRITE (R209). A write to loop memory is refused for an enabled slot and performed for a disabled one. -/
  | loopDescriptorWrite (src : Src) (m : Fin 2) (off : Fin 262144) (v : Word)
  /-- STGCMD_GO (R224). A staged tuning change of a slot is submitted for the next F+0, or refused with STGREF. -/
  | stgcmdGo (src : Src) (m : Fin 2) (cmd : BitVec 32)
  /-- INJ_ARM (R226). An injection generator is armed to start at its start F+0. -/
  | injArm (m : Fin 2) (k : Fin 4)
  /-- INJ_ABORT (R228). An injection generator is ended at the next F+0. -/
  | injAbort (m : Fin 2) (k : Fin 4)
  /-- INJEN (R230). A write of 0 to LPEn.CTRL.INJEN ends every injection generator of the engine. -/
  | injen (m : Fin 2) (on : Bool)
  /-- CAP_ARM (R229). A capture buffer is armed to record from the next F+0. -/
  | capArm (m : Fin 2) (k : Fin 4)
  /-- CAPSEL (R231). A capture buffer is mapped into the capture window. -/
  | capsel (m : Fin 2) (buf : Fin 4)
  /-- SLOT_FAULT (R236). An uncorrectable error in a slot descriptor puts the slot in FAULT and raises ALERT. -/
  | slotFault (m : Fin 2) (off : BitVec 20) (capture corrected : Bool)
  /-- LOAD_PROG (R254). The dispatch engine reads and checks a signed program image. -/
  | loadProg
  /-- LOAD_PROB (R257). The dispatch engine reads and checks a problem image. -/
  | loadProb
  /-- LOAD_VERDICT (R258). A dispatch load ends with its verdict in LDSTAT, and E77 is raised. -/
  | loadVerdict (fate : ReadFate)
  /-- SOLVE (R262). A solve is made due at the next F+0. -/
  | dpeSolve
  /-- ABORT (R267). A running solve stops at the next instruction boundary and ABORTED is staged. -/
  | dpeAbort
  /-- UNLOAD (R263). The dispatch code memory and scratch are cleared and the loads are dropped. -/
  | dpeUnload
  /-- UNLOAD_CLEAR_DONE (R263). The UNLOAD clearing ends and a waiting load may start. -/
  | unloadClearDone
  /-- DPE_EN (R277). A write of 0 to DPE.CTRL.EN stops a running solve as ABORT. -/
  | dpeEn (on : Bool)
  /-- SCFG_WRITE (R277). A write of DPE.SCFG sets the periodic start, or is ignored with CMDREF. -/
  | scfgWrite (val : BitVec 32)
  /-- CAPS_WRITE (R277). A write of DPE.CAPS sets the caps for the next solve, or is ignored with CMDREF. -/
  | capsWrite (val : BitVec 32)
  /-- SCRATCH_WRITE (R260). A host write to the dispatch scratch completes only in an IDLE engine and a HOSTW DATA section. -/
  | scratchWrite (src : Src) (off : BitVec 23) (data : List Byte)
  /-- GATHER_COMPLETE (R264). The gather completes, registers are set under R244 and E72 is raised, or a failed gather ends with GFAIL. -/
  | gatherComplete (failed : Bool)
  /-- STAGING_COMPLETE (R269). The mailbox staging completes, MBFULL is set and the engine returns to IDLE. -/
  | stagingComplete
  /-- SOLVE_DEADLINE (R266). The time cap of a solve expires; the engine stops and LATE is staged. -/
  | solveDeadline
  /-- DPE_MEMORY_ERROR (R262). An uncorrectable error in scratch or code memory stops the solve with FAULT. -/
  | dpeMemoryError (corrected code : Bool) (addr : BitVec 23)
  /-- IADD (R249). Integer add modulo 2^32. -/
  | dIadd (d a b : Fin 16)
  /-- ISUB (R249). Integer subtract modulo 2^32. -/
  | dIsub (d a b : Fin 16)
  /-- IADDI (R249). Integer add of an immediate. -/
  | dIaddi (d a : Fin 16) (imm : Word)
  /-- ILI (R249). Integer load of an immediate. -/
  | dIli (d : Fin 16) (imm : Word)
  /-- IMUL (R249). Integer multiply, low 32 bits. -/
  | dImul (d a b : Fin 16)
  /-- FADD (R246). FP32 add. -/
  | dFadd (d a b : Fin 16)
  /-- FSUB (R246). FP32 subtract. -/
  | dFsub (d a b : Fin 16)
  /-- FMUL (R246). FP32 multiply. -/
  | dFmul (d a b : Fin 16)
  /-- FFMA (R246). FP32 fused multiply-add. -/
  | dFfma (d a b c : Fin 16)
  /-- FDIV (R246). FP32 divide. -/
  | dFdiv (d a b : Fin 16)
  /-- FSQRT (R246). FP32 square root. -/
  | dFsqrt (d a : Fin 16)
  /-- FMM (R246). FP32 maximum, minimum or absolute value. -/
  | dFmm (d : Fin 16) (f : DMm (Fin 16))
  /-- FLI (R249). FP32 register load of an immediate. -/
  | dFli (d : Fin 16) (imm : Word)
  /-- DPE_CVT (R249). Conversion between an integer and an FP32 register. -/
  | dCvt (toInt : Bool) (d a : Fin 16)
  /-- LDW (R261). A scratch word is loaded into a register. -/
  | dLdw (int : Bool) (d a : Fin 16) (imm : Word)
  /-- STW (R261). A register is stored to a scratch word, or the solve faults on a protected section. -/
  | dStw (int : Bool) (a b : Fin 16) (imm : Word)
  /-- VDSET (R249). A vector descriptor is set from a base and a length. -/
  | dVdset (d : Fin 32) (a : Fin 16) (base : BitVec 23)
  /-- VDSUB (R249). A vector descriptor is set to a sub-range of another. -/
  | dVdsub (d a : Fin 32) (b c : Fin 16)
  /-- DPE_NOP (R249). No operation of the dispatch engine. -/
  | dNop
  /-- VCPY (R251). Vector copy. -/
  | dVcpy (d a : Fin 32)
  /-- VSET (R251). Every element of a vector is set to a scalar. -/
  | dVset (d : Fin 32) (c : Fin 16)
  /-- VAXPY (R251). Scaled vector plus vector. -/
  | dVaxpy (d a b : Fin 32) (c : Fin 16)
  /-- VAXPBY (R251). Sum of two scaled vectors. -/
  | dVaxpby (d a b : Fin 32) (c f : Fin 16)
  /-- VMUL (R251). Element-wise vector multiply. -/
  | dVmul (d a b : Fin 32)
  /-- VDIV (R251). Element-wise vector divide. -/
  | dVdiv (d a b : Fin 32)
  /-- VMM (R251). Element-wise maximum, minimum or absolute value. -/
  | dVmm (d : Fin 32) (f : DMm (Fin 32))
  /-- VPROJ (R251). Element-wise projection between two bounds. -/
  | dVproj (d a b c : Fin 32)
  /-- VNRM (R247). Infinity norm, 2-norm or sum of a vector. -/
  | dVnrm (f : DNorm) (d : Fin 16) (a : Fin 32)
  /-- VDOT (R247). Dot product of two vectors. -/
  | dVdot (d : Fin 16) (a b : Fin 32)
  /-- SPMV (R251). Sparse matrix-vector product. -/
  | dSpmv (d : Fin 32) (m : Fin 8) (b : Fin 32) (c f : Fin 16)
  /-- SPMVT (R251). Sparse transposed matrix-vector product. -/
  | dSpmvt (d : Fin 32) (m : Fin 8) (b : Fin 32) (c f : Fin 16)
  /-- SPMVS (R251). Symmetric product with P from its upper triangle. -/
  | dSpmvs (d b : Fin 32) (c f : Fin 16)
  /-- LDLF (R250). Numeric factorisation of K into the factor, setting or clearing BRK. -/
  | dLdlf (b c : Fin 32)
  /-- TRSVL (R250). Forward triangular solve with the factor. -/
  | dTrsvl (d a : Fin 32)
  /-- TRSVU (R250). Backward triangular solve with the factor. -/
  | dTrsvu (d a : Fin 32)
  /-- DSOLVE (R250). Diagonal solve with D of the factor. -/
  | dDsolve (d a : Fin 32)
  /-- B (R252). Branch when the condition holds. -/
  | dB (c : DCond) (tgt : BitVec 14)
  /-- DPE_CALL (R252). Call with a push on CST, or a fault when CST is full. -/
  | dCall (tgt : BitVec 14)
  /-- DPE_RET (R252). Return with a pop from CST, or a fault when CST is empty. -/
  | dRet
  /-- ITMARK (R253). ITER increments and control passes to the cap entry at the iteration cap. -/
  | dItmark
  /-- RPT (R249). The primal and dual residuals are reported in DPE.PRES and DPE.DRES. -/
  | dRpt (a b : Fin 16)
  /-- GSTAT (R249). A solve information value is read into an integer register. -/
  | dGstat (f : Fin 5) (d : Fin 16)
  /-- CLRF (R249). NANF is cleared. -/
  | dClrf
  /-- DONE (R268). The solve ends with its result, and the publish vector is checked and converted. -/
  | dDone (r : DResult) (a : Fin 32)
  /-- SAMPLE (R281). A calibrated sample of a channel leaves the signal chain and feeds windows and energy. -/
  | sample (n : Fin 32) (code : BitVec 24) (unstable : Bool)
  /-- SETTLED_SAMPLES (R290). After 128 zero samples following a PGA or SENSOR change, the channel delivers settled samples. -/
  | settledSamples (n : Fin 32)
  /-- WINDOW_END (R295). A positive crossing ends a feeder window; the tracker is updated and the results are computed. -/
  | windowEnd (f : Fin 8) (back : BitVec 16)
  /-- FIXED_WINDOW_END (R294). In NOSYNC, 1,600 samples after the last window end, a fixed window ends. -/
  | fixedWindowEnd (w : Fin 9)
  /-- TRACKER_TIMEOUT (R294). 50 ms without a crossing returns the tracker to NOSYNC. -/
  | trackerTimeout (f : Fin 8)
  /-- APPLY (R288). The staged calibration words of the masked channels are applied together, or refused under CALLOCK. -/
  | apply (src : Src) (mask : BitVec 32)
  /-- CALLOCK (R291). A write of 1 locks calibration until a reset that runs boot. -/
  | callock (src : Src)
  /-- FEEDER_CFG_WRITE (R302). A feeder configuration takes effect at the next sample, with PTEN refused on a bad point block. -/
  | feederCfgWrite (src : Src) (f : Fin 8) (v : BitVec 32)
  /-- REFDRIFT_CHECK (R305). The hourly comparison of the converter reference updates REFDRIFT and may raise REFALM. -/
  | refdriftCheck (ppm : BitVec 16)
  /-- FILTER_MEMORY_ERROR (R306). An uncorrectable error in filter memory makes the channel deliver 0 and raises E86. -/
  | filterMemoryError (n : Fin 32)
  /-- BILLING_INTERVAL_END (R310). A billing interval ends and its energy is added to the registers of the tariff in force. -/
  | billingIntervalEnd (f : Fin 8)
  /-- SNAP (R324). The selected feeders and the heat set are marked pending for a latched snapshot. -/
  | snap (src : Src) (fmask : BitVec 8) (heat : Bool)
  /-- HEAT_SNAPSHOT (R324). At F+600 µs a pending heat latch or save capture of the heat set is taken. -/
  | heatSnapshot
  /-- SAVE_DUE (R328). A periodic billing save falls due; an uncommitted previous save is abandoned. -/
  | saveDue
  /-- SAVENOW (R328). A billing save is made due at once. -/
  | savenow (src : Src)
  /-- SAVE_DONE (R329). A billing save commits, SAVESEQ increments and E91 is raised. -/
  | saveDone
  /-- CLEAR (R335). Every billing register is set to 0 and a save is made due, or CLEAR is refused under CALLOCK. -/
  | clear (src : Src)
  /-- GAPCLR (R333). The GAP registers are set to 0 and GAPSTAT to NONE. -/
  | gapclr (src : Src)
  /-- HEAT_CFG_WRITE (R322). A heat channel configuration write is accepted, ignored or refused with CFGREF. -/
  | heatCfgWrite (src : Src) (c : Fin 1024) (word : Fin 4) (v : BitVec 32)
  /-- SAVECFG_WRITE (R343). A write of the save period and phase takes effect or is ignored. -/
  | savecfgWrite (src : Src) (period phase : BitVec 12)
  /-- BILLING_REGISTER_ERROR (R336). An uncorrectable error restores the register from the last save and raises E95. -/
  | billingRegisterError (n : Fin 1280) (corrected : Bool)
  /-- PULSE_INPUT_EDGE (R339). A filtered edge of a pulse input increments its count. -/
  | pulseInputEdge (n : Fin 32) (falling : Bool)
  /-- PULSE_EMIT (R341). A pulse output emits a pulse from its backlog once its previous pulse and gap have ended. -/
  | pulseEmit (n : Fin 8)
  /-- PULSE_OUT_CFG_WRITE (R341). A configuration write to an enabled pulse output clears its accumulator and backlog. -/
  | pulseOutCfgWrite (src : Src) (n : Fin 8) (v : BitVec 32)
  /-- MDOMAIN_WRITE (R354). A write of mdomain sets the domain of later transactions of the core. -/
  | mdomainWrite (core : Fin 4) (machineMode : Bool) (sdomain : Bool) (op : CsrOp)
  /-- CACHE_WRITEBACK (R358). A cache line is written back; a refused writeback is dropped and recorded. -/
  | cacheWriteback (core : Fin 4) (line : BitVec 40) (answered : Bool)
  /-- CACHE_ERROR (R360). A cache parity or ECC error is corrected, refetched or raises an access fault. -/
  | cacheError (core : Fin 4) (err : CacheErr) (addr : BitVec 40) (store : Bool)
  /-- ACT_RD (R376). The selected access-table window is loaded into WLO and WHI. -/
  | actRd (src : Src)
  /-- ACT_WR (R376). The selected access-table window is written whole, or the write is refused. -/
  | actWr (src : Src)
  /-- HOSTWR (R375). M4 allows or forbids host writes to the access tables. -/
  | hostwr (src : Src) (allow : Bool)
  /-- ACT_LOCK (R375). LOCK is set, refusing host table writes until reset. -/
  | actLock (src : Src)
  /-- INIT (R367). DDR4 training starts. -/
  | ddrInit (src : Src)
  /-- DDR_TRAINING_DONE (R367). DDR4 training ends with READY or TFAIL, and E218 is raised. -/
  | ddrTrainingDone (ok : Bool)
  /-- SCRUB_PASS (R365). A patrol pass of SRAM or DDR4 ends and E222 is raised. -/
  | scrubPass (ddr : Bool) (corrected : BitVec 31) (ues : List (BitVec 40))
  /-- INV (R381). An IOTLB invalidation starts. -/
  | xltInv (src : Src) (vpn : BitVec 27) (as : BitVec 6) (allva allas : Bool)
  /-- INV_DONE (R381). The invalidation ends after the affected transactions complete; INVBUSY clears and E204 is raised. -/
  | invDone
  /-- PIN_WRITE (R383). A pin-table entry is written, or the write is refused with PINREF. -/
  | pinWrite (src : Src) (n : Fin 256) (pa : Bool) (val : BitVec 64)
  /-- BIND_WRITE (R384). A channel binding is written, or ignored with BINDREF while the channel is enabled. -/
  | bindWrite (src : Src) (n : Fin 64) (val : BitVec 32)
  /-- TENDER_EN (R399). A write of TND.CTRL.EN starts the Tender or stops every channel. -/
  | tenderEn (src : Src) (on : Bool)
  /-- CHANNEL_EN (R390). A write of a channel's EN enables it to IDLE or disables it as ABORT. -/
  | channelEn (src : Src) (n : Fin 64) (cfg : BitVec 32)
  /-- START (R390). A trigger starts a Tender chain, or sets PEND, or is lost. -/
  | tndStart (n : Fin 64) (trig : Trigger)
  /-- RESUME (R393). A paused channel continues from FOFF, or the command is refused. -/
  | tndResume (src : Src) (n : Fin 64)
  /-- TND_ABORT (R393). A channel stops after its outstanding bursts and returns to IDLE. -/
  | tndAbort (src : Src) (n : Fin 64)
  /-- DESCRIPTOR_FETCH (R387). A descriptor fetch completes and is checked. -/
  | descriptorFetch (n : Fin 64)
  /-- GRANULE_ISSUE (R386). The datapath translates and issues one granule of the highest ready class. -/
  | granuleIssue (err : PoolErr)
  /-- TRANSLATION_FAULT (R392). A failed translation pauses the channel after earlier granules complete and records the fault. -/
  | translationFault (n : Fin 64)
  /-- TND_ERROR (R391). A FORMAT, violation, uncorrectable error or timeout ends the channel in ERROR. -/
  | tndError (n : Fin 64) (err : BurstErr) (dst : Bool)
  /-- DESCRIPTOR_COMPLETE (R395). A descriptor completes; DONECNT and DONEEV act and the chain continues or ends. -/
  | descriptorComplete (n : Fin 64)
  /-- FRAME_RECEIVED (R405). A taken Ethernet frame is classified and its deciding rule's action applied. -/
  | frameReceived (port : Fin 6) (fcsOk : Bool) (frame : List Byte)
  /-- TRANSMIT (R415). A port starts sending the next packet of its highest ready class. -/
  | pktTransmit (port : Fin 6) (err : PoolErr)
  /-- LINK_CHANGE (R437). A port's link state changes and its event is raised. -/
  | linkChange (port : Fin 6) (up : Bool)
  /-- PKT_STATION_WRITE (R414). A PKT station entry write is accepted, or refused with STREF when it breaks the build sum. -/
  | pktStationWrite (src : Src) (n : Fin 1536) (word : Fin 3) (val : BitVec 64)
  /-- BEGIN (R422). A producer opens a packet on a queue. -/
  | morBegin (src : Src) (q : Fin 64)
  /-- PUSH (R422). A producer appends one word to its open packet. -/
  | morPush (src : Src) (q : Fin 64) (w : BitVec 64)
  /-- PACKET_END (R422). END writes the length word and appends the packet to the queue. -/
  | packetEnd (src : Src) (q : Fin 64) (flags : BitVec 8) (last : BitVec 3)
  /-- POP (R425). A read of Qn_POP returns and removes the next word of the head packet. -/
  | morPop (src : Src) (q : Fin 64) (err : PoolErr)
  /-- FLUSH (R432). A queue is emptied at once, open packets included. -/
  | morFlush (q : Fin 64)
  /-- BANKEN (R434). A write withdraws or returns the cells of a pool bank. -/
  | banken (en : BitVec 16)
  /-- QUARANTINE (R435). The Keeper quarantines a Mooring cell. -/
  | quarantine (src : Src) (cell : BitVec 16)
  /-- QUARANTINE_RETURN (R435). The Keeper returns a cell from quarantine. -/
  | quarantineReturn (src : Src) (cell : BitVec 16)
  /-- CAN_FRAME_STORED (R444). A frame received without error is stored in the matching receive object. -/
  | canFrameStored (n : Fin 8) (f : CanFrame)
  /-- START_OF_FRAME (R446). At a start of frame the controller chooses its transmit candidate for arbitration. -/
  | startOfFrame (n : Fin 8)
  /-- CAN_FRAME_SENT (R446). A transmitted frame completes; TXOK or CANCEL_LATE is set. -/
  | canFrameSent (n : Fin 8)
  /-- CAN_ERROR (R451). A detected error updates TEC and REC and the fault-confinement state. -/
  | canError (n : Fin 8) (e : CanErr)
  /-- BUS_OFF_RECOVERY (R452). After 128 occurrences of 11 recessive bits a bus-off controller becomes error active. -/
  | busOffRecovery (n : Fin 8)
  /-- TXRQ (R446). A send object is requested for transmission. -/
  | canTxrq (src : Src) (n : Fin 8) (m : Fin 128)
  /-- CANCEL (R449). A send object's transmission is cancelled at once or held. -/
  | canCancel (src : Src) (n : Fin 8) (m : Fin 128)
  /-- FIFO_PUSH (R448). The staged entry is appended to the transmit FIFO, or refused when it is full. -/
  | fifoPush (src : Src) (n : Fin 8)
  /-- FIFO_FLUSH (R450). Every FIFO entry not in arbitration is removed. -/
  | fifoFlush (src : Src) (n : Fin 8)
  /-- TIMING_WRITE (R441). A write of NBT or DBT takes effect or is refused with CMDREF. -/
  | timingWrite (src : Src) (n : Fin 8) (data : Bool) (val : BitVec 32)
  /-- CAN_MODE (R455). A write of MODE changes the controller mode and clears NOK and DOK. -/
  | canMode (src : Src) (n : Fin 8) (mode : BitVec 2)
  /-- OBJECT_WRITE (R447). A write to an object is ignored with OBJREF while it is requested or in arbitration. -/
  | objectWrite (src : Src) (n : Fin 8) (m : Fin 128) (word : Fin 32) (val : BitVec 32)
  /-- LOCK (R470). A lock session opens and the clock enters LOCKING. -/
  | timLock (src : Src)
  /-- LOCKED (R470). The clock enters LOCKED. -/
  | timLocked (src : Src)
  /-- HOLD (R470). The clock enters HOLDOVER at RATE. -/
  | timHold (src : Src)
  /-- RELOCK (R470). The clock returns from HOLDOVER to LOCKED. -/
  | timRelock (src : Src)
  /-- FREE (R470). The clock enters FREE. -/
  | timFree (src : Src)
  /-- STEP (R471). STEPVAL is added to network time, or the step is refused. -/
  | timStep (src : Src)
  /-- KEEP (R470). The servo timeout restarts. -/
  | timKeep (src : Src)
  /-- CAPT (R481). TFREE and NT are latched at one counter edge. -/
  | timCapt (src : Src)
  /-- RATE_WRITE (R468). A write of RATE takes effect or is refused with RATEREF. -/
  | rateWrite (src : Src) (rate : BitVec 32)
  /-- SLEW_GO (R472). A slew of the given phase over the given time starts, or is refused. -/
  | slewGo (src : Src) (ms : BitVec 24)
  /-- SLEW_END (R472). The slew time ends; the increment is removed, the residual added and E162 raised. -/
  | slewEnd
  /-- SERVO_TIMEOUT (R470). No servo write has arrived for SERVOTO ms and the clock leaves LOCKING or LOCKED. -/
  | servoTimeout
  /-- CLOCK_FOLD (R467). Every 2^30 ns the clock folds BASE, FRAC and TBASE. -/
  | clockFold
  /-- TP_ARM (R478). A light character is armed, or refused with CFGREF. -/
  | tpArm (src : Src) (n : Fin 16) (cfg : BitVec 32)
  /-- TP_STOP (R478). A light character stops at once, sets DONE and raises E165. -/
  | tpStop (src : Src) (n : Fin 16)
  /-- TP_EDGE (R476). A light-character pulse rises, falls, or is skipped at its time. -/
  | tpEdge (n : Fin 16)
  /-- WRITE_REQUEST (R503). A record write request is pushed and given a ticket, or refused with QREF. -/
  | nvmWrite (src : Src) (len : BitVec 13) (txn ie : Bool)
  /-- GROUP_COMMIT (R496). A commit group's commit line is programmed and its records take effect. -/
  | groupCommit (plane : Fin 4) (verified : Bool)
  /-- READ_REQUEST (R505). A read of the live version of a record starts. -/
  | nvmRead (src : Src)
  /-- READ_DONE (R505). A record read ends with its result in RSTAT. -/
  | nvmReadDone (lost : Bool)
  /-- COMPACTION_START (R511). With fewer than 20 FREE sectors, or on wear spread, the part starts compacting a sector. -/
  | compactionStart
  /-- COMPACTION_PAGE (R511). Each PACE ms one source page is copied to the destination. -/
  | compactionPage
  /-- SECTOR_ERASE_DONE (R512). A sector erase ends and line 0 is programmed with its EC and ESQ. -/
  | sectorEraseDone (verified : Bool)
  /-- COMPACT_REQUEST (R516). The Keeper names a record-store sector to compact. -/
  | compactRequest (src : Src) (sector : BitVec 8) (refresh : Bool)
  /-- CODE_REFRESH (R517). The Keeper starts the refresh of a code-region sector. -/
  | codeRefresh (src : Src) (sector : BitVec 10) (bad : Bool)
  /-- CNTINC (R520). A host spread counter is counted by one partial program of its next cell. -/
  | cntinc (src : Src) (cnt : BitVec 4)
  /-- POWER_DOWN_COMPLETE (R525). The power-down-complete record commits after the rest of the commit and PDDONE is set. -/
  | powerDownComplete
  /-- MODE_WRITE (R528). The key unit leaves START for RUN or TEST, or the write is refused. -/
  | modeWrite (src : Src) (mode : BitVec 2)
  /-- CREATE (R539). A new ledger node is created. -/
  | keyCreate (src : Src) (node parent : Fin 1024)
  /-- INVALIDATE (R536). A node's GEN is incremented and its descendants become ORPHAN. -/
  | keyInvalidate (src : Src) (node : Fin 1024)
  /-- UPDATE (R550). A USE node takes a new count and EXHAUSTED clears. -/
  | keyUpdate (src : Src) (node : Fin 1024)
  /-- DELETE (R539). A node and its descendants are invalidated and freed. -/
  | keyDelete (src : Src) (node : Fin 1024)
  /-- REENROL (R533). Re-enrolment of the PUF is made due at the next start. -/
  | keyReenrol (src : Src)
  /-- RECOVER (R553). A signed recovery blob leaves RECOVERY, optionally with a new root, and resets the part. -/
  | keyRecover (src : Src) (tamperLow : Bool)
  /-- ANCHOR (R539). KEY.ANCHOR is written once. -/
  | keyAnchor (src : Src)
  /-- LEDGER_COMMIT (R541). The ledger update commits, the change takes effect, LEDGERU advances and E177 is raised. -/
  | ledgerCommit (ok : Bool)
  /-- ENG_SEL (R544). An engine's key register is loaded from a node, or the load is refused. -/
  | engSel (src : Src) (e : Fin 8) (node : Fin 1024)
  /-- JOB_SUBMIT (R547). A crypto job is submitted, its key and addresses are checked, and it runs or ends at once. -/
  | jobSubmit (src : Src) (e : Fin 8)
  /-- JOB_DONE (R548). A crypto job ends with its result. -/
  | jobDone (e : Fin 8)
  /-- FLOOR_COMMIT (R550). A new FLOOR of a use counter commits and a waiting job proceeds. -/
  | floorCommit (node : Fin 1024)
  /-- SCMD (R551). A slot is written from SVAL0–SVAL7. -/
  | slotWrite (src : Src) (slot : Fin 64)
  /-- TAMPER (R552). TAMPER_N low zeroises every key, enters RECOVERY and writes the tamper latch. -/
  | tamper
  /-- KEY_RAM_ERROR (R554). An uncorrectable error in key RAM zeroises the node's secret and marks it ORPHAN. -/
  | keyRamError (node : Fin 1024)
  /-- SWRAISE (R557). Software raises one of E224–E255, or is refused with SWREF. -/
  | swraise (src : Src) (n : Fin 32)
  /-- CLAIM (R559). A read of a context's CLAIM returns and clears its lowest pending event. -/
  | claim (src : Src) (c : Fin 9)
  /-- LOG_RECORD (R563). A Logbook record reaches the Logbook, takes its SEQ and enters the tail. -/
  | logRecord
  /-- RATE_WINDOW_CLOSE (R567). A code's rate window closes and a summary of suppressed occurrences is written. -/
  | rateWindowClose (code : Fin 1024)
  /-- LOG_WRITE (R566). Host software writes a Logbook record, or is refused with WREF. -/
  | logWrite (src : Src) (code : BitVec 10) (sev : BitVec 3)
  /-- NEXT (R572). A reader port searches the ring for the next record of its domain. -/
  | logNext (src : Src) (p : Fin 8)
  /-- READER_DONE (R573). A reader port's search ends and the record is verified. -/
  | readerDone (p : Fin 8)
  /-- LOG_CLEAR (R574). A signed clear blob is submitted. -/
  | logClear (src : Src) (addr : BitVec 40)
  /-- CLEAR_VERDICT (R575). The clear blob is accepted and the Logbook cleared, or refused. -/
  | clearVerdict
  /-- HEARTBEAT_PERIOD (R590). Every 5 ms a DUPLEX unit sends HEARTBEAT on both paths. -/
  | heartbeatPeriod
  /-- HEARTBEAT (R581). A HEARTBEAT from the peer is received and checked. -/
  | heartbeat (path : WPath) (m : WatchMsg)
  /-- CHECKPOINT_DUE (R591). The checkpoint period expires and a capture falls due, or is skipped. -/
  | checkpointDue
  /-- CKNOW (R591). A checkpoint capture is requested at once. -/
  | cknow (src : Src)
  /-- CK_SEG_SEND (R592). The active unit sends the next checkpoint segment. -/
  | ckSegSend
  /-- CK_SEG (R592). The standby receives a checkpoint segment and may complete the checkpoint. -/
  | ckSeg (path : WPath) (m : WatchMsg)
  /-- CK_ACK (R594). The active unit receives the acknowledgement of a checkpoint. -/
  | ckAck (path : WPath) (m : WatchMsg)
  /-- LEASE_REQ_PERIOD (R584). Every 25 ms a unit sends LEASE_REQ to the witness. -/
  | leaseReqPeriod
  /-- REQUEST_UNANSWERED (R584). A lease request unanswered for 5 ms switches to the other witness address. -/
  | requestUnanswered
  /-- LEASE_REQ (R582). The witness receives a lease request and grants or denies it. -/
  | leaseReq (m : WatchMsg)
  /-- CONFIRM_Q (R582). The witness receives a confirmation query and answers, holds it or grants. -/
  | confirmQ (m : WatchMsg)
  /-- RELEASE (R582). A RELEASE ends the holder's lease at the witness, or prompts the peer to query. -/
  | release (path : WPath) (m : WatchMsg)
  /-- LEASE_GRANT (R586). A unit receives a lease grant and becomes or stays ACTIVE. -/
  | leaseGrant (m : WatchMsg)
  /-- LEASE_DENY (R586). A unit receives a lease denial and goes to STANDBY, FENCED or stops querying. -/
  | leaseDeny (m : WatchMsg)
  /-- WAIT (R582). A unit receives WAIT with the holder's remaining lease time. -/
  | wait (m : WatchMsg)
  /-- LEASE_END (R584). The active unit's lease ends on its own clock and it becomes ISOLATED. -/
  | leaseEnd
  /-- WITNESS_EXPIRY (R582). A holder's lease expires at the witness and a held query is answered. -/
  | witnessExpiry
  /-- WITNESS_START (R583). 102 ms after its start the witness begins granting. -/
  | witnessStart
  /-- SILENCE (R586). No accepted message from the peer for 15 ms; a standby with a checkpoint queries the witness. -/
  | silence
  /-- CONFIRM_Q_REPEAT (R586). Every 10 ms a querying standby repeats CONFIRM_Q. -/
  | confirmQRepeat
  /-- PATH_SILENCE (R589). One path silent for 15 ms clears its PATH bit and raises E193. -/
  | pathSilence (path : WPath)
  /-- WITNESS_UNREACHABLE (R585). After 1 s without a witness answer E199 is raised and a record written. -/
  | witnessUnreachable
  /-- SWITCH (R594). The active unit hands the ACTIVE role to a fit peer after a final checkpoint. -/
  | switch (src : Src)
  /-- SWITCH_ACK_TIMEOUT (R594). No CK_ACK within 100 ms abandons the SWITCH. -/
  | switchAckTimeout
  /-- JOIN (R586). A FENCED unit clears its application memories and becomes STANDBY. -/
  | join (src : Src)
  /-- SELF_TEST_CYCLE (R596). A standby completes a cycle of self-tests and updates its health word. -/
  | selfTestCycle (pass : BitVec 5) (fails : List TestFail)
  /-- HOURLY_READING (R599). The Keeper takes its hourly readings, checks margins and writes an hourly record. `d` holds the counts of
  the stressed and the reference oscillator of each island (R600). -/
  | hourlyReading (d : List (BitVec 32 × BitVec 32)) (mv : BitVec 12) (supplies : List (BitVec 32))
  /-- TEMPERATURE_READING (R621). The 1 s thermal reading updates the mission profile and may set PROFEXC. -/
  | temperatureReading (t : List (BitVec 16))
  /-- MARGIN_READ (R613). A scheduled flash margin read of a sector may request a compaction or refresh. -/
  | marginRead (code : Bool) (sector : BitVec 10) (low : Bool)
  /-- VDD_CONFIRMED (R605). The supply monitor confirms a raised code and the Keeper raises the steps. -/
  | vddConfirmed (mv : BitVec 12)
  /-- SUPPLY_CONFIRM_TIMEOUT (R606). A raised code is not confirmed within 1 ms; SUPFAIL is set and E15 raised. -/
  | supplyConfirmTimeout
  /-- PLAN (R609). The host requests a re-plan. -/
  | keepPlan (src : Src)
  /-- READ (R599). The host requests an hourly reading now. -/
  | keepRead (src : Src)
  /-- ACCEPT (R615). The host accepts the standing retirement proposal. -/
  | keepAccept (src : Src)
  /-- UNRETIRE (R617). A HOST retirement is removed from the plan record for the next start. -/
  | keepUnretire (src : Src) (isl : BitVec 5)
  /-- POR (R628). VDD_KEEP enters range and the part takes a power-on reset. -/
  | por
  /-- PIN_RESET (R628). RESET_N low for 1 µs resets the part at once. -/
  | pinReset
  /-- SYSTEM_WATCHDOG_EXPIRY (R647). The watchdog period expires: the first time it warns, the second time it fires SYSWD. -/
  | systemWatchdogExpiry
  /-- PORT_ISOLATION_TIMEOUT (R628). A port of island 1 or 12–19 isolated for 10 ms fires reset source KEEPER. -/
  | portIsolationTimeout (isl : Fin 20)
  /-- RESET (R628). A write of SYS.RSTCMD.RESET fires SOFT after the save. -/
  | reset (src : Src) (cold : Bool)
  /-- KEEPER_WATCHDOG (R628). The Keeper core misses its lock-up kick for 100 ms and fires KEEPWD. -/
  | keeperWatchdog
  /-- SAVE_TIMEOUT (R628). 13 ms after a save-first source fires, its reset takes effect. -/
  | saveTimeout
  /-- PFRET (R644). PFI_N high for 100 ms in POWERDOWN resets the part with source PFRET. -/
  | pfret
  /-- BOOT (R631). After a reset takes effect the boot stages run and the cores start at ENTRY. -/
  | boot (b : BootIn)
  /-- SUPPLIES_IN_RANGE (R625). Every supply reads in range and islands 1–19 leave reset. -/
  | suppliesInRange
  /-- SUPPLY_TIMEOUT (R625). A supply still out of range at 100 ms stops boot with FAIL = SUPPLY. -/
  | supplyTimeout
  /-- POWER_FAIL (R638). PFI_N low for 1 µs starts the power-fail sequence and the power-down commit. -/
  | powerFail
  /-- SUPPLY_OUT_OF_RANGE (R627). A supply leaves range, its SUPSTAT bit clears, E7 is raised and FOGHORN SUPPLY is set. -/
  | supplyOutOfRange (n : Fin 8)
  /-- WATCHDOG_EN (R646). A write of SYS.WDCFG.EN starts the system watchdog. -/
  | watchdogEn (src : Src) (period : BitVec 16)
  /-- WDKICK (R646). The key restarts the watchdog period; any other value counts as an expiry. -/
  | wdkick (src : Src) (key : BitVec 16)
  /-- CONFIRM (R635). TRIAL is cleared and FLOOR may be raised. -/
  | confirm (src : Src)
  /-- SLOT_SWITCH (R635). The other image slot is made PREF with TRIAL for the next start, or refused. -/
  | slotSwitch (src : Src) (bad : Bool)
  /-- COLDNOW (R636). The restart mode is lowered to cold before the first RUN. -/
  | coldnow (src : Src)
  /-- FOGSW (R648). Software sets or clears FOGHORN condition SOFTWARE. -/
  | fogsw (src : Src) (on : Bool)
  /-- MACHINE_TIMER (R350). MTIME reaches a core's MTIMECMP and its machine timer interrupt is asserted. -/
  | machineTimer
  /-- SET (R668). GPIO SET sets output bits. -/
  | set (src : Src) (mask : BitVec 16)
  /-- CLR (R668). GPIO CLR clears output bits. -/
  | clr (src : Src) (mask : BitVec 16)
  /-- ARBITRATION_LOST (R449). A CAN frame of a send object or FIFO head loses arbitration; ARB clears, a held CANCEL takes effect, and a frame held under R460 gets its new data. -/
  | arbitrationLost (n : Fin 8)
  /-- PULSE_END (R341). A pulse output's pulse of WIDTH ms ends and its gap begins. -/
  | pulseEnd (n : Fin 8)
  /-- SUPPLY_BACK_IN_RANGE (R627). A supply other than VDD_KEEP returns into its monitor window while the part runs; its SUPSTAT bit sets and FOGHORN condition SUPPLY clears. -/
  | supplyBackInRange (n : Fin 8)
  /-- LOSS_OF_SUPPLY (R626). The supplies fall out of range, VDD_KEEP included; everything stops, a page being programmed is left as R489 states, and the part is held in power-on reset. -/
  | lossOfSupply
  /-- PFI_N_RETURNS_HIGH (R644). PFI_N returns high, which in POWERDOWN starts the 100 ms that lead to the PFRET reset. -/
  | pfiNReturnsHigh
  /-- TAMPER_RESET (R628). 30 µs after TAMPER_N falls, or when the tamper latch is written, the TAMPER reset source takes effect. -/
  | tamperReset
  /-- KEY_COMMAND_END (R553). A key command that takes time without a ledger commit, ANCHOR (12 ms) or RECOVER (up to 3 ms), ends; the anchor is written or RECOVER is accepted and resets the part, or the command is refused. -/
  | keyCommandEnd
  /-- CODE_SECTOR_PROGRAMMED (R517). During a code refresh the erased sector has been programmed back and verified at margin, and the tombstone of the copy is written. -/
  | codeSectorProgrammed
  deriving DecidableEq, Repr

end Sys2Proof
end

