-- ==== Sys2Proof/Decode.lean ====
section
/-! DEFINITION. The reading of a word by the bits of the table's rows. The table gives no row any bits: commands reach the
block over its bus, its pins and its engines, and no word spells one. The words of Uscia Logic Code and of Balsil code are
data of the block; Machine/UlcCode.lean and Machine/DpeCode.lean read and write those. -/

namespace Sys2Proof

/-- The command that a word spells: none, for the table gives bits to no row. -/
def decodeTableWord (_nbits _w : Nat) : Option Instr := none

end Sys2Proof
end

