-- ==== Sys2Proof/Config.lean ====
section
/-! DEFINITION. The free values: what the spec leaves open. Each is an opaque constant, so nothing can be proved of its
value and a statement that holds, holds whatever it is. -/

namespace Sys2Proof.Config

/-- The n-th free value (log entry 1, DESIGN CHOICE): a number the spec leaves open, cut to the width it is used at. -/
opaque freeNat : Nat → Nat

/-- The contents of the boot ROM, which the spec does not give (log entry 2, DESIGN CHOICE). -/
opaque bootRom : Nat → Byte

/-- The first 8 bytes of HMAC-SHA-256 under K4 over bytes 0-23 of a Logbook record and the tag before it (R562): the
spec names the function by its standard (log entry 4, DESIGN CHOICE). -/
opaque logTag : List Byte → BitVec 64 → BitVec 64

/-- SHA-256 and SHA-384 of a message, by their standards (R543). -/
opaque sha256 : List Byte → List Byte
opaque sha384 : List Byte → List Byte

/-- Whether an ECDSA signature verifies (R543): P-384 or P-256, public key, message, signature. -/
opaque ecdsaVerify : Bool → List Byte → List Byte → List Byte → Bool

/-- AES-256-GCM of the record-store cipher under K3 (R500): nonce, header and payload give the cipher text, and the tag. -/
opaque gcmText : Nat → List Byte → List Byte → List Byte
opaque gcmTag : Nat → List Byte → List Byte → List Byte

/-- The root of a device, by the number of times it was enrolled anew (R530, R553): it comes from the power-up state of an
SRAM array that no rule gives. -/
opaque root : Nat → List Byte

/-- The KDF of R536: parent secret, label, context and bits of output. -/
opaque kdf : List Byte → List Byte → List Byte → Nat → List Byte

/-- The engines of R543 by their standards. AES-256-GCM with a job's key, IV, AAD and text: cipher text, plain text, tag. -/
opaque aeadSeal : List Byte → List Byte → List Byte → List Byte → List Byte
opaque aeadOpen : List Byte → List Byte → List Byte → List Byte → List Byte
opaque aeadTag : List Byte → List Byte → List Byte → List Byte → List Byte

/-- AES-128-CMAC of a message under a key. -/
opaque cmac : List Byte → List Byte → List Byte

/-- ECDSA: the signature of a message under a node's 448-bit output with a nonce, and its public key; the flag is P-384. -/
opaque ecdsaSign : Bool → List Byte → Nat → List Byte → List Byte
opaque ecdsaPublic : Bool → List Byte → List Byte

/-- AES-256 key wrap: the 40-byte blob of a secret, and the secret of a blob that unwraps. -/
opaque keyWrap : List Byte → List Byte → List Byte
opaque keyUnwrap : List Byte → List Byte → Option (List Byte)

/-- The ageing fit of R610 over an island's readings (operating time in 1/256 h, D in ppm): the n of the least squares as FP32,
the A that goes with an n, and A * t^n at 438,300 h in ppm. The rules state no rounding of the logarithms and powers. -/
opaque ageFitN : List (Nat × Nat) → Word
opaque ageFitA : List (Nat × Nat) → Word → Word
opaque ageProject : Word → Word → Nat

/-- Whether a P-384 signature of a message verifies under the key whose SHA-256 is given (R254: the image holds no key, the
ledger node holds the hash). -/
opaque verifyByHash : List Byte → List Byte → List Byte → Bool

/-- Whether VAXPY rounds once (R246 does not say), and which of three roundings VAXPBY takes: the first product fused, the
second, or none. -/
opaque axpyFused : Bool
opaque axpbyForm : Fin 3

/-- How the terms of a reduction are added: a zero, a term by number, two partial sums, or a partial sum to which the product of a
term is added with one rounding. -/
inductive SumTree where
  | zero | leaf (i : Nat) | node (l r : SumTree) | fused (l : SumTree) (i : Nat)
  deriving DecidableEq, Repr, Inhabited

/-- The order of R247, which the rule fixes by operand lengths and matrix structure and does not state: a function of these and of
the number of terms. -/
opaque sumTree : List Nat → Nat → SumTree

/-- The infinity norm of a vector with a NaN. -/
opaque nanNorm : List Word → Word

/-- Roundings that no rule states: whether a sparse product scales its terms before their sum, which of three roundings joins the sum
with the old element, whether the factorisation and the solve with D divide or multiply by a reciprocal. -/
opaque sparseScaled : Bool
opaque sparseForm : Fin 3
opaque reciprocal : Bool

/-- Where the factor holds the value of L at a row and column, by the supernodes (first column, columns, rows below); the stored
values and the updates of a supernode of so many columns and rows (R256, R257: the rules do not state the counts). -/
opaque factorSlot : List (Nat × Nat × List Nat) → Nat → Nat → Nat
opaque superStored : Nat → Nat → Nat
opaque superUpdates : Nat → Nat → Nat

/-! ## The memories of a Lantern as a read of its window shows them (R111, R363; log entry 41, DESIGN CHOICE) -/

/-- A byte of a program bank that no load has written; a byte of the IN window beyond the point set. -/
opaque bankByte : Nat → Nat → Nat → Byte
opaque idleByte : Nat → Nat → Byte

/-- A byte of the OUT staging, from the staged values; a timer entry and a counter entry as 64-bit words; a byte of the LRD mirror,
from its words; a byte of event bits and stacks, from the event bits, the depth of NS and the entries of CS. -/
opaque stagingByte : List (List (Nat × Word)) → Nat → Byte
opaque timerEntry : Nat → Bool → Bool → Bool → Bool → Nat
opaque counterEntry : Nat → Bool → Bool → Bool → Nat
opaque mirrorByte : List (Nat × Word) → Nat → Byte
opaque stackByte : BitVec 256 → Nat → List Nat → Nat → Byte

/-! ## Metering and billing (07, 08) -/

/-- A sample as a window or an interval takes it: number, weight in 1/65,536, calibrated code, its 90-degree shift, K and PGA in
force. -/
structure Meas where
  no : Nat
  w : Nat
  code : Int
  shift : Int
  k : Word
  pga : Nat
  deriving DecidableEq, Repr

/-- Whether a quotient whose rounding no rule states goes up from the integer below it. -/
opaque roundsUp : Int → Int → Bool

/-- Coefficients at 2^-32 of stages 7 and 8 (R281, R285): gain and pole of the high-pass; gain of the integrator by FNORM, which
normalises it to unity there, and its pole; the two weights of the compensation by frequency in mHz. -/
opaque highGain : Int
opaque highPole : Fin (2 ^ 32)
opaque intGain : Bool → Int
opaque intPole : Fin (2 ^ 32)
opaque compNew : Nat → Int
opaque compOld : Nat → Int

/-- The interpolation between samples of stage 9; the wide-band 90-degree shift of R298, as a filter whose memory is a number. -/
opaque fracDelay : Int → List Int → Int
opaque shiftStep : Nat → Int → Nat
opaque shiftOut : Nat → Int

/-- The window resampled for the harmonics (R301): cycles, point, and the samples as weight and value. -/
opaque resample : Nat → Nat → List (Nat × Int) → Int

/-- A result of a window or an interval where a K is no finite number, or a share of a fundamental of 0 (R297-R301, R310): its
place among the results and the samples it is formed from. -/
opaque meterOpen : Nat → List Meas → Word
opaque energyOpen : Nat → List Meas → Int

/-- The tables of R320, which are not printed, at 2^-32: density (kg/m3) or enthalpy (kJ/kg) at 2 degrees plus a number of half
kelvins; their cubic interpolation from the neighbouring entries and the part of a step. -/
opaque water : Bool → Nat → Int
opaque cubic : List Int → Nat → Int

/-- Energy at 2^-24 mWh of a heat update whose flow or K is negative or no number: whether from pulses, flow or K, pulses, and the
temperatures of density and of the two enthalpies. -/
opaque heatOpen : Bool → Word → Nat → Word → Word → Word → Nat

/-! ## Checkpoints and held values (13, 16) -/

/-- Values of a retentive entry: program number, domain, NAME, SPACE, an element a number (R167, R168). -/
structure RetEntry where
  prog : Nat
  dom : Nat
  name : Nat
  space : Nat
  vals : List Nat
  deriving DecidableEq, Repr

/-- A mailbox entry: values by point with CLAMPED, validity and information words with the points they land in (R269). -/
structure CkMail where
  vals : List (Nat × (Word × Bool))
  word : Word
  info : Word
  vpoint : Option Nat
  ipoint : Option Nat
  deriving DecidableEq, Repr

/-- A loop slot in a checkpoint: engine, slot, words 12-18 and 24-31 (R238). -/
structure CkLoop where
  eng : Nat
  slot : Nat
  words : List Word
  deriving DecidableEq, Repr

/-- What the gap sections of a checkpoint hold (R591): CKSEQ, FNUM, active forces, bytes of the WARM and Host sections that
follow, retentive entries, values of the output points, loop slots, mailbox entry. -/
structure CkData where
  seq : Nat
  fnum : Nat
  forces : Nat
  warm : Nat
  host : Nat
  retain : List RetEntry
  outs : List (Nat × Word)
  loops : List CkLoop
  mail : Option CkMail
  deriving DecidableEq, Repr

/-- The bytes of the gap sections, whose layout no rule gives; the length of a checkpoint as its header states it, from its
first 256 bytes; and what the bytes of a whole checkpoint hold. -/
opaque ckByte : CkData → Nat → Byte
opaque ckTotal : List Byte → Nat
opaque ckParse : List Byte → Option CkData

end Sys2Proof.Config
end

