-- ==== Sys2Proof/Machine/RegMap.lean ====
section
/-! DEFINITION. The register map: one name for every field of every register table of spec/ (address, lowest bit, width,
reset value), and the list of every block's registers with their access codes (R3-R8, R364). The name is
BLOCK_REGISTER_FIELD, or BLOCK_REGISTER where the field has the register's name; n is the block's number, i, j and k
number the register. -/

namespace Sys2Proof.Machine

/-! ## FRM registers (R104) -/
def FRM_CTRL_RUN : Fld := ⟨0x30040000, 0, 1, 0⟩
def FRM_CTRL_ALIGN : Fld := ⟨0x30040000, 1, 1, 1⟩
def FRM_CTRL_COMMISSION : Fld := ⟨0x30040000, 2, 1, 0⟩
def FRM_STAT_RUNNING : Fld := ⟨0x30040004, 0, 1, 0⟩
def FRM_STAT_ALIGNED : Fld := ⟨0x30040004, 1, 1, 0⟩
def FRM_STAT_SLEWING : Fld := ⟨0x30040004, 2, 1, 0⟩
def FRM_STAT_NM1OK : Fld := ⟨0x30040004, 3, 1, 0⟩
def FRM_STAT_UNPROVEN : Fld := ⟨0x30040004, 4, 1, 0⟩
def FRM_STAT_FFAULT : Fld := ⟨0x30040004, 5, 1, 0⟩
def FRM_STAT_LEXCEED : Fld := ⟨0x30040004, 6, 1, 0⟩
def FRM_FNUM : Fld := ⟨0x30040008, 0, 64, 0⟩
def FRM_PHASE : Fld := ⟨0x30040010, 0, 32, 0⟩
def FRM_FFCNT_COUNT : Fld := ⟨0x30040014, 0, 31, 0⟩
def FRM_FFCNT_SAT : Fld := ⟨0x30040014, 31, 1, 0⟩
def FRM_LEXCNT_COUNT : Fld := ⟨0x3004001C, 0, 31, 0⟩
def FRM_LEXCNT_SAT : Fld := ⟨0x3004001C, 31, 1, 0⟩
def FRM_FFCAUSE_CAUSE : Fld := ⟨0x30040018, 0, 4, 0⟩
def FRM_FFCAUSE_ENGINE : Fld := ⟨0x30040018, 4, 4, 0⟩
def FRM_ADM_CMD_OP : Fld := ⟨0x30040020, 0, 4, 0⟩
def FRM_ADM_CMD_PROG : Fld := ⟨0x30040020, 4, 5, 0⟩
def FRM_ADM_CMD_LNT : Fld := ⟨0x30040020, 9, 3, 0⟩
def FRM_ADM_CMD_ENG : Fld := ⟨0x30040020, 12, 1, 0⟩
def FRM_ADM_STAT_BUSY : Fld := ⟨0x30040024, 0, 1, 0⟩
def FRM_ADM_STAT_VERDICT : Fld := ⟨0x30040024, 1, 2, 0⟩
def FRM_ADM_STAT_REASON : Fld := ⟨0x30040024, 3, 5, 0⟩
def FRM_ADM_STAT_PENDING : Fld := ⟨0x30040024, 8, 1, 0⟩
def FRM_ADM_STAT_DETAIL : Fld := ⟨0x30040024, 12, 17, 0⟩
def FRM_ADM_SRC_ADDR : Fld := ⟨0x30040028, 0, 40, 0⟩
def FRM_ADM_WCET : Fld := ⟨0x30040030, 0, 20, 0⟩
def FRM_KRQ_REQ : Fld := ⟨0x30040034, 0, 1, 0⟩
def FRM_KRQ_LNT : Fld := ⟨0x30040034, 1, 3, 0⟩
def FRM_KRQ_LOOP : Fld := ⟨0x30040034, 4, 1, 0⟩
def FRM_KRQ_ENG : Fld := ⟨0x30040034, 5, 1, 0⟩
def FRM_KRQ_DONE : Fld := ⟨0x30040034, 8, 1, 0⟩
def FRM_KRQ_REFUSED : Fld := ⟨0x30040034, 9, 1, 0⟩
def FRM_ESTATE_LNT (i : Nat) : Fld := ⟨0x30040038, 0 + 4 * i, 4, 0⟩
def FRM_ESTATE_LPE (i : Nat) : Fld := ⟨0x30040038, 32 + 4 * i, 4, 0⟩
def FRM_PLACE_VALID (i : Nat) : Fld := ⟨0x30040100 + 0x8 * i, 0, 1, 0⟩
def FRM_PLACE_UNPROVEN (i : Nat) : Fld := ⟨0x30040100 + 0x8 * i, 1, 1, 0⟩
def FRM_PLACE_ALTV (i : Nat) : Fld := ⟨0x30040100 + 0x8 * i, 2, 1, 0⟩
def FRM_PLACE_LNT (i : Nat) : Fld := ⟨0x30040100 + 0x8 * i, 3, 3, 0⟩
def FRM_PLACE_ALT (i : Nat) : Fld := ⟨0x30040100 + 0x8 * i, 6, 3, 0⟩
def FRM_PLACE_DOMAIN (i : Nat) : Fld := ⟨0x30040100 + 0x8 * i, 16, 8, 0⟩
def FRM_PLACE_WCET (i : Nat) : Fld := ⟨0x30040100 + 0x8 * i, 24, 19, 0⟩
def FRM_PLACE_VERSION (i : Nat) : Fld := ⟨0x30040100 + 0x8 * i, 48, 16, 0⟩
def FRM_TL_ADM (i : Nat) : Fld := ⟨0x30040200 + 0x10 * i, 0, 20, 0⟩
def FRM_TL_LAST (i : Nat) : Fld := ⟨0x30040204 + 0x10 * i, 0, 20, 0⟩
def FRM_TL_LAST_NOEND (i : Nat) : Fld := ⟨0x30040204 + 0x10 * i, 20, 1, 0⟩
def FRM_TL_MAX (i : Nat) : Fld := ⟨0x30040208 + 0x10 * i, 0, 20, 0⟩
def FRM_TL_SLACK (i : Nat) : Fld := ⟨0x3004020C + 0x10 * i, 0, 20, if i < 8 then 364500 else 288000⟩

/-! ## IMG registers (R105) -/
def IMG_LCMD_LOAD : Fld := ⟨0x30050000, 0, 1, 0⟩
def IMG_STAT_LBUSY : Fld := ⟨0x30050004, 0, 1, 0⟩
def IMG_STAT_LRESULT : Fld := ⟨0x30050004, 1, 3, 0⟩
def IMG_STAT_ZREFUSED : Fld := ⟨0x30050004, 4, 1, 0⟩
def IMG_LAYOUT_ADDR : Fld := ⟨0x30050008, 0, 40, 0⟩
def IMG_SNAPSEQ_SEQ : Fld := ⟨0x30050010, 0, 64, 0⟩
def IMG_PUBSEQ_SEQ : Fld := ⟨0x30050018, 0, 64, 0⟩
def IMG_DROPCNT_COUNT : Fld := ⟨0x30050020, 0, 31, 0⟩
def IMG_DROPCNT_SAT : Fld := ⟨0x30050020, 31, 1, 0⟩
def IMG_ILKCNT_COUNT : Fld := ⟨0x30050024, 0, 31, 0⟩
def IMG_ILKCNT_SAT : Fld := ⟨0x30050024, 31, 1, 0⟩
def IMG_ILKLAST_POINT : Fld := ⟨0x30050028, 0, 17, 0⟩
def IMG_ILKLAST_WINNER : Fld := ⟨0x30050028, 17, 5, 0⟩
def IMG_ZOWN_OWNER0 (i : Nat) : Fld := ⟨0x30051000 + 0x4 * i, 0, 8, 0⟩
def IMG_ZOWN_OWNER1 (i : Nat) : Fld := ⟨0x30051000 + 0x4 * i, 8, 8, 0⟩
def IMG_ZOWN_OWNER2 (i : Nat) : Fld := ⟨0x30051000 + 0x4 * i, 16, 8, 0⟩
def IMG_ZOWN_OWNER3 (i : Nat) : Fld := ⟨0x30051000 + 0x4 * i, 24, 8, 0⟩

/-! ## LNT registers (R204) -/
def LNT_STAT_STATE (n : Nat) : Fld := ⟨0x30080000 + 0x10000 * n, 0, 4, 0⟩
def LNT_STAT_BANK (n : Nat) : Fld := ⟨0x30080000 + 0x10000 * n, 4, 1, 0⟩
def LNT_STAT_OVR (n : Nat) : Fld := ⟨0x30080000 + 0x10000 * n, 8, 1, 0⟩
def LNT_STAT_HWF (n : Nat) : Fld := ⟨0x30080000 + 0x10000 * n, 9, 1, 0⟩
def LNT_OVRCNT_COUNT (n : Nat) : Fld := ⟨0x30080004 + 0x10000 * n, 0, 31, 0⟩
def LNT_OVRCNT_SAT (n : Nat) : Fld := ⟨0x30080004 + 0x10000 * n, 31, 1, 0⟩
def LNT_OVRINFO_PROG (n : Nat) : Fld := ⟨0x30080008 + 0x10000 * n, 0, 5, 0⟩
def LNT_OVRINFO_TASK (n : Nat) : Fld := ⟨0x30080008 + 0x10000 * n, 5, 4, 0⟩
def LNT_OVRINFO_PC (n : Nat) : Fld := ⟨0x30080008 + 0x10000 * n, 9, 15, 0⟩
def LNT_OVRINFO_CAUSE (n : Nat) : Fld := ⟨0x30080008 + 0x10000 * n, 24, 2, 0⟩
def LNT_OVRFRM_FNUM (n : Nat) : Fld := ⟨0x30080010 + 0x10000 * n, 0, 64, 0⟩
def LNT_LIMCAP_SPACE (n : Nat) : Fld := ⟨0x30080018 + 0x10000 * n, 0, 4, 0⟩
def LNT_LIMCAP_INDEX (n : Nat) : Fld := ⟨0x30080018 + 0x10000 * n, 4, 12, 0⟩
def LNT_LIMCAP_PROG (n : Nat) : Fld := ⟨0x30080018 + 0x10000 * n, 16, 5, 0⟩
def LNT_LIMCAP_VALID (n : Nat) : Fld := ⟨0x30080018 + 0x10000 * n, 31, 1, 0⟩
def LNT_ECCADDR_ADDR (n : Nat) : Fld := ⟨0x3008001C + 0x10000 * n, 0, 20, 0⟩
def LNT_ECCADDR_REGION (n : Nat) : Fld := ⟨0x3008001C + 0x10000 * n, 20, 2, 0⟩
def LNT_ECCADDR_VALID (n : Nat) : Fld := ⟨0x3008001C + 0x10000 * n, 31, 1, 0⟩
def LNT_ECCCNT_COUNT (n : Nat) : Fld := ⟨0x30080020 + 0x10000 * n, 0, 31, 0⟩
def LNT_ECCCNT_SAT (n : Nat) : Fld := ⟨0x30080020 + 0x10000 * n, 31, 1, 0⟩
def LNT_RETBYTES_BYTES (n : Nat) : Fld := ⟨0x30080024 + 0x10000 * n, 0, 14, 0⟩

/-! ## FRC registers (R205) -/
def FRC_CTRL_RETAIN : Fld := ⟨0x30060000, 0, 1, 0⟩
def FRC_STAT_NACTIVE : Fld := ⟨0x30060004, 0, 13, 0⟩
def FRC_STAT_REFUSED : Fld := ⟨0x30060004, 13, 1, 0⟩
def FRC_STAT_REASON : Fld := ⟨0x30060004, 14, 3, 0⟩
def FRC_STAT_ENTRY : Fld := ⟨0x30060004, 17, 12, 0⟩
def FRC_ENT_POINT (i : Nat) : Fld := ⟨0x30068000 + 0x8 * i, 0, 17, 0⟩
def FRC_ENT_SCOPE (i : Nat) : Fld := ⟨0x30068000 + 0x8 * i, 17, 1, 0⟩
def FRC_ENT_ACTIVE (i : Nat) : Fld := ⟨0x30068000 + 0x8 * i, 18, 1, 0⟩
def FRC_ENT_ORPHAN (i : Nat) : Fld := ⟨0x30068000 + 0x8 * i, 19, 1, 0⟩
def FRC_ENT_DOMAIN (i : Nat) : Fld := ⟨0x30068000 + 0x8 * i, 20, 8, 0⟩
def FRC_ENT_VALUE (i : Nat) : Fld := ⟨0x30068000 + 0x8 * i, 32, 32, 0⟩

/-! ## RIO registers (R206) -/
def RIO_CTRL_EN : Fld := ⟨0x30070000, 0, 1, 0⟩
def RIO_STAT_REFUSED : Fld := ⟨0x30070004, 0, 1, 0⟩
def RIO_STAT_STATION : Fld := ⟨0x30070004, 1, 11, 0⟩
def RIO_SUM_NGOOD : Fld := ⟨0x30070008, 0, 11, 0⟩
def RIO_SUM_NDEG : Fld := ⟨0x30070008, 16, 11, 0⟩
def RIO_SUM_NLOST : Fld := ⟨0x30070008, 32, 11, 0⟩
def RIO_SUM_NWAIT : Fld := ⟨0x30070008, 48, 11, 0⟩
def RIO_SCFG_EN (i : Nat) : Fld := ⟨0x30074000 + 0x20 * i, 0, 1, 0⟩
def RIO_SCFG_TRANSPORT (i : Nat) : Fld := ⟨0x30074000 + 0x20 * i, 1, 1, 0⟩
def RIO_SCFG_PORT (i : Nat) : Fld := ⟨0x30074000 + 0x20 * i, 2, 3, 0⟩
def RIO_SCFG_PERIOD (i : Nat) : Fld := ⟨0x30074000 + 0x20 * i, 5, 8, 0⟩
def RIO_SCFG_LOSTCNT (i : Nat) : Fld := ⟨0x30074000 + 0x20 * i, 13, 8, 0⟩
def RIO_SCFG_MSGS (i : Nat) : Fld := ⟨0x30074000 + 0x20 * i, 21, 3, 0⟩
def RIO_SCFG_NOTIFY (i : Nat) : Fld := ⟨0x30074000 + 0x20 * i, 24, 3, 0⟩
def RIO_SCFG_NOTIFYEN (i : Nat) : Fld := ⟨0x30074000 + 0x20 * i, 27, 1, 0⟩
def RIO_SCFG_PHASE (i : Nat) : Fld := ⟨0x30074000 + 0x20 * i, 28, 8, 0⟩
def RIO_SMAP_IN_BASE (i : Nat) : Fld := ⟨0x30074008 + 0x20 * i, 0, 17, 0⟩
def RIO_SMAP_IN_CNT (i : Nat) : Fld := ⟨0x30074008 + 0x20 * i, 17, 11, 0⟩
def RIO_SMAP_OUT_BASE (i : Nat) : Fld := ⟨0x30074008 + 0x20 * i, 28, 17, 0⟩
def RIO_SMAP_OUT_CNT (i : Nat) : Fld := ⟨0x30074008 + 0x20 * i, 45, 11, 0⟩
def RIO_SSTAT_STATE (i : Nat) : Fld := ⟨0x30074010 + 0x20 * i, 0, 3, 0⟩
def RIO_SSTAT_MISS (i : Nat) : Fld := ⟨0x30074010 + 0x20 * i, 3, 8, 0⟩
def RIO_SSTAT_RXMASK (i : Nat) : Fld := ⟨0x30074010 + 0x20 * i, 11, 8, 0⟩
def RIO_SSTAT_LASTF (i : Nat) : Fld := ⟨0x30074010 + 0x20 * i, 32, 32, 0⟩
def RIO_SCNT_LOSTS (i : Nat) : Fld := ⟨0x30074018 + 0x20 * i, 0, 31, 0⟩
def RIO_SCNT_SAT (i : Nat) : Fld := ⟨0x30074018 + 0x20 * i, 31, 1, 0⟩

/-! ## LPE registers (R241) -/
def LPE_CTRL_INJEN (n : Nat) : Fld := ⟨0x30100000 + 0x10000 * n, 0, 1, 0⟩
def LPE_CTRL_CAPEN (n : Nat) : Fld := ⟨0x30100000 + 0x10000 * n, 1, 1, 0⟩
def LPE_STAT_STATE (n : Nat) : Fld := ⟨0x30100004 + 0x10000 * n, 0, 4, 0⟩
def LPE_STAT_OVR (n : Nat) : Fld := ⟨0x30100004 + 0x10000 * n, 4, 1, 0⟩
def LPE_STAT_HWF (n : Nat) : Fld := ⟨0x30100004 + 0x10000 * n, 5, 1, 0⟩
def LPE_STAT_STGBUSY (n : Nat) : Fld := ⟨0x30100004 + 0x10000 * n, 6, 1, 0⟩
def LPE_STAT_STGREF (n : Nat) : Fld := ⟨0x30100004 + 0x10000 * n, 7, 1, 0⟩
def LPE_OVRCNT_COUNT (n : Nat) : Fld := ⟨0x30100008 + 0x10000 * n, 0, 31, 0⟩
def LPE_OVRCNT_SAT (n : Nat) : Fld := ⟨0x30100008 + 0x10000 * n, 31, 1, 0⟩
def LPE_ECCCNT_COUNT (n : Nat) : Fld := ⟨0x30100020 + 0x10000 * n, 0, 31, 0⟩
def LPE_ECCCNT_SAT (n : Nat) : Fld := ⟨0x30100020 + 0x10000 * n, 31, 1, 0⟩
def LPE_LSPDROP_COUNT (n : Nat) : Fld := ⟨0x30100024 + 0x10000 * n, 0, 31, 0⟩
def LPE_LSPDROP_SAT (n : Nat) : Fld := ⟨0x30100024 + 0x10000 * n, 31, 1, 0⟩
def LPE_OVRINFO_SLOT (n : Nat) : Fld := ⟨0x3010000C + 0x10000 * n, 0, 13, 0⟩
def LPE_OVRINFO_NSKIP (n : Nat) : Fld := ⟨0x3010000C + 0x10000 * n, 13, 14, 0⟩
def LPE_OVRINFO_CAUSE (n : Nat) : Fld := ⟨0x3010000C + 0x10000 * n, 27, 2, 0⟩
def LPE_OVRFRM_FNUM (n : Nat) : Fld := ⟨0x30100010 + 0x10000 * n, 0, 64, 0⟩
def LPE_ENCNT_N3P (n : Nat) : Fld := ⟨0x30100018 + 0x10000 * n, 0, 14, 0⟩
def LPE_ENCNT_N2P (n : Nat) : Fld := ⟨0x30100018 + 0x10000 * n, 16, 14, 0⟩
def LPE_ECCADDR_ADDR (n : Nat) : Fld := ⟨0x3010001C + 0x10000 * n, 0, 20, 0⟩
def LPE_ECCADDR_REGION (n : Nat) : Fld := ⟨0x3010001C + 0x10000 * n, 20, 1, 0⟩
def LPE_ECCADDR_VALID (n : Nat) : Fld := ⟨0x3010001C + 0x10000 * n, 31, 1, 0⟩
def LPE_STGCMD_SLOT (n : Nat) : Fld := ⟨0x30100040 + 0x10000 * n, 0, 13, 0⟩
def LPE_STGCMD_MODE (n : Nat) : Fld := ⟨0x30100040 + 0x10000 * n, 13, 2, 3⟩
def LPE_STGCMD_RAMPSKIP (n : Nat) : Fld := ⟨0x30100040 + 0x10000 * n, 15, 1, 0⟩
def LPE_STGCMD_MASK (n : Nat) : Fld := ⟨0x30100040 + 0x10000 * n, 16, 7, 0⟩
def LPE_STGCMD_RESETST (n : Nat) : Fld := ⟨0x30100040 + 0x10000 * n, 23, 1, 0⟩
def LPE_STGCMD_GO (n : Nat) : Fld := ⟨0x30100040 + 0x10000 * n, 31, 1, 0⟩
def LPE_STG_WORD (n i : Nat) : Fld := ⟨0x30100044 + 0x10000 * n + 0x4 * i, 0, 32, 0⟩
def LPE_INJ_CTRL_SLOT (n i : Nat) : Fld := ⟨0x30100100 + 0x10000 * n + 0x20 * i, 0, 13, 0⟩
def LPE_INJ_CTRL_POINT (n i : Nat) : Fld := ⟨0x30100100 + 0x10000 * n + 0x20 * i, 13, 1, 0⟩
def LPE_INJ_CTRL_WAVE (n i : Nat) : Fld := ⟨0x30100100 + 0x10000 * n + 0x20 * i, 14, 2, 0⟩
def LPE_INJ_CTRL_ARM (n i : Nat) : Fld := ⟨0x30100100 + 0x10000 * n + 0x20 * i, 16, 1, 0⟩
def LPE_INJ_CTRL_ACTIVE (n i : Nat) : Fld := ⟨0x30100100 + 0x10000 * n + 0x20 * i, 17, 1, 0⟩
def LPE_INJ_CTRL_DONE (n i : Nat) : Fld := ⟨0x30100100 + 0x10000 * n + 0x20 * i, 18, 1, 0⟩
def LPE_INJ_CTRL_ABORT (n i : Nat) : Fld := ⟨0x30100100 + 0x10000 * n + 0x20 * i, 19, 1, 0⟩
def LPE_INJ_CTRL_TRIG (n i : Nat) : Fld := ⟨0x30100100 + 0x10000 * n + 0x20 * i, 20, 1, 0⟩
def LPE_INJ_CTRL_EVT (n i : Nat) : Fld := ⟨0x30100100 + 0x10000 * n + 0x20 * i, 21, 8, 0⟩
def LPE_INJ_AMPHOLD_AMP (n i : Nat) : Fld := ⟨0x30100104 + 0x10000 * n + 0x20 * i, 0, 16, 0⟩
def LPE_INJ_AMPHOLD_HOLD (n i : Nat) : Fld := ⟨0x30100104 + 0x10000 * n + 0x20 * i, 16, 8, 1⟩
def LPE_INJ_LEN (n i : Nat) : Fld := ⟨0x30100108 + 0x10000 * n + 0x20 * i, 0, 32, 0⟩
def LPE_INJ_F0 (n i : Nat) : Fld := ⟨0x3010010C + 0x10000 * n + 0x20 * i, 0, 32, 0⟩
def LPE_INJ_DF (n i : Nat) : Fld := ⟨0x30100110 + 0x10000 * n + 0x20 * i, 0, 32, 0⟩
def LPE_INJ_SEED (n i : Nat) : Fld := ⟨0x30100114 + 0x10000 * n + 0x20 * i, 0, 15, 1⟩
def LPE_INJ_COUNT (n i : Nat) : Fld := ⟨0x30100118 + 0x10000 * n + 0x20 * i, 0, 32, 0⟩
def LPE_CAP_CTRL_SLOT (n i : Nat) : Fld := ⟨0x30100200 + 0x10000 * n + 0x10 * i, 0, 13, 0⟩
def LPE_CAP_CTRL_ARM (n i : Nat) : Fld := ⟨0x30100200 + 0x10000 * n + 0x10 * i, 13, 1, 0⟩
def LPE_CAP_CTRL_ACTIVE (n i : Nat) : Fld := ⟨0x30100200 + 0x10000 * n + 0x10 * i, 14, 1, 0⟩
def LPE_CAP_CTRL_DONE (n i : Nat) : Fld := ⟨0x30100200 + 0x10000 * n + 0x10 * i, 15, 1, 0⟩
def LPE_CAP_CTRL_TRIG (n i : Nat) : Fld := ⟨0x30100200 + 0x10000 * n + 0x10 * i, 16, 2, 0⟩
def LPE_CAP_CTRL_EVT (n i : Nat) : Fld := ⟨0x30100200 + 0x10000 * n + 0x10 * i, 18, 8, 0⟩
def LPE_CAP_CTRL_INJ (n i : Nat) : Fld := ⟨0x30100200 + 0x10000 * n + 0x10 * i, 26, 2, 0⟩
def LPE_CAP_PRE (n i : Nat) : Fld := ⟨0x30100204 + 0x10000 * n + 0x10 * i, 0, 12, 0⟩
def LPE_CAP_TRIGF (n i : Nat) : Fld := ⟨0x30100208 + 0x10000 * n + 0x10 * i, 0, 32, 0⟩
def LPE_CAP_FILL (n i : Nat) : Fld := ⟨0x3010020C + 0x10000 * n + 0x10 * i, 0, 13, 0⟩
def LPE_CAP_FILL_TIDX (n i : Nat) : Fld := ⟨0x3010020C + 0x10000 * n + 0x10 * i, 16, 12, 0⟩
def LPE_CAPSEL_BUF (n : Nat) : Fld := ⟨0x30100280 + 0x10000 * n, 0, 2, 0⟩

/-! ## DPE registers (R277) -/
def DPE_CTRL_EN : Fld := ⟨0x30120000, 0, 1, 0⟩
def DPE_CTRL_AUTO : Fld := ⟨0x30120000, 1, 1, 0⟩
def DPE_CTRL_CAPPUB : Fld := ⟨0x30120000, 2, 1, 1⟩
def DPE_CTRL_CKWARM : Fld := ⟨0x30120000, 3, 1, 0⟩
def DPE_CTRL_HOLDMB : Fld := ⟨0x30120000, 4, 1, 0⟩
def DPE_CMD_OP : Fld := ⟨0x30120004, 0, 4, 0⟩
def DPE_STAT_STATE : Fld := ⟨0x30120008, 0, 3, 0⟩
def DPE_STAT_PROGOK : Fld := ⟨0x30120008, 3, 1, 0⟩
def DPE_STAT_PROBOK : Fld := ⟨0x30120008, 4, 1, 0⟩
def DPE_STAT_WARMOK : Fld := ⟨0x30120008, 5, 1, 0⟩
def DPE_STAT_MBFULL : Fld := ⟨0x30120008, 6, 1, 0⟩
def DPE_STAT_BRK : Fld := ⟨0x30120008, 7, 1, 0⟩
def DPE_STAT_GFAIL : Fld := ⟨0x30120008, 8, 1, 0⟩
def DPE_STAT_FAULT : Fld := ⟨0x30120008, 9, 1, 0⟩
def DPE_STAT_LATE : Fld := ⟨0x30120008, 10, 1, 0⟩
def DPE_STAT_CMDREF : Fld := ⟨0x30120008, 11, 1, 0⟩
def DPE_LDSTAT_VERDICT : Fld := ⟨0x3012000C, 0, 2, 0⟩
def DPE_LDSTAT_REASON : Fld := ⟨0x3012000C, 2, 4, 0⟩
def DPE_LDSTAT_DETAIL : Fld := ⟨0x3012000C, 8, 24, 0⟩
def DPE_SRC_ADDR : Fld := ⟨0x30120010, 0, 40, 0⟩
def DPE_SCFG_PERIOD : Fld := ⟨0x30120018, 0, 16, 1000⟩
def DPE_SCFG_PHASE : Fld := ⟨0x30120018, 16, 16, 0⟩
def DPE_CAPS_ICAP : Fld := ⟨0x3012001C, 0, 16, 1000⟩
def DPE_CAPS_TCAP : Fld := ⟨0x3012001C, 16, 16, 1000⟩
def DPE_SEQ : Fld := ⟨0x30120020, 0, 32, 0⟩
def DPE_LASTVAL_WORD : Fld := ⟨0x30120024, 0, 32, 0⟩
def DPE_LASTINFO_WORD : Fld := ⟨0x30120028, 0, 32, 0⟩
def DPE_ITER : Fld := ⟨0x3012002C, 0, 16, 0⟩
def DPE_TSTART_FNUM : Fld := ⟨0x30120030, 0, 64, 0⟩
def DPE_TLAND_FNUM : Fld := ⟨0x30120038, 0, 64, 0⟩
def DPE_CYC : Fld := ⟨0x30120040, 0, 64, 0⟩
def DPE_PRES_VALUE : Fld := ⟨0x30120048, 0, 32, 0⟩
def DPE_DRES_VALUE : Fld := ⟨0x3012004C, 0, 32, 0⟩
def DPE_FLTINFO_CAUSE : Fld := ⟨0x30120050, 0, 4, 0⟩
def DPE_FLTINFO_PC : Fld := ⟨0x30120050, 4, 14, 0⟩
def DPE_ECCADDR_ADDR : Fld := ⟨0x30120054, 0, 23, 0⟩
def DPE_ECCADDR_REGION : Fld := ⟨0x30120054, 23, 1, 0⟩
def DPE_ECCADDR_VALID : Fld := ⟨0x30120054, 31, 1, 0⟩
def DPE_LATECNT_COUNT : Fld := ⟨0x30120060, 0, 31, 0⟩
def DPE_LATECNT_SAT : Fld := ⟨0x30120060, 31, 1, 0⟩
def DPE_CAPCNT_COUNT : Fld := ⟨0x30120064, 0, 31, 0⟩
def DPE_CAPCNT_SAT : Fld := ⟨0x30120064, 31, 1, 0⟩
def DPE_INFCNT_COUNT : Fld := ⟨0x30120068, 0, 31, 0⟩
def DPE_INFCNT_SAT : Fld := ⟨0x30120068, 31, 1, 0⟩
def DPE_FLTCNT_COUNT : Fld := ⟨0x3012006C, 0, 31, 0⟩
def DPE_FLTCNT_SAT : Fld := ⟨0x3012006C, 31, 1, 0⟩
def DPE_SKIPCNT_COUNT : Fld := ⟨0x30120070, 0, 31, 0⟩
def DPE_SKIPCNT_SAT : Fld := ⟨0x30120070, 31, 1, 0⟩
def DPE_ECCCNT_COUNT : Fld := ⟨0x30120074, 0, 31, 0⟩
def DPE_ECCCNT_SAT : Fld := ⟨0x30120074, 31, 1, 0⟩

/-! ## MTR registers (R307) -/
def MTR_CTRL_EN : Fld := ⟨0x30140000, 0, 1, 0⟩
def MTR_CTRL_CALLOCK : Fld := ⟨0x30140000, 1, 1, 0⟩
def MTR_CTRL_FNORM : Fld := ⟨0x30140000, 2, 1, 0⟩
def MTR_CTRL_NCYC : Fld := ⟨0x30140000, 8, 8, 10⟩
def MTR_STAT_RUN : Fld := ⟨0x30140004, 0, 1, 0⟩
def MTR_STAT_REFALM : Fld := ⟨0x30140004, 1, 1, 0⟩
def MTR_STAT_CALREF : Fld := ⟨0x30140004, 2, 1, 0⟩
def MTR_CALCMD_MASK : Fld := ⟨0x30140008, 0, 32, 0⟩
def MTR_CALCMD_APPLY : Fld := ⟨0x30140008, 32, 1, 0⟩
def MTR_OVLSTAT_OVL : Fld := ⟨0x30140010, 0, 32, 0⟩
def MTR_OVLCNT_COUNT : Fld := ⟨0x30140014, 0, 31, 0⟩
def MTR_OVLCNT_SAT : Fld := ⟨0x30140014, 31, 1, 0⟩
def MTR_REFDRIFT_PPM : Fld := ⟨0x30140018, 0, 16, 0⟩
def MTR_HSEL_CH : Fld := ⟨0x3014001C, 0, 5, 0⟩
def MTR_CH_CFG_SENSOR (i : Nat) : Fld := ⟨0x30140100 + 0x20 * i, 0, 2, 0⟩
def MTR_CH_CFG_PGA (i : Nat) : Fld := ⟨0x30140100 + 0x20 * i, 2, 3, 0⟩
def MTR_CH_CFG_HPFEN (i : Nat) : Fld := ⟨0x30140100 + 0x20 * i, 5, 1, 0⟩
def MTR_CH_CFG_EN (i : Nat) : Fld := ⟨0x30140100 + 0x20 * i, 6, 1, 0⟩
def MTR_CH_K (i : Nat) : Fld := ⟨0x30140104 + 0x20 * i, 0, 32, 1065353216⟩
def MTR_CH_OFFS (i : Nat) : Fld := ⟨0x30140108 + 0x20 * i, 0, 24, 0⟩
def MTR_CH_GAIN (i : Nat) : Fld := ⟨0x3014010C + 0x20 * i, 0, 24, 4194304⟩
def MTR_CH_PHASE (i : Nat) : Fld := ⟨0x30140110 + 0x20 * i, 0, 14, 0⟩
def MTR_CH_RMS (i : Nat) : Fld := ⟨0x30140114 + 0x20 * i, 0, 32, 0⟩
def MTR_CH_MEAN (i : Nat) : Fld := ⟨0x30140118 + 0x20 * i, 0, 24, 0⟩
def MTR_CH_INST (i : Nat) : Fld := ⟨0x3014011C + 0x20 * i, 0, 24, 0⟩
def MTR_F_CFG_EN (i : Nat) : Fld := ⟨0x30140600 + 0x20 * i, 0, 1, 0⟩
def MTR_F_CFG_USET (i : Nat) : Fld := ⟨0x30140600 + 0x20 * i, 1, 1, 0⟩
def MTR_F_CFG_REFPH (i : Nat) : Fld := ⟨0x30140600 + 0x20 * i, 2, 2, 0⟩
def MTR_F_CFG_PTEN (i : Nat) : Fld := ⟨0x30140600 + 0x20 * i, 4, 1, 0⟩
def MTR_F_CFG_PTBASE (i : Nat) : Fld := ⟨0x30140600 + 0x20 * i, 5, 17, 0⟩
def MTR_F_STAT_FREQ (i : Nat) : Fld := ⟨0x30140604 + 0x20 * i, 0, 17, 0⟩
def MTR_F_STAT_TSTATE (i : Nat) : Fld := ⟨0x30140604 + 0x20 * i, 17, 2, 0⟩
def MTR_F_STAT_OVL (i : Nat) : Fld := ⟨0x30140604 + 0x20 * i, 19, 1, 0⟩
def MTR_F_STAT_CALCHG (i : Nat) : Fld := ⟨0x30140604 + 0x20 * i, 20, 1, 0⟩
def MTR_F_WEND (i : Nat) : Fld := ⟨0x30140608 + 0x20 * i, 0, 64, 0⟩
def MTR_F_WSEQ (i : Nat) : Fld := ⟨0x30140610 + 0x20 * i, 0, 32, 0⟩
def MTR_F_NSAMP (i : Nat) : Fld := ⟨0x30140614 + 0x20 * i, 0, 16, 0⟩
def MTR_HARM_VALUE (i : Nat) : Fld := ⟨0x30140800 + 0x4 * i, 0, 32, 0⟩

/-! ## BIL registers (R343) -/
def BIL_CTRL_EN : Fld := ⟨0x30150000, 0, 1, 0⟩
def BIL_CTRL_HEATEN : Fld := ⟨0x30150000, 1, 1, 0⟩
def BIL_STAT_RESUMED : Fld := ⟨0x30150004, 0, 1, 0⟩
def BIL_STAT_NOSAVE : Fld := ⟨0x30150004, 1, 1, 0⟩
def BIL_STAT_OLDSAVE : Fld := ⟨0x30150004, 2, 1, 0⟩
def BIL_STAT_TWAIT : Fld := ⟨0x30150004, 3, 1, 0⟩
def BIL_STAT_SAVEBUSY : Fld := ⟨0x30150004, 4, 1, 0⟩
def BIL_STAT_SAVEFAIL : Fld := ⟨0x30150004, 5, 1, 0⟩
def BIL_STAT_CLRREF : Fld := ⟨0x30150004, 6, 1, 0⟩
def BIL_CMD_CLEAR : Fld := ⟨0x30150008, 0, 1, 0⟩
def BIL_CMD_SAVENOW : Fld := ⟨0x30150008, 1, 1, 0⟩
def BIL_CMD_GAPCLR : Fld := ⟨0x30150008, 2, 1, 0⟩
def BIL_SAVECFG_PERIOD : Fld := ⟨0x3015000C, 0, 12, 900⟩
def BIL_SAVECFG_PHASE : Fld := ⟨0x3015000C, 12, 12, 0⟩
def BIL_SAVESEQ_SEQ : Fld := ⟨0x30150010, 0, 32, 0⟩
def BIL_SAVETIME_VALUE : Fld := ⟨0x30150018, 0, 64, 0⟩
def BIL_HLFNUM_VALUE : Fld := ⟨0x30150028, 0, 64, 0⟩
def BIL_GAPTIME_VALUE : Fld := ⟨0x30150038, 0, 64, 0⟩
def BIL_SNAPCMD_FMASK : Fld := ⟨0x30150020, 0, 8, 0⟩
def BIL_SNAPCMD_HEAT : Fld := ⟨0x30150020, 8, 1, 0⟩
def BIL_SNAPCMD_SNAP : Fld := ⟨0x30150020, 9, 1, 0⟩
def BIL_SNAPSTAT_FPEND : Fld := ⟨0x30150024, 0, 8, 0⟩
def BIL_SNAPSTAT_HPEND : Fld := ⟨0x30150024, 8, 1, 0⟩
def BIL_SNAPSTAT_FDONE : Fld := ⟨0x30150024, 9, 8, 0⟩
def BIL_SNAPSTAT_HDONE : Fld := ⟨0x30150024, 17, 1, 0⟩
def BIL_GAPSTAT_STATE : Fld := ⟨0x30150030, 0, 2, 0⟩
def BIL_GAPSTAT_NENT : Fld := ⟨0x30150030, 2, 12, 0⟩
def BIL_TARCUR_TAR : Fld := ⟨0x30150040, 0, 2, 0⟩
def BIL_SAVEFAILCNT_COUNT : Fld := ⟨0x30150044, 0, 31, 0⟩
def BIL_SAVEFAILCNT_SAT : Fld := ⟨0x30150044, 31, 1, 0⟩
def BIL_HSKIPCNT_COUNT : Fld := ⟨0x30150048, 0, 31, 0⟩
def BIL_HSKIPCNT_SAT : Fld := ⟨0x30150048, 31, 1, 0⟩
def BIL_ECCCNT_COUNT : Fld := ⟨0x3015004C, 0, 31, 0⟩
def BIL_ECCCNT_SAT : Fld := ⟨0x3015004C, 31, 1, 0⟩
def BIL_TSW_TIME (i : Nat) : Fld := ⟨0x30150100 + 0x10 * i, 0, 64, 0⟩
def BIL_TSW_CTL_TAR (i : Nat) : Fld := ⟨0x30150108 + 0x10 * i, 0, 2, 0⟩
def BIL_TSW_CTL_VALID (i : Nat) : Fld := ⟨0x30150108 + 0x10 * i, 2, 1, 0⟩
def BIL_TSW_CTL_SKIPPED (i : Nat) : Fld := ⟨0x30150108 + 0x10 * i, 3, 1, 0⟩
def BIL_HCFG_EN (i : Nat) : Fld := ⟨0x3015C000 + 0x10 * i, 0, 1, 0⟩
def BIL_HCFG_MODE (i : Nat) : Fld := ⟨0x3015C000 + 0x10 * i, 1, 1, 0⟩
def BIL_HCFG_MOUNT (i : Nat) : Fld := ⟨0x3015C000 + 0x10 * i, 2, 1, 0⟩
def BIL_HCFG_FSRC (i : Nat) : Fld := ⟨0x3015C000 + 0x10 * i, 3, 1, 0⟩
def BIL_HCFG_PIN (i : Nat) : Fld := ⟨0x3015C000 + 0x10 * i, 4, 5, 0⟩
def BIL_HCFG_DTMIN (i : Nat) : Fld := ⟨0x3015C000 + 0x10 * i, 9, 8, 0⟩
def BIL_HCFG_CFGREF (i : Nat) : Fld := ⟨0x3015C000 + 0x10 * i, 17, 1, 0⟩
def BIL_HCFG_TBAD (i : Nat) : Fld := ⟨0x3015C000 + 0x10 * i, 18, 1, 0⟩
def BIL_HCFG_FBAD (i : Nat) : Fld := ⟨0x3015C000 + 0x10 * i, 19, 1, 0⟩
def BIL_HCFG_RANGE (i : Nat) : Fld := ⟨0x3015C000 + 0x10 * i, 20, 1, 0⟩
def BIL_HCFG_REVERSE (i : Nat) : Fld := ⟨0x3015C000 + 0x10 * i, 21, 1, 0⟩
def BIL_HCFG_FPT (i : Nat) : Fld := ⟨0x3015C004 + 0x10 * i, 0, 17, 0⟩
def BIL_HCFG_TFPT (i : Nat) : Fld := ⟨0x3015C008 + 0x10 * i, 0, 17, 0⟩
def BIL_HCFG_TRPT (i : Nat) : Fld := ⟨0x3015C00C + 0x10 * i, 0, 17, 0⟩

/-! ## PLS registers (R344) -/
def PLS_IN_CFG_EN (i : Nat) : Fld := ⟨0x30160000 + 0x10 * i, 0, 1, 0⟩
def PLS_IN_CFG_EDGE (i : Nat) : Fld := ⟨0x30160000 + 0x10 * i, 1, 1, 0⟩
def PLS_IN_CFG_FILT (i : Nat) : Fld := ⟨0x30160000 + 0x10 * i, 2, 6, 0⟩
def PLS_IN_K (i : Nat) : Fld := ⟨0x30160004 + 0x10 * i, 0, 32, 1065353216⟩
def PLS_IN_CNT (i : Nat) : Fld := ⟨0x30160008 + 0x10 * i, 0, 64, 0⟩
def PLS_OUT_CFG_EN (i : Nat) : Fld := ⟨0x30160400 + 0x20 * i, 0, 1, 0⟩
def PLS_OUT_CFG_SRC (i : Nat) : Fld := ⟨0x30160400 + 0x20 * i, 1, 1, 0⟩
def PLS_OUT_CFG_FEED (i : Nat) : Fld := ⟨0x30160400 + 0x20 * i, 2, 3, 0⟩
def PLS_OUT_CFG_QTY (i : Nat) : Fld := ⟨0x30160400 + 0x20 * i, 5, 3, 0⟩
def PLS_OUT_CFG_HCH (i : Nat) : Fld := ⟨0x30160400 + 0x20 * i, 8, 10, 0⟩
def PLS_OUT_CFG_WIDTH (i : Nat) : Fld := ⟨0x30160400 + 0x20 * i, 18, 8, 1⟩
def PLS_OUT_CFG_POL (i : Nat) : Fld := ⟨0x30160400 + 0x20 * i, 26, 1, 0⟩
def PLS_OUT_CFG_OVF (i : Nat) : Fld := ⟨0x30160400 + 0x20 * i, 27, 1, 0⟩
def PLS_OUT_CONST (i : Nat) : Fld := ⟨0x30160404 + 0x20 * i, 0, 32, 0⟩
def PLS_OUT_BACKLOG (i : Nat) : Fld := ⟨0x30160408 + 0x20 * i, 0, 16, 0⟩
def PLS_OUT_COUNT (i : Nat) : Fld := ⟨0x3016040C + 0x20 * i, 0, 32, 0⟩

/-! ## XLT registers (R397) -/
def XLT_STAT_INVBUSY : Fld := ⟨0x302D0000, 0, 1, 0⟩
def XLT_STAT_PINREF : Fld := ⟨0x302D0000, 1, 1, 0⟩
def XLT_STAT_BINDREF : Fld := ⟨0x302D0000, 2, 1, 0⟩
def XLT_STAT_PINENT : Fld := ⟨0x302D0000, 3, 8, 0⟩
def XLT_INV_VPN : Fld := ⟨0x302D0008, 0, 27, 0⟩
def XLT_INV_AS : Fld := ⟨0x302D0008, 27, 6, 0⟩
def XLT_INV_ALLVA : Fld := ⟨0x302D0008, 33, 1, 0⟩
def XLT_INV_ALLAS : Fld := ⟨0x302D0008, 34, 1, 0⟩
def XLT_INV_GO : Fld := ⟨0x302D0008, 35, 1, 0⟩
def XLT_WALKCNT_COUNT : Fld := ⟨0x302D0010, 0, 32, 0⟩
def XLT_AS_PPN (i : Nat) : Fld := ⟨0x302D0100 + 0x8 * i, 0, 28, 0⟩
def XLT_AS_MODE (i : Nat) : Fld := ⟨0x302D0100 + 0x8 * i, 63, 1, 0⟩
def XLT_CH_BIND_AS (i : Nat) : Fld := ⟨0x302D0400 + 0x4 * i, 0, 6, 0⟩
def XLT_CH_BIND_DOM (i : Nat) : Fld := ⟨0x302D0400 + 0x4 * i, 8, 8, 0⟩
def XLT_PIN_VA_VPN (i : Nat) : Fld := ⟨0x302D1000 + 0x10 * i, 0, 27, 0⟩
def XLT_PIN_VA_AS (i : Nat) : Fld := ⟨0x302D1000 + 0x10 * i, 27, 6, 0⟩
def XLT_PIN_VA_SIZE (i : Nat) : Fld := ⟨0x302D1000 + 0x10 * i, 33, 4, 0⟩
def XLT_PIN_VA_R (i : Nat) : Fld := ⟨0x302D1000 + 0x10 * i, 37, 1, 0⟩
def XLT_PIN_VA_W (i : Nat) : Fld := ⟨0x302D1000 + 0x10 * i, 38, 1, 0⟩
def XLT_PIN_VA_VALID (i : Nat) : Fld := ⟨0x302D1000 + 0x10 * i, 39, 1, 0⟩
def XLT_PIN_PA_PPN (i : Nat) : Fld := ⟨0x302D1008 + 0x10 * i, 0, 28, 0⟩

/-! ## ACT registers (R398) -/
def ACT_CTRL_HOSTWR : Fld := ⟨0x302E0000, 0, 1, 0⟩
def ACT_CTRL_LOCK : Fld := ⟨0x302E0000, 1, 1, 0⟩
def ACT_STAT_WREF : Fld := ⟨0x302E0004, 0, 1, 0⟩
def ACT_SEL_TGT : Fld := ⟨0x302E0008, 0, 4, 0⟩
def ACT_SEL_ROW : Fld := ⟨0x302E0008, 4, 7, 0⟩
def ACT_SEL_WIN : Fld := ⟨0x302E0008, 11, 4, 0⟩
def ACT_CMD_RD : Fld := ⟨0x302E000C, 0, 1, 0⟩
def ACT_CMD_WR : Fld := ⟨0x302E000C, 1, 1, 0⟩
def ACT_WLO_R : Fld := ⟨0x302E0010, 0, 1, 0⟩
def ACT_WLO_W : Fld := ⟨0x302E0010, 1, 1, 0⟩
def ACT_WLO_X : Fld := ⟨0x302E0010, 2, 1, 0⟩
def ACT_WLO_DMODE : Fld := ⟨0x302E0010, 3, 1, 0⟩
def ACT_WLO_DOM : Fld := ⟨0x302E0010, 4, 8, 0⟩
def ACT_WLO_BASE : Fld := ⟨0x302E0010, 12, 28, 0⟩
def ACT_WHI_VALID : Fld := ⟨0x302E0018, 0, 1, 0⟩
def ACT_WHI_LIMIT : Fld := ⟨0x302E0018, 12, 28, 0⟩
def ACT_VCNT_COUNT : Fld := ⟨0x302E0020, 0, 31, 0⟩
def ACT_VCNT_SAT : Fld := ⟨0x302E0020, 31, 1, 0⟩
def ACT_VHEAD_NEXT : Fld := ⟨0x302E0024, 0, 4, 0⟩
def ACT_VREC_ADDR (i : Nat) : Fld := ⟨0x302E0100 + 0x10 * i, 0, 40, 0⟩
def ACT_VREC_MASTER (i : Nat) : Fld := ⟨0x302E0100 + 0x10 * i, 40, 7, 0⟩
def ACT_VREC_DOMAIN (i : Nat) : Fld := ⟨0x302E0100 + 0x10 * i, 47, 8, 0⟩
def ACT_VREC_TARGET (i : Nat) : Fld := ⟨0x302E0100 + 0x10 * i, 55, 4, 0⟩
def ACT_VREC_KIND (i : Nat) : Fld := ⟨0x302E0100 + 0x10 * i, 59, 2, 0⟩
def ACT_VREC_CAUSE (i : Nat) : Fld := ⟨0x302E0100 + 0x10 * i, 61, 3, 0⟩
def ACT_VREC_TIME (i : Nat) : Fld := ⟨0x302E0108 + 0x10 * i, 0, 64, 0⟩

/-! ## TND registers (R399) -/
def TND_CTRL_EN : Fld := ⟨0x302C0000, 0, 1, 0⟩
def TND_EVSTAT_DONE : Fld := ⟨0x302C0008, 0, 64, 0⟩
def TND_FLTCNT_COUNT : Fld := ⟨0x302C0010, 0, 31, 0⟩
def TND_FLTCNT_SAT : Fld := ⟨0x302C0010, 31, 1, 0⟩
def TND_ERRCNT_COUNT : Fld := ⟨0x302C0014, 0, 31, 0⟩
def TND_ERRCNT_SAT : Fld := ⟨0x302C0014, 31, 1, 0⟩
def TND_TRIGLOST_COUNT : Fld := ⟨0x302C0018, 0, 31, 0⟩
def TND_TRIGLOST_SAT : Fld := ⟨0x302C0018, 31, 1, 0⟩
def TND_CH_CFG_EN (i : Nat) : Fld := ⟨0x302C1000 + 0x40 * i, 0, 1, 0⟩
def TND_CH_CFG_CLASS (i : Nat) : Fld := ⟨0x302C1000 + 0x40 * i, 1, 2, 2⟩
def TND_CH_CFG_TRIGEN (i : Nat) : Fld := ⟨0x302C1000 + 0x40 * i, 3, 1, 0⟩
def TND_CH_CFG_EVT (i : Nat) : Fld := ⟨0x302C1000 + 0x40 * i, 4, 8, 0⟩
def TND_CH_CFG_REQ (i : Nat) : Fld := ⟨0x302C1000 + 0x40 * i, 12, 1, 0⟩
def TND_CH_DESC (i : Nat) : Fld := ⟨0x302C1008 + 0x40 * i, 0, 64, 0⟩
def TND_CH_CMD_START (i : Nat) : Fld := ⟨0x302C1010 + 0x40 * i, 0, 1, 0⟩
def TND_CH_CMD_RESUME (i : Nat) : Fld := ⟨0x302C1010 + 0x40 * i, 1, 1, 0⟩
def TND_CH_CMD_ABORT (i : Nat) : Fld := ⟨0x302C1010 + 0x40 * i, 2, 1, 0⟩
def TND_CH_STAT_STATE (i : Nat) : Fld := ⟨0x302C1014 + 0x40 * i, 0, 3, 0⟩
def TND_CH_STAT_PEND (i : Nat) : Fld := ⟨0x302C1014 + 0x40 * i, 3, 1, 0⟩
def TND_CH_STAT_CMDREF (i : Nat) : Fld := ⟨0x302C1014 + 0x40 * i, 4, 1, 0⟩
def TND_CH_FDESC (i : Nat) : Fld := ⟨0x302C1018 + 0x40 * i, 0, 64, 0⟩
def TND_CH_FVA (i : Nat) : Fld := ⟨0x302C1020 + 0x40 * i, 0, 64, 0⟩
def TND_CH_FOFF (i : Nat) : Fld := ⟨0x302C1028 + 0x40 * i, 0, 24, 0⟩
def TND_CH_FKIND_KIND (i : Nat) : Fld := ⟨0x302C102C + 0x40 * i, 0, 4, 0⟩
def TND_CH_FKIND_SIDE (i : Nat) : Fld := ⟨0x302C102C + 0x40 * i, 4, 1, 0⟩
def TND_CH_FKIND_DFETCH (i : Nat) : Fld := ⟨0x302C102C + 0x40 * i, 5, 1, 0⟩
def TND_CH_DONECNT (i : Nat) : Fld := ⟨0x302C1030 + 0x40 * i, 0, 32, 0⟩

/-! ## MEM registers (R400) -/
def MEM_DDRCFG_SIZE : Fld := ⟨0x302F0000, 0, 2, 0⟩
def MEM_DDRCFG_SPEED : Fld := ⟨0x302F0000, 2, 2, 0⟩
def MEM_DDRCFG_RANKS : Fld := ⟨0x302F0000, 4, 1, 0⟩
def MEM_DDRCFG_X16 : Fld := ⟨0x302F0000, 5, 1, 0⟩
def MEM_DDRCFG_INIT : Fld := ⟨0x302F0000, 6, 1, 0⟩
def MEM_DDRSTAT_READY : Fld := ⟨0x302F0004, 0, 1, 0⟩
def MEM_DDRSTAT_TFAIL : Fld := ⟨0x302F0004, 1, 1, 0⟩
def MEM_DDRSTAT_HOT : Fld := ⟨0x302F0004, 2, 1, 0⟩
def MEM_SCRUB_SRAMEN : Fld := ⟨0x302F0008, 0, 1, 1⟩
def MEM_SCRUB_DDREN : Fld := ⟨0x302F0008, 1, 1, 1⟩
def MEM_SRAMCE_COUNT : Fld := ⟨0x302F0010, 0, 31, 0⟩
def MEM_SRAMCE_SAT : Fld := ⟨0x302F0010, 31, 1, 0⟩
def MEM_SRAMUE_COUNT : Fld := ⟨0x302F0014, 0, 31, 0⟩
def MEM_SRAMUE_SAT : Fld := ⟨0x302F0014, 31, 1, 0⟩
def MEM_DDRCE_COUNT : Fld := ⟨0x302F0018, 0, 31, 0⟩
def MEM_DDRCE_SAT : Fld := ⟨0x302F0018, 31, 1, 0⟩
def MEM_DDRUE_COUNT : Fld := ⟨0x302F001C, 0, 31, 0⟩
def MEM_DDRUE_SAT : Fld := ⟨0x302F001C, 31, 1, 0⟩
def MEM_L2CE_COUNT : Fld := ⟨0x302F0020, 0, 31, 0⟩
def MEM_L2CE_SAT : Fld := ⟨0x302F0020, 31, 1, 0⟩
def MEM_L2UE_COUNT : Fld := ⟨0x302F0024, 0, 31, 0⟩
def MEM_L2UE_SAT : Fld := ⟨0x302F0024, 31, 1, 0⟩
def MEM_L1CE_COUNT : Fld := ⟨0x302F0028, 0, 31, 0⟩
def MEM_L1CE_SAT : Fld := ⟨0x302F0028, 31, 1, 0⟩
def MEM_UEADDR_ADDR : Fld := ⟨0x302F0040, 0, 40, 0⟩
def MEM_UEADDR_SRC : Fld := ⟨0x302F0040, 40, 2, 0⟩
def MEM_UEADDR_VALID : Fld := ⟨0x302F0040, 63, 1, 0⟩

/-! ## PKT registers (R438) -/
def PKT_CTRL_EN : Fld := ⟨0x30180000, 0, 1, 0⟩
def PKT_STAT_LREJ : Fld := ⟨0x30180004, 0, 1, 0⟩
def PKT_STAT_STREF : Fld := ⟨0x30180004, 1, 1, 0⟩
def PKT_LRJINFO_REASON : Fld := ⟨0x30180008, 0, 3, 0⟩
def PKT_LRJINFO_STATION : Fld := ⟨0x30180008, 3, 11, 0⟩
def PKT_LRJINFO_PORT : Fld := ⟨0x30180008, 14, 3, 0⟩
def PKT_TSQ_QUEUE : Fld := ⟨0x3018000C, 0, 6, 0⟩
def PKT_TSQ_EN : Fld := ⟨0x3018000C, 6, 1, 0⟩
def PKT_P_CFG_EN (i : Nat) : Fld := ⟨0x30180100 + 0x80 * i, 0, 1, 0⟩
def PKT_P_CFG_PVID (i : Nat) : Fld := ⟨0x30180100 + 0x80 * i, 1, 12, 1⟩
def PKT_P_CFG_DEFQ (i : Nat) : Fld := ⟨0x30180100 + 0x80 * i, 13, 6, 0⟩
def PKT_P_CFG_DEFDROP (i : Nat) : Fld := ⟨0x30180100 + 0x80 * i, 19, 1, 1⟩
def PKT_P_STAT_LINK (i : Nat) : Fld := ⟨0x30180104 + 0x80 * i, 0, 1, 0⟩
def PKT_P_MAC (i : Nat) : Fld := ⟨0x30180108 + 0x80 * i, 0, 48, 0⟩
def PKT_P_IP (i : Nat) : Fld := ⟨0x30180110 + 0x80 * i, 0, 32, 0⟩
def PKT_P_OCFG_OCHAN (i : Nat) : Fld := ⟨0x30180114 + 0x80 * i, 0, 6, 0⟩
def PKT_P_OCFG_OQUEUE (i : Nat) : Fld := ⟨0x30180114 + 0x80 * i, 6, 6, 0⟩
def PKT_P_OCFG_OEN (i : Nat) : Fld := ⟨0x30180114 + 0x80 * i, 12, 1, 0⟩
def PKT_P_ODADDR (i : Nat) : Fld := ⟨0x30180118 + 0x80 * i, 0, 64, 0⟩
def PKT_P_OVBASE (i : Nat) : Fld := ⟨0x30180120 + 0x80 * i, 0, 64, 0⟩
def PKT_P_TXQ (i c : Nat) : Fld := ⟨0x30180128 + 0x80 * i, 0 + 8 * c, 6, 0⟩
def PKT_P_TXEN (i c : Nat) : Fld := ⟨0x30180128 + 0x80 * i, 6 + 8 * c, 1, 0⟩
def PKT_P_RXFRM (i : Nat) : Fld := ⟨0x30180130 + 0x80 * i, 0, 32, 0⟩
def PKT_P_TXFRM (i : Nat) : Fld := ⟨0x30180134 + 0x80 * i, 0, 32, 0⟩
def PKT_P_OLOAD (i : Nat) : Fld := ⟨0x30180148 + 0x80 * i, 0, 17, 0⟩
def PKT_P_RXDROP_COUNT (i : Nat) : Fld := ⟨0x30180138 + 0x80 * i, 0, 31, 0⟩
def PKT_P_RXDROP_SAT (i : Nat) : Fld := ⟨0x30180138 + 0x80 * i, 31, 1, 0⟩
def PKT_P_RXERR_COUNT (i : Nat) : Fld := ⟨0x3018013C + 0x80 * i, 0, 31, 0⟩
def PKT_P_RXERR_SAT (i : Nat) : Fld := ⟨0x3018013C + 0x80 * i, 31, 1, 0⟩
def PKT_P_TXDROP_COUNT (i : Nat) : Fld := ⟨0x30180140 + 0x80 * i, 0, 31, 0⟩
def PKT_P_TXDROP_SAT (i : Nat) : Fld := ⟨0x30180140 + 0x80 * i, 31, 1, 0⟩
def PKT_P_OLATE_COUNT (i : Nat) : Fld := ⟨0x30180144 + 0x80 * i, 0, 31, 0⟩
def PKT_P_OLATE_SAT (i : Nat) : Fld := ⟨0x30180144 + 0x80 * i, 31, 1, 0⟩
def PKT_LR_CFG_EN (i : Nat) : Fld := ⟨0x30180800 + 0x20 * i, 0, 1, 0⟩
def PKT_LR_CFG_CHAN (i : Nat) : Fld := ⟨0x30180800 + 0x20 * i, 1, 6, 0⟩
def PKT_LR_CFG_QUEUE (i : Nat) : Fld := ⟨0x30180800 + 0x20 * i, 7, 6, 0⟩
def PKT_LR_DADDR (i : Nat) : Fld := ⟨0x30180808 + 0x20 * i, 0, 64, 0⟩
def PKT_LR_VBASE (i : Nat) : Fld := ⟨0x30180810 + 0x20 * i, 0, 64, 0⟩
def PKT_CR_M0_DMAC (i : Nat) : Fld := ⟨0x30181000 + 0x20 * i, 0, 48, 0⟩
def PKT_CR_M0_MACEN (i : Nat) : Fld := ⟨0x30181000 + 0x20 * i, 48, 1, 0⟩
def PKT_CR_M0_VID (i : Nat) : Fld := ⟨0x30181000 + 0x20 * i, 49, 12, 0⟩
def PKT_CR_M0_VIDEN (i : Nat) : Fld := ⟨0x30181000 + 0x20 * i, 61, 1, 0⟩
def PKT_CR_M1_ETYPE (i : Nat) : Fld := ⟨0x30181008 + 0x20 * i, 0, 16, 0⟩
def PKT_CR_M1_ETEN (i : Nat) : Fld := ⟨0x30181008 + 0x20 * i, 16, 1, 0⟩
def PKT_CR_M1_PROTO (i : Nat) : Fld := ⟨0x30181008 + 0x20 * i, 17, 8, 0⟩
def PKT_CR_M1_PROTEN (i : Nat) : Fld := ⟨0x30181008 + 0x20 * i, 25, 1, 0⟩
def PKT_CR_M1_UDPPORT (i : Nat) : Fld := ⟨0x30181008 + 0x20 * i, 26, 16, 0⟩
def PKT_CR_M1_UDPEN (i : Nat) : Fld := ⟨0x30181008 + 0x20 * i, 42, 1, 0⟩
def PKT_CR_M1_PORTS (i : Nat) : Fld := ⟨0x30181008 + 0x20 * i, 43, 6, 0⟩
def PKT_CR_ACT_EN (i : Nat) : Fld := ⟨0x30181010 + 0x20 * i, 0, 1, 0⟩
def PKT_CR_ACT_ACTION (i : Nat) : Fld := ⟨0x30181010 + 0x20 * i, 1, 2, 0⟩
def PKT_CR_ACT_QUEUE (i : Nat) : Fld := ⟨0x30181010 + 0x20 * i, 3, 6, 0⟩
def PKT_CR_ACT_LAND (i : Nat) : Fld := ⟨0x30181010 + 0x20 * i, 9, 4, 0⟩
def PKT_CR_ACT_FWD (i : Nat) : Fld := ⟨0x30181010 + 0x20 * i, 13, 6, 0⟩
def PKT_CR_ACT_DOM (i : Nat) : Fld := ⟨0x30181010 + 0x20 * i, 19, 8, 0⟩
def PKT_CR_HITS (i : Nat) : Fld := ⟨0x30181018 + 0x20 * i, 0, 32, 0⟩
def PKT_ST_W0_IP (i : Nat) : Fld := ⟨0x30184000 + 0x20 * i, 0, 32, 0⟩
def PKT_ST_W0_UDPPORT (i : Nat) : Fld := ⟨0x30184000 + 0x20 * i, 32, 16, 0⟩
def PKT_ST_W0_VID (i : Nat) : Fld := ⟨0x30184000 + 0x20 * i, 48, 12, 0⟩
def PKT_ST_W0_VTAG (i : Nat) : Fld := ⟨0x30184000 + 0x20 * i, 60, 1, 0⟩
def PKT_ST_W0_OUTEN (i : Nat) : Fld := ⟨0x30184000 + 0x20 * i, 61, 1, 0⟩
def PKT_ST_W0_SRCCHK (i : Nat) : Fld := ⟨0x30184000 + 0x20 * i, 62, 1, 0⟩
def PKT_ST_W1_MAC (i : Nat) : Fld := ⟨0x30184008 + 0x20 * i, 0, 48, 0⟩
def PKT_ST_W2_OUT2_BASE (i : Nat) : Fld := ⟨0x30184010 + 0x20 * i, 0, 17, 0⟩
def PKT_ST_W2_OUT2_CNT (i : Nat) : Fld := ⟨0x30184010 + 0x20 * i, 17, 11, 0⟩
def PKT_ST_RXMSG (i : Nat) : Fld := ⟨0x30184018 + 0x20 * i, 0, 32, 0⟩
def PKT_ST_REJ (i : Nat) : Fld := ⟨0x3018401C + 0x20 * i, 0, 31, 0⟩
def PKT_ST_REJ_SAT (i : Nat) : Fld := ⟨0x3018401C + 0x20 * i, 31, 1, 0⟩

/-! ## MOR registers (R439) -/
def MOR_CTRL_EN : Fld := ⟨0x30190000, 0, 1, 0⟩
def MOR_STAT_FREE : Fld := ⟨0x30190004, 0, 17, 65536⟩
def MOR_STAT_OPEN : Fld := ⟨0x30190004, 17, 9, 0⟩
def MOR_BANKEN_EN : Fld := ⟨0x30190008, 0, 16, 65535⟩
def MOR_BANKST_OFF : Fld := ⟨0x3019000C, 0, 16, 0⟩
def MOR_BANKST_DRAIN : Fld := ⟨0x3019000C, 16, 16, 0⟩
def MOR_QCELL_CELL : Fld := ⟨0x30190010, 0, 16, 0⟩
def MOR_QCELL_OP : Fld := ⟨0x30190010, 16, 2, 0⟩
def MOR_QCELL_GO : Fld := ⟨0x30190010, 31, 1, 0⟩
def MOR_QCNT_COUNT : Fld := ⟨0x30190014, 0, 17, 0⟩
def MOR_LOSTCELLS_COUNT : Fld := ⟨0x30190024, 0, 17, 0⟩
def MOR_CECNT_COUNT : Fld := ⟨0x30190018, 0, 31, 0⟩
def MOR_CECNT_SAT : Fld := ⟨0x30190018, 31, 1, 0⟩
def MOR_UECNT_COUNT : Fld := ⟨0x3019001C, 0, 31, 0⟩
def MOR_UECNT_SAT : Fld := ⟨0x3019001C, 31, 1, 0⟩
def MOR_UEADDR_CELL : Fld := ⟨0x30190020, 0, 16, 0⟩
def MOR_UEADDR_WORD : Fld := ⟨0x30190020, 16, 3, 0⟩
def MOR_UEADDR_LINK : Fld := ⟨0x30190020, 19, 1, 0⟩
def MOR_UEADDR_QUEUE : Fld := ⟨0x30190020, 20, 6, 0⟩
def MOR_UEADDR_VALID : Fld := ⟨0x30190020, 31, 1, 0⟩
def MOR_Q_CFG_EN (i : Nat) : Fld := ⟨0x30191000 + 0x40 * i, 0, 1, 0⟩
def MOR_Q_CFG_QUOTA (i : Nat) : Fld := ⟨0x30191000 + 0x40 * i, 1, 17, 0⟩
def MOR_Q_CFG_DOM (i : Nat) : Fld := ⟨0x30191000 + 0x40 * i, 18, 8, 0⟩
def MOR_Q_FLUSH (i : Nat) : Fld := ⟨0x30191004 + 0x40 * i, 0, 1, 0⟩
def MOR_Q_BEGIN (i : Nat) : Fld := ⟨0x30191008 + 0x40 * i, 0, 1, 0⟩
def MOR_Q_END_FLAGS (i : Nat) : Fld := ⟨0x3019100C + 0x40 * i, 0, 8, 0⟩
def MOR_Q_END_LAST (i : Nat) : Fld := ⟨0x3019100C + 0x40 * i, 8, 3, 0⟩
def MOR_Q_END (i : Nat) : Fld := ⟨0x3019100C + 0x40 * i, 11, 1, 0⟩
def MOR_Q_PUSH (i : Nat) : Fld := ⟨0x30191010 + 0x40 * i, 0, 64, 0⟩
def MOR_Q_POP (i : Nat) : Fld := ⟨0x30191018 + 0x40 * i, 0, 64, 0⟩
def MOR_Q_PKTS (i : Nat) : Fld := ⟨0x30191020 + 0x40 * i, 0, 17, 0⟩
def MOR_Q_WORDS (i : Nat) : Fld := ⟨0x30191024 + 0x40 * i, 0, 20, 0⟩
def MOR_Q_CELLS (i : Nat) : Fld := ⟨0x30191028 + 0x40 * i, 0, 17, 0⟩
def MOR_Q_STAT_BROKEN (i : Nat) : Fld := ⟨0x30191034 + 0x40 * i, 0, 1, 0⟩
def MOR_Q_STAT_SEQERR (i : Nat) : Fld := ⟨0x30191034 + 0x40 * i, 1, 1, 0⟩
def MOR_Q_DROPP_COUNT (i : Nat) : Fld := ⟨0x3019102C + 0x40 * i, 0, 31, 0⟩
def MOR_Q_DROPP_SAT (i : Nat) : Fld := ⟨0x3019102C + 0x40 * i, 31, 1, 0⟩
def MOR_Q_DROPW_COUNT (i : Nat) : Fld := ⟨0x30191030 + 0x40 * i, 0, 31, 0⟩
def MOR_Q_DROPW_SAT (i : Nat) : Fld := ⟨0x30191030 + 0x40 * i, 31, 1, 0⟩

/-! ## CAN registers (R463) -/
def CAN_CTRL_EN (n : Nat) : Fld := ⟨0x30200000 + 0x10000 * n, 0, 1, 0⟩
def CAN_CTRL_MODE (n : Nat) : Fld := ⟨0x30200000 + 0x10000 * n, 1, 2, 0⟩
def CAN_CTRL_FDEN (n : Nat) : Fld := ⟨0x30200000 + 0x10000 * n, 3, 1, 0⟩
def CAN_CTRL_COLLSTOP (n : Nat) : Fld := ⟨0x30200000 + 0x10000 * n, 4, 1, 0⟩
def CAN_CTRL_DOM (n : Nat) : Fld := ⟨0x30200000 + 0x10000 * n, 8, 8, 0⟩
def CAN_STAT_BSTATE (n : Nat) : Fld := ⟨0x30200004 + 0x10000 * n, 0, 2, 0⟩
def CAN_STAT_CMDREF (n : Nat) : Fld := ⟨0x30200004 + 0x10000 * n, 2, 1, 0⟩
def CAN_STAT_OBJREF (n : Nat) : Fld := ⟨0x30200004 + 0x10000 * n, 3, 1, 0⟩
def CAN_STAT_FIFOREF (n : Nat) : Fld := ⟨0x30200004 + 0x10000 * n, 4, 1, 0⟩
def CAN_ERRC_TEC (n : Nat) : Fld := ⟨0x30200008 + 0x10000 * n, 0, 9, 0⟩
def CAN_ERRC_REC (n : Nat) : Fld := ⟨0x30200008 + 0x10000 * n, 16, 8, 0⟩
def CAN_NBT_NBRP (n : Nat) : Fld := ⟨0x3020000C + 0x10000 * n, 0, 5, 0⟩
def CAN_NBT_NTSEG1 (n : Nat) : Fld := ⟨0x3020000C + 0x10000 * n, 5, 8, 62⟩
def CAN_NBT_NTSEG2 (n : Nat) : Fld := ⟨0x3020000C + 0x10000 * n, 13, 7, 15⟩
def CAN_NBT_NSJW (n : Nat) : Fld := ⟨0x3020000C + 0x10000 * n, 20, 7, 15⟩
def CAN_DBT_DBRP (n : Nat) : Fld := ⟨0x30200010 + 0x10000 * n, 0, 5, 0⟩
def CAN_DBT_DTSEG1 (n : Nat) : Fld := ⟨0x30200010 + 0x10000 * n, 5, 5, 10⟩
def CAN_DBT_DTSEG2 (n : Nat) : Fld := ⟨0x30200010 + 0x10000 * n, 10, 4, 3⟩
def CAN_DBT_DSJW (n : Nat) : Fld := ⟨0x30200010 + 0x10000 * n, 14, 4, 3⟩
def CAN_TDC_TDCO (n : Nat) : Fld := ⟨0x30200014 + 0x10000 * n, 0, 7, 0⟩
def CAN_TDC_TDCEN (n : Nat) : Fld := ⟨0x30200014 + 0x10000 * n, 7, 1, 0⟩
def CAN_ABDSTAT_NIDX (n : Nat) : Fld := ⟨0x30200018 + 0x10000 * n, 0, 4, 0⟩
def CAN_ABDSTAT_DIDX (n : Nat) : Fld := ⟨0x30200018 + 0x10000 * n, 4, 4, 0⟩
def CAN_ABDSTAT_NOK (n : Nat) : Fld := ⟨0x30200018 + 0x10000 * n, 8, 1, 0⟩
def CAN_ABDSTAT_DOK (n : Nat) : Fld := ⟨0x30200018 + 0x10000 * n, 9, 1, 0⟩
def CAN_BOFFCNT_COUNT (n : Nat) : Fld := ⟨0x30200020 + 0x10000 * n, 0, 31, 0⟩
def CAN_BOFFCNT_SAT (n : Nat) : Fld := ⟨0x30200020 + 0x10000 * n, 31, 1, 0⟩
def CAN_IDCOLLCNT_COUNT (n : Nat) : Fld := ⟨0x30200024 + 0x10000 * n, 0, 31, 0⟩
def CAN_IDCOLLCNT_SAT (n : Nat) : Fld := ⟨0x30200024 + 0x10000 * n, 31, 1, 0⟩
def CAN_RIOREJ_COUNT (n : Nat) : Fld := ⟨0x30200028 + 0x10000 * n, 0, 31, 0⟩
def CAN_RIOREJ_SAT (n : Nat) : Fld := ⟨0x30200028 + 0x10000 * n, 31, 1, 0⟩
def CAN_OLATE_COUNT (n : Nat) : Fld := ⟨0x3020002C + 0x10000 * n, 0, 31, 0⟩
def CAN_OLATE_SAT (n : Nat) : Fld := ⟨0x3020002C + 0x10000 * n, 31, 1, 0⟩
def CAN_SYNCLOST_COUNT (n : Nat) : Fld := ⟨0x30200030 + 0x10000 * n, 0, 31, 0⟩
def CAN_SYNCLOST_SAT (n : Nat) : Fld := ⟨0x30200030 + 0x10000 * n, 31, 1, 0⟩
def CAN_RXNOMATCH_COUNT (n : Nat) : Fld := ⟨0x30200034 + 0x10000 * n, 0, 32, 0⟩
def CAN_COLLID_ID (n : Nat) : Fld := ⟨0x30200038 + 0x10000 * n, 0, 29, 0⟩
def CAN_COLLID_IDE (n : Nat) : Fld := ⟨0x30200038 + 0x10000 * n, 29, 1, 0⟩
def CAN_COLLID_FIFO (n : Nat) : Fld := ⟨0x30200038 + 0x10000 * n, 30, 1, 0⟩
def CAN_RIOINFO_REASON (n : Nat) : Fld := ⟨0x3020003C + 0x10000 * n, 0, 2, 0⟩
def CAN_RIOINFO_OBJ (n : Nat) : Fld := ⟨0x3020003C + 0x10000 * n, 2, 7, 0⟩
def CAN_SYNC_ID (n : Nat) : Fld := ⟨0x30200040 + 0x10000 * n, 0, 29, 1⟩
def CAN_SYNC_IDE (n : Nat) : Fld := ⟨0x30200040 + 0x10000 * n, 29, 1, 0⟩
def CAN_SYNC_EN (n : Nat) : Fld := ⟨0x30200040 + 0x10000 * n, 30, 1, 0⟩
def CAN_RIO_CFG_ICHAN (n : Nat) : Fld := ⟨0x30200048 + 0x10000 * n, 0, 6, 0⟩
def CAN_RIO_CFG_OCHAN (n : Nat) : Fld := ⟨0x30200048 + 0x10000 * n, 6, 6, 0⟩
def CAN_RIO_IDADDR_ADDR (n : Nat) : Fld := ⟨0x30200050 + 0x10000 * n, 0, 64, 0⟩
def CAN_RIO_ODADDR_ADDR (n : Nat) : Fld := ⟨0x30200058 + 0x10000 * n, 0, 64, 0⟩
def CAN_RIO_VBASE_ADDR (n : Nat) : Fld := ⟨0x30200060 + 0x10000 * n, 0, 64, 0⟩
def CAN_RIO_OVBASE_ADDR (n : Nat) : Fld := ⟨0x30200068 + 0x10000 * n, 0, 64, 0⟩
def CAN_RIO_LVBASE_ADDR (n : Nat) : Fld := ⟨0x30200070 + 0x10000 * n, 0, 64, 0⟩
def CAN_ABD_NBT_TIMING (n i : Nat) : Fld := ⟨0x30200100 + 0x10000 * n + 0x8 * i, 0, 27, 0⟩
def CAN_ABD_NBT_VALID (n i : Nat) : Fld := ⟨0x30200100 + 0x10000 * n + 0x8 * i, 31, 1, 0⟩
def CAN_ABD_DBT_TIMING (n i : Nat) : Fld := ⟨0x30200104 + 0x10000 * n + 0x8 * i, 0, 27, 0⟩
def CAN_ABD_DBT_VALID (n i : Nat) : Fld := ⟨0x30200104 + 0x10000 * n + 0x8 * i, 31, 1, 0⟩
def CAN_IPEND_PEND (n i : Nat) : Fld := ⟨0x30200180 + 0x10000 * n + 0x4 * i, 0, 32, 0⟩
def CAN_IPENDF_PEND (n : Nat) : Fld := ⟨0x30200190 + 0x10000 * n, 0, 32, 0⟩
def CAN_TXF_ID (n : Nat) : Fld := ⟨0x30200200 + 0x10000 * n, 0, 29, 0⟩
def CAN_TXF_ID_IDE (n : Nat) : Fld := ⟨0x30200200 + 0x10000 * n, 29, 1, 0⟩
def CAN_TXF_CTL_FDF (n : Nat) : Fld := ⟨0x30200204 + 0x10000 * n, 2, 1, 0⟩
def CAN_TXF_CTL_BRS (n : Nat) : Fld := ⟨0x30200204 + 0x10000 * n, 3, 1, 0⟩
def CAN_TXF_CTL_RTR (n : Nat) : Fld := ⟨0x30200204 + 0x10000 * n, 4, 1, 0⟩
def CAN_TXF_CTL_DLC (n : Nat) : Fld := ⟨0x30200204 + 0x10000 * n, 5, 4, 0⟩
def CAN_TXF_CTL_IE (n : Nat) : Fld := ⟨0x30200204 + 0x10000 * n, 9, 1, 0⟩
def CAN_TXF_DATA (n i : Nat) : Fld := ⟨0x30200240 + 0x10000 * n + 0x4 * i, 0, 32, 0⟩
def CAN_TXF_CMD_PUSH (n : Nat) : Fld := ⟨0x30200280 + 0x10000 * n, 0, 1, 0⟩
def CAN_TXF_CMD_FLUSH (n : Nat) : Fld := ⟨0x30200280 + 0x10000 * n, 1, 1, 0⟩
def CAN_TXF_STAT_COUNT (n : Nat) : Fld := ⟨0x30200284 + 0x10000 * n, 0, 6, 0⟩
def CAN_TXF_STAT_CANCEL_LATE (n : Nat) : Fld := ⟨0x30200284 + 0x10000 * n, 6, 1, 0⟩
def CAN_TXF_STAT_FLUSHED (n : Nat) : Fld := ⟨0x30200284 + 0x10000 * n, 7, 7, 0⟩
def CAN_TXF_STAT_COLLIDED (n : Nat) : Fld := ⟨0x30200284 + 0x10000 * n, 14, 1, 0⟩
def CAN_TXF_DONE_COUNT (n : Nat) : Fld := ⟨0x30200288 + 0x10000 * n, 0, 32, 0⟩
def CAN_OBJ_ID (n i : Nat) : Fld := ⟨0x30201000 + 0x10000 * n + 0x80 * i, 0, 29, 0⟩
def CAN_OBJ_ID_IDE (n i : Nat) : Fld := ⟨0x30201000 + 0x10000 * n + 0x80 * i, 29, 1, 0⟩
def CAN_OBJ_MASK (n i : Nat) : Fld := ⟨0x30201004 + 0x10000 * n + 0x80 * i, 0, 29, 0⟩
def CAN_OBJ_CTL_EN (n i : Nat) : Fld := ⟨0x30201008 + 0x10000 * n + 0x80 * i, 0, 1, 0⟩
def CAN_OBJ_CTL_DIR (n i : Nat) : Fld := ⟨0x30201008 + 0x10000 * n + 0x80 * i, 1, 1, 0⟩
def CAN_OBJ_CTL_FDF (n i : Nat) : Fld := ⟨0x30201008 + 0x10000 * n + 0x80 * i, 2, 1, 0⟩
def CAN_OBJ_CTL_BRS (n i : Nat) : Fld := ⟨0x30201008 + 0x10000 * n + 0x80 * i, 3, 1, 0⟩
def CAN_OBJ_CTL_RTR (n i : Nat) : Fld := ⟨0x30201008 + 0x10000 * n + 0x80 * i, 4, 1, 0⟩
def CAN_OBJ_CTL_DLC (n i : Nat) : Fld := ⟨0x30201008 + 0x10000 * n + 0x80 * i, 5, 4, 0⟩
def CAN_OBJ_CTL_IE (n i : Nat) : Fld := ⟨0x30201008 + 0x10000 * n + 0x80 * i, 9, 1, 0⟩
def CAN_OBJ_CTL_TXRQ (n i : Nat) : Fld := ⟨0x30201008 + 0x10000 * n + 0x80 * i, 10, 1, 0⟩
def CAN_OBJ_CTL_CANCEL (n i : Nat) : Fld := ⟨0x30201008 + 0x10000 * n + 0x80 * i, 11, 1, 0⟩
def CAN_OBJ_STAT_NEWDAT (n i : Nat) : Fld := ⟨0x3020100C + 0x10000 * n + 0x80 * i, 0, 1, 0⟩
def CAN_OBJ_STAT_MSGLST (n i : Nat) : Fld := ⟨0x3020100C + 0x10000 * n + 0x80 * i, 1, 1, 0⟩
def CAN_OBJ_STAT_TXOK (n i : Nat) : Fld := ⟨0x3020100C + 0x10000 * n + 0x80 * i, 2, 1, 0⟩
def CAN_OBJ_STAT_CANCELLED (n i : Nat) : Fld := ⟨0x3020100C + 0x10000 * n + 0x80 * i, 3, 1, 0⟩
def CAN_OBJ_STAT_CANCEL_LATE (n i : Nat) : Fld := ⟨0x3020100C + 0x10000 * n + 0x80 * i, 4, 1, 0⟩
def CAN_OBJ_STAT_COLLIDED (n i : Nat) : Fld := ⟨0x3020100C + 0x10000 * n + 0x80 * i, 5, 1, 0⟩
def CAN_OBJ_STAT_ARB (n i : Nat) : Fld := ⟨0x3020100C + 0x10000 * n + 0x80 * i, 6, 1, 0⟩
def CAN_OBJ_STAT_ESI (n i : Nat) : Fld := ⟨0x3020100C + 0x10000 * n + 0x80 * i, 7, 1, 0⟩
def CAN_OBJ_STAT_RXDLC (n i : Nat) : Fld := ⟨0x3020100C + 0x10000 * n + 0x80 * i, 8, 4, 0⟩
def CAN_OBJ_STAT_RXFDF (n i : Nat) : Fld := ⟨0x3020100C + 0x10000 * n + 0x80 * i, 12, 1, 0⟩
def CAN_OBJ_STAT_RXBRS (n i : Nat) : Fld := ⟨0x3020100C + 0x10000 * n + 0x80 * i, 13, 1, 0⟩
def CAN_OBJ_STAT_RXRTR (n i : Nat) : Fld := ⟨0x3020100C + 0x10000 * n + 0x80 * i, 14, 1, 0⟩
def CAN_OBJ_TIME (n i : Nat) : Fld := ⟨0x30201010 + 0x10000 * n + 0x80 * i, 0, 64, 0⟩
def CAN_OBJ_RIO_EN (n i : Nat) : Fld := ⟨0x30201018 + 0x10000 * n + 0x80 * i, 0, 1, 0⟩
def CAN_OBJ_RIO_STATION (n i : Nat) : Fld := ⟨0x30201018 + 0x10000 * n + 0x80 * i, 1, 11, 0⟩
def CAN_OBJ_RIO_MSGIDX (n i : Nat) : Fld := ⟨0x30201018 + 0x10000 * n + 0x80 * i, 12, 3, 0⟩
def CAN_OBJ_RIO_POFF (n i : Nat) : Fld := ⟨0x30201018 + 0x10000 * n + 0x80 * i, 15, 11, 0⟩
def CAN_OBJ_RXID (n i : Nat) : Fld := ⟨0x3020101C + 0x10000 * n + 0x80 * i, 0, 29, 0⟩
def CAN_OBJ_RXID_RXIDE (n i : Nat) : Fld := ⟨0x3020101C + 0x10000 * n + 0x80 * i, 29, 1, 0⟩
def CAN_OBJ_DATA (n i j : Nat) : Fld := ⟨0x30201040 + 0x10000 * n + 0x80 * i + 0x4 * j, 0, 32, 0⟩

/-! ## TIM registers (R481) -/
def TIM_CTRL_EN : Fld := ⟨0x30280000, 0, 1, 1⟩
def TIM_CTRL_SRCPORT : Fld := ⟨0x30280000, 1, 3, 7⟩
def TIM_STAT_STATE : Fld := ⟨0x30280004, 0, 2, 0⟩
def TIM_STAT_STEPOK : Fld := ⟨0x30280004, 2, 1, 0⟩
def TIM_STAT_SLEWING : Fld := ⟨0x30280004, 3, 1, 0⟩
def TIM_STAT_STEPREF : Fld := ⟨0x30280004, 4, 1, 0⟩
def TIM_STAT_RATEREF : Fld := ⟨0x30280004, 5, 1, 0⟩
def TIM_STAT_SLEWREF : Fld := ⟨0x30280004, 6, 1, 0⟩
def TIM_STAT_TOUT : Fld := ⟨0x30280004, 7, 1, 0⟩
def TIM_STAT_CMDREF : Fld := ⟨0x30280004, 8, 1, 0⟩
def TIM_CMD_OP : Fld := ⟨0x30280008, 0, 3, 0⟩
def TIM_CMD_CAPT : Fld := ⟨0x30280008, 3, 1, 0⟩
def TIM_SERVOTO_MS : Fld := ⟨0x3028000C, 0, 16, 4000⟩
def TIM_TFREE : Fld := ⟨0x30280010, 0, 64, 0⟩
def TIM_NOW : Fld := ⟨0x30280018, 0, 64, 0⟩
def TIM_OFFSET : Fld := ⟨0x30280020, 0, 64, 0⟩
def TIM_STEPVAL : Fld := ⟨0x30280028, 0, 64, 0⟩
def TIM_CAPTF : Fld := ⟨0x30280040, 0, 64, 0⟩
def TIM_CAPNT : Fld := ⟨0x30280048, 0, 64, 0⟩
def TIM_RATE : Fld := ⟨0x30280030, 0, 32, 0⟩
def TIM_RE : Fld := ⟨0x30280034, 0, 32, 0⟩
def TIM_SLEWPH : Fld := ⟨0x30280038, 0, 32, 0⟩
def TIM_SLEWCTL_MS : Fld := ⟨0x3028003C, 0, 24, 0⟩
def TIM_SLEWCTL_GO : Fld := ⟨0x3028003C, 31, 1, 0⟩
def TIM_SLEWMOV : Fld := ⟨0x30280058, 0, 32, 0⟩
def TIM_HOLDCNT_COUNT : Fld := ⟨0x30280050, 0, 31, 0⟩
def TIM_HOLDCNT_SAT : Fld := ⟨0x30280050, 31, 1, 0⟩
def TIM_TPSKIPCNT_COUNT : Fld := ⟨0x30280054, 0, 31, 0⟩
def TIM_TPSKIPCNT_SAT : Fld := ⟨0x30280054, 31, 1, 0⟩
def TIM_P_LAT_RXLAT (i : Nat) : Fld := ⟨0x30280100 + 0x4 * i, 0, 16, 0⟩
def TIM_P_LAT_TXLAT (i : Nat) : Fld := ⟨0x30280100 + 0x4 * i, 16, 16, 0⟩
def TIM_TP_CTRL_ARM (i : Nat) : Fld := ⟨0x30280400 + 0x40 * i, 0, 1, 0⟩
def TIM_TP_CTRL_STOP (i : Nat) : Fld := ⟨0x30280400 + 0x40 * i, 1, 1, 0⟩
def TIM_TP_CTRL_MODE (i : Nat) : Fld := ⟨0x30280400 + 0x40 * i, 2, 1, 0⟩
def TIM_TP_CTRL_POL (i : Nat) : Fld := ⟨0x30280400 + 0x40 * i, 3, 1, 0⟩
def TIM_TP_CTRL_LOCKONLY (i : Nat) : Fld := ⟨0x30280400 + 0x40 * i, 4, 1, 0⟩
def TIM_TP_CTRL_BURST (i : Nat) : Fld := ⟨0x30280400 + 0x40 * i, 5, 4, 0⟩
def TIM_TP_STAT_ACTIVE (i : Nat) : Fld := ⟨0x30280404 + 0x40 * i, 0, 1, 0⟩
def TIM_TP_STAT_DONE (i : Nat) : Fld := ⟨0x30280404 + 0x40 * i, 1, 1, 0⟩
def TIM_TP_STAT_SKIPPED (i : Nat) : Fld := ⟨0x30280404 + 0x40 * i, 2, 1, 0⟩
def TIM_TP_STAT_HELD (i : Nat) : Fld := ⟨0x30280404 + 0x40 * i, 3, 1, 0⟩
def TIM_TP_STAT_CFGREF (i : Nat) : Fld := ⟨0x30280404 + 0x40 * i, 4, 1, 0⟩
def TIM_TP_START (i : Nat) : Fld := ⟨0x30280408 + 0x40 * i, 0, 64, 0⟩
def TIM_TP_PERIOD (i : Nat) : Fld := ⟨0x30280410 + 0x40 * i, 0, 64, 0⟩
def TIM_TP_WIDTH (i : Nat) : Fld := ⟨0x30280418 + 0x40 * i, 0, 32, 0⟩
def TIM_TP_SPACING (i : Nat) : Fld := ⟨0x3028041C + 0x40 * i, 0, 32, 0⟩
def TIM_TP_COUNT (i : Nat) : Fld := ⟨0x30280420 + 0x40 * i, 0, 32, 0⟩
def TIM_TP_DONECNT_DONE (i : Nat) : Fld := ⟨0x30280424 + 0x40 * i, 0, 32, 0⟩
def TIM_TP_NEXT (i : Nat) : Fld := ⟨0x30280428 + 0x40 * i, 0, 64, 0⟩

/-! ## NVM registers (R527) -/
def NVM_CTRL_COMPEN : Fld := ⟨0x30290000, 0, 1, 1⟩
def NVM_CTRL_PACE : Fld := ⟨0x30290000, 8, 8, 10⟩
def NVM_STAT_MOUNT : Fld := ⟨0x30290004, 0, 2, 0⟩
def NVM_STAT_PDCOK : Fld := ⟨0x30290004, 2, 1, 0⟩
def NVM_STAT_FULLWAIT : Fld := ⟨0x30290004, 3, 1, 0⟩
def NVM_STAT_KEYWAIT : Fld := ⟨0x30290004, 4, 1, 0⟩
def NVM_STAT_TAMPER : Fld := ⟨0x30290004, 5, 1, 0⟩
def NVM_STAT_HELDTRUNC : Fld := ⟨0x30290004, 6, 1, 0⟩
def NVM_STAT_QREF : Fld := ⟨0x30290004, 7, 1, 0⟩
def NVM_STAT_COMPACT : Fld := ⟨0x30290004, 8, 1, 0⟩
def NVM_STAT_CREFRESH : Fld := ⟨0x30290004, 9, 1, 0⟩
def NVM_STAT_DEGRADED : Fld := ⟨0x30290004, 10, 1, 0⟩
def NVM_WADDR : Fld := ⟨0x30290008, 0, 40, 0⟩
def NVM_WTYPE : Fld := ⟨0x30290010, 0, 16, 0⟩
def NVM_WKEY : Fld := ⟨0x30290014, 0, 32, 0⟩
def NVM_WCMD_LEN : Fld := ⟨0x30290018, 0, 13, 0⟩
def NVM_WCMD_TXN : Fld := ⟨0x30290018, 13, 1, 0⟩
def NVM_WCMD_IE : Fld := ⟨0x30290018, 14, 1, 0⟩
def NVM_WCMD_PUSH : Fld := ⟨0x30290018, 31, 1, 0⟩
def NVM_WSUB : Fld := ⟨0x3029001C, 0, 32, 0⟩
def NVM_WCOMMIT : Fld := ⟨0x30290020, 0, 32, 0⟩
def NVM_WSTAT_TICKET : Fld := ⟨0x30290024, 0, 16, 0⟩
def NVM_WSTAT_REASON : Fld := ⟨0x30290024, 16, 4, 0⟩
def NVM_WSTAT_VALID : Fld := ⟨0x30290024, 31, 1, 0⟩
def NVM_RADDR : Fld := ⟨0x30290038, 0, 40, 0⟩
def NVM_RTYPE : Fld := ⟨0x30290040, 0, 16, 0⟩
def NVM_RKEY : Fld := ⟨0x30290044, 0, 32, 0⟩
def NVM_RCMD_GO : Fld := ⟨0x30290048, 0, 1, 0⟩
def NVM_RSTAT_BUSY : Fld := ⟨0x3029004C, 0, 1, 0⟩
def NVM_RSTAT_RESULT : Fld := ⟨0x3029004C, 1, 2, 0⟩
def NVM_RSTAT_RLEN : Fld := ⟨0x3029004C, 3, 13, 0⟩
def NVM_RSEQ : Fld := ⟨0x30290050, 0, 32, 0⟩
def NVM_WFAILCNT_COUNT : Fld := ⟨0x30290028, 0, 31, 0⟩
def NVM_WFAILCNT_SAT : Fld := ⟨0x30290028, 31, 1, 0⟩
def NVM_LOSTCNT_COUNT : Fld := ⟨0x3029002C, 0, 31, 0⟩
def NVM_LOSTCNT_SAT : Fld := ⟨0x3029002C, 31, 1, 0⟩
def NVM_CECNT_COUNT : Fld := ⟨0x30290030, 0, 31, 0⟩
def NVM_CECNT_SAT : Fld := ⟨0x30290030, 31, 1, 0⟩
def NVM_SPACE_ERASED : Fld := ⟨0x30290058, 0, 9, 0⟩
def NVM_SPACE_RETIRED : Fld := ⟨0x30290058, 9, 9, 0⟩
def NVM_ECMAX : Fld := ⟨0x3029005C, 0, 24, 0⟩
def NVM_ECMIN : Fld := ⟨0x30290060, 0, 24, 0⟩
def NVM_HELDLEN : Fld := ⟨0x30290064, 0, 15, 0⟩
def NVM_HELDUSE : Fld := ⟨0x30290068, 0, 15, 0⟩
def NVM_CCMD_SECTOR : Fld := ⟨0x30290070, 0, 8, 0⟩
def NVM_CCMD_REFRESH : Fld := ⟨0x30290070, 8, 1, 0⟩
def NVM_CCMD_GO : Fld := ⟨0x30290070, 31, 1, 0⟩
def NVM_CREF_CSECTOR : Fld := ⟨0x30290074, 0, 10, 0⟩
def NVM_CREF_CGO : Fld := ⟨0x30290074, 31, 1, 0⟩
def NVM_CNTINC_CNT : Fld := ⟨0x30290078, 0, 4, 0⟩
def NVM_UEADDR : Fld := ⟨0x30290080, 0, 24, 0⟩
def NVM_UEADDR_UEVALID : Fld := ⟨0x30290080, 31, 1, 0⟩
def NVM_PUSE_USED (i : Nat) : Fld := ⟨0x30290100 + 0x4 * i, 0, 20, 0⟩
def NVM_CNT_VALUE (i : Nat) : Fld := ⟨0x30290200 + 0x8 * i, 0, 64, 0⟩

/-! ## KEY registers (R555) -/
def KEY_CTRL_MODE : Fld := ⟨0x302A0000, 0, 2, 0⟩
def KEY_STAT_ROOTOK : Fld := ⟨0x302A0004, 0, 1, 0⟩
def KEY_STAT_ROOTFAIL : Fld := ⟨0x302A0004, 1, 1, 0⟩
def KEY_STAT_TAMPER : Fld := ⟨0x302A0004, 2, 1, 0⟩
def KEY_STAT_PUFHI : Fld := ⟨0x302A0004, 3, 1, 0⟩
def KEY_STAT_BUSY : Fld := ⟨0x302A0004, 4, 1, 0⟩
def KEY_STAT_REFUSED : Fld := ⟨0x302A0004, 5, 1, 0⟩
def KEY_CMD_OP : Fld := ⟨0x302A0008, 0, 4, 0⟩
def KEY_CMD_NODE : Fld := ⟨0x302A0008, 4, 10, 0⟩
def KEY_CMD_PARENT : Fld := ⟨0x302A0008, 14, 10, 0⟩
def KEY_CMD_GO : Fld := ⟨0x302A0008, 31, 1, 0⟩
def KEY_CARG_MASK : Fld := ⟨0x302A0010, 0, 8, 0⟩
def KEY_CARG_KIND : Fld := ⟨0x302A0010, 8, 2, 0⟩
def KEY_CARG_EXPR : Fld := ⟨0x302A0010, 10, 1, 0⟩
def KEY_CARG_USE : Fld := ⟨0x302A0010, 11, 1, 0⟩
def KEY_CARG_EXP : Fld := ⟨0x302A0010, 12, 1, 0⟩
def KEY_CARG_SLOT : Fld := ⟨0x302A0010, 13, 6, 0⟩
def KEY_CARG_DOM : Fld := ⟨0x302A0010, 19, 8, 0⟩
def KEY_CARG_COUNT : Fld := ⟨0x302A0010, 32, 32, 0⟩
def KEY_CADDR_ADDR : Fld := ⟨0x302A0018, 0, 40, 0⟩
def KEY_CRES_VERDICT : Fld := ⟨0x302A0020, 0, 2, 0⟩
def KEY_CRES_REASON : Fld := ⟨0x302A0020, 2, 4, 0⟩
def KEY_LEDGERU_U : Fld := ⟨0x302A0024, 0, 32, 0⟩
def KEY_PUFERR_ERRS : Fld := ⟨0x302A0028, 0, 12, 0⟩
def KEY_PUFERR_MAXBLK : Fld := ⟨0x302A0028, 12, 5, 0⟩
def KEY_PUFCFG_THRESH : Fld := ⟨0x302A002C, 0, 12, 245⟩
def KEY_NONCE : Fld := ⟨0x302A0030, 0, 64, 0⟩
def KEY_ANCHOR_HASH (i : Nat) : Fld := ⟨0x302A0040 + 0x4 * i, 0, 32, 0⟩
def KEY_ORPHCNT_COUNT : Fld := ⟨0x302A0060, 0, 31, 0⟩
def KEY_ORPHCNT_SAT : Fld := ⟨0x302A0060, 31, 1, 0⟩
def KEY_REFCNT_COUNT : Fld := ⟨0x302A0064, 0, 31, 0⟩
def KEY_REFCNT_SAT : Fld := ⟨0x302A0064, 31, 1, 0⟩
def KEY_AUTHFCNT_COUNT : Fld := ⟨0x302A0068, 0, 31, 0⟩
def KEY_AUTHFCNT_SAT : Fld := ⟨0x302A0068, 31, 1, 0⟩
def KEY_K_W0_STATE (i : Nat) : Fld := ⟨0x302A1000 + 0x10 * i, 0, 2, 0⟩
def KEY_K_W0_KIND (i : Nat) : Fld := ⟨0x302A1000 + 0x10 * i, 2, 2, 0⟩
def KEY_K_W0_PARENT (i : Nat) : Fld := ⟨0x302A1000 + 0x10 * i, 4, 10, 0⟩
def KEY_K_W0_DEPTH (i : Nat) : Fld := ⟨0x302A1000 + 0x10 * i, 14, 3, 0⟩
def KEY_K_W0_MASK (i : Nat) : Fld := ⟨0x302A1000 + 0x10 * i, 17, 8, 0⟩
def KEY_K_W0_DOM (i : Nat) : Fld := ⟨0x302A1000 + 0x10 * i, 25, 8, 0⟩
def KEY_K_W0_FLAGS (i : Nat) : Fld := ⟨0x302A1000 + 0x10 * i, 33, 3, 0⟩
def KEY_K_W1_GEN (i : Nat) : Fld := ⟨0x302A1008 + 0x10 * i, 0, 32, 0⟩
def KEY_K_W1_COUNT (i : Nat) : Fld := ⟨0x302A1008 + 0x10 * i, 32, 32, 0⟩
def KEY_ENG_SEL_NODE (i : Nat) : Fld := ⟨0x302A5000 + 0x20 * i, 0, 10, 0⟩
def KEY_ENG_STAT_LOADED (i : Nat) : Fld := ⟨0x302A5004 + 0x20 * i, 0, 1, 0⟩
def KEY_ENG_STAT_RUN (i : Nat) : Fld := ⟨0x302A5004 + 0x20 * i, 1, 1, 0⟩
def KEY_ENG_STAT_RESULT (i : Nat) : Fld := ⟨0x302A5004 + 0x20 * i, 2, 4, 0⟩
def KEY_ENG_JOB (i : Nat) : Fld := ⟨0x302A5008 + 0x20 * i, 0, 64, 0⟩
def KEY_ENG_CMD_GO (i : Nat) : Fld := ⟨0x302A5010 + 0x20 * i, 0, 1, 0⟩
def KEY_ENG_DONECNT_DONE (i : Nat) : Fld := ⟨0x302A5014 + 0x20 * i, 0, 32, 0⟩
def KEY_S_ATTR_VALID (i : Nat) : Fld := ⟨0x302A6000 + 0x4 * i, 0, 1, 0⟩
def KEY_S_ATTR_MASK (i : Nat) : Fld := ⟨0x302A6000 + 0x4 * i, 1, 8, 0⟩
def KEY_S_ATTR_DOM (i : Nat) : Fld := ⟨0x302A6000 + 0x4 * i, 9, 8, 0⟩
def KEY_S_ATTR_ONCE (i : Nat) : Fld := ⟨0x302A6000 + 0x4 * i, 17, 1, 0⟩
def KEY_SVAL (i : Nat) : Fld := ⟨0x302A6100 + 0x4 * i, 0, 32, 0⟩
def KEY_SCMD_SLOT : Fld := ⟨0x302A6120, 0, 6, 0⟩

/-! ## EVT registers (R577) -/
def EVT_SWRAISE_N : Fld := ⟨0x30020000, 0, 5, 0⟩
def EVT_SWRAISE_GO : Fld := ⟨0x30020000, 31, 1, 0⟩
def EVT_STAT_SWREF : Fld := ⟨0x30020004, 0, 1, 0⟩
def EVT_SWDOM_DOM (i : Nat) : Fld := ⟨0x30020100 + 0x4 * i, 0, 8, 0⟩
def EVT_ROUTE_CTX (i : Nat) : Fld := ⟨0x30020400 + 0x4 * i, 0, 8, 0⟩
def EVT_ROUTE_KEEP (i : Nat) : Fld := ⟨0x30020400 + 0x4 * i, 8, 1, if i < 16 then 1 else 0⟩
def EVT_ROUTE_LNT (i : Nat) : Fld := ⟨0x30020400 + 0x4 * i, 9, 8, 0⟩
def EVT_ROUTE_LPE (i : Nat) : Fld := ⟨0x30020400 + 0x4 * i, 17, 2, 0⟩
def EVT_ROUTE_TND (i : Nat) : Fld := ⟨0x30020400 + 0x4 * i, 19, 1, 0⟩
def EVT_CLAIM_EVENT (i : Nat) : Fld := ⟨0x30021000 + 0x1000 * i, 0, 8, 0⟩
def EVT_CLAIM_VALID (i : Nat) : Fld := ⟨0x30021000 + 0x1000 * i, 8, 1, 0⟩
def EVT_PEND (i j : Nat) : Fld := ⟨0x30021010 + 0x1000 * i + 0x8 * j, 0, 64, 0⟩

/-! ## LOG registers (R578) -/
def LOG_CTRL_NOTIFYSEV : Fld := ⟨0x30030000, 0, 3, 3⟩
def LOG_STAT_CLRBUSY : Fld := ⟨0x30030004, 0, 1, 0⟩
def LOG_STAT_CLRREF : Fld := ⟨0x30030004, 1, 1, 0⟩
def LOG_STAT_WREF : Fld := ⟨0x30030004, 2, 1, 0⟩
def LOG_STAT_TAILFULL : Fld := ⟨0x30030004, 3, 1, 0⟩
def LOG_SEQ : Fld := ⟨0x30030008, 0, 32, 0⟩
def LOG_EPOCH : Fld := ⟨0x3003000C, 0, 32, 0⟩
def LOG_TAIL : Fld := ⟨0x30030010, 0, 10, 0⟩
def LOG_NONCE : Fld := ⟨0x30030018, 0, 64, 0⟩
def LOG_CLRKEY : Fld := ⟨0x30030020, 0, 10, 0⟩
def LOG_CLRADDR : Fld := ⟨0x30030028, 0, 40, 0⟩
def LOG_CLRADDR_GO : Fld := ⟨0x30030028, 63, 1, 0⟩
def LOG_WPARAM : Fld := ⟨0x30030040, 0, 64, 0⟩
def LOG_WCMD_CODE : Fld := ⟨0x30030048, 0, 10, 0⟩
def LOG_WCMD_SEV : Fld := ⟨0x30030048, 10, 3, 0⟩
def LOG_WCMD_GO : Fld := ⟨0x30030048, 31, 1, 0⟩
def LOG_LOSTCNT_COUNT : Fld := ⟨0x30030030, 0, 31, 0⟩
def LOG_LOSTCNT_SAT : Fld := ⟨0x30030030, 31, 1, 0⟩
def LOG_SUPCNT_COUNT : Fld := ⟨0x30030034, 0, 31, 0⟩
def LOG_SUPCNT_SAT : Fld := ⟨0x30030034, 31, 1, 0⟩
def LOG_INTCNT_COUNT : Fld := ⟨0x30030038, 0, 31, 0⟩
def LOG_INTCNT_SAT : Fld := ⟨0x30030038, 31, 1, 0⟩
def LOG_RLIM_N (i : Nat) : Fld := ⟨0x30032000 + 0x4 * i, 0, 8, 16⟩
def LOG_RLIM_W (i : Nat) : Fld := ⟨0x30032000 + 0x4 * i, 8, 16, 60⟩
def LOG_RD_CUR (i : Nat) : Fld := ⟨0x30034000 + 0x1000 * i, 0, 32, 0⟩
def LOG_RD_CMD_NEXT (i : Nat) : Fld := ⟨0x30034004 + 0x1000 * i, 0, 1, 0⟩
def LOG_RD_STAT_BUSY (i : Nat) : Fld := ⟨0x30034008 + 0x1000 * i, 0, 1, 0⟩
def LOG_RD_STAT_VALID (i : Nat) : Fld := ⟨0x30034008 + 0x1000 * i, 1, 1, 0⟩
def LOG_RD_STAT_VER (i : Nat) : Fld := ⟨0x30034008 + 0x1000 * i, 2, 2, 0⟩
def LOG_RD_STAT_GAP (i : Nat) : Fld := ⟨0x30034008 + 0x1000 * i, 4, 1, 0⟩
def LOG_RD_DATA (i j : Nat) : Fld := ⟨0x30034010 + 0x1000 * i + 0x8 * j, 0, 64, 0⟩

/-! ## WCH registers (R598) -/
def WCH_CTRL_EN : Fld := ⟨0x302B0000, 0, 1, 0⟩
def WCH_CTRL_ROLE : Fld := ⟨0x302B0000, 1, 2, 0⟩
def WCH_CTRL_COLDTAKE : Fld := ⟨0x302B0000, 3, 1, 0⟩
def WCH_CMD_OP : Fld := ⟨0x302B0004, 0, 2, 0⟩
def WCH_STAT_STATE : Fld := ⟨0x302B0008, 0, 3, 0⟩
def WCH_STAT_PATHA : Fld := ⟨0x302B0008, 3, 1, 0⟩
def WCH_STAT_PATHB : Fld := ⟨0x302B0008, 4, 1, 0⟩
def WCH_STAT_WARMOMIT : Fld := ⟨0x302B0008, 5, 1, 0⟩
def WCH_STAT_HOSTTRUNC : Fld := ⟨0x302B0008, 6, 1, 0⟩
def WCH_STAT_CMDREF : Fld := ⟨0x302B0008, 7, 1, 0⟩
def WCH_EPOCH : Fld := ⟨0x302B000C, 0, 32, 0⟩
def WCH_LEASE : Fld := ⟨0x302B0010, 0, 17, 0⟩
def WCH_CKCFG_PERIOD : Fld := ⟨0x302B0014, 0, 16, 1000⟩
def WCH_CKBUF : Fld := ⟨0x302B0018, 0, 40, 0⟩
def WCH_RXBUF0 : Fld := ⟨0x302B0020, 0, 40, 0⟩
def WCH_RXBUF1 : Fld := ⟨0x302B0028, 0, 40, 0⟩
def WCH_HOSTADDR : Fld := ⟨0x302B0030, 0, 40, 0⟩
def WCH_HOSTLEN : Fld := ⟨0x302B0038, 0, 21, 0⟩
def WCH_CKSEQ : Fld := ⟨0x302B003C, 0, 32, 0⟩
def WCH_CKLEN : Fld := ⟨0x302B0040, 0, 22, 0⟩
def WCH_CKFNUM : Fld := ⟨0x302B0048, 0, 64, 0⟩
def WCH_HEALTH : Fld := ⟨0x302B0050, 0, 32, 0⟩
def WCH_PHEALTH : Fld := ⟨0x302B0054, 0, 32, 0⟩
def WCH_PORTQ_PORT : Fld := ⟨0x302B0058, 0, 3, 0⟩
def WCH_PORTQ_RXQ : Fld := ⟨0x302B0058, 3, 6, 0⟩
def WCH_PORTQ_TXQ : Fld := ⟨0x302B0058, 9, 6, 0⟩
def WCH_PEERIP : Fld := ⟨0x302B005C, 0, 32, 0⟩
def WCH_WITIP0 : Fld := ⟨0x302B0060, 0, 32, 0⟩
def WCH_WITIP1 : Fld := ⟨0x302B0064, 0, 32, 0⟩
def WCH_UNITID_UNIT : Fld := ⟨0x302B0068, 0, 16, 0⟩
def WCH_UNITID_UDPPORT : Fld := ⟨0x302B0068, 16, 16, 0⟩
def WCH_GARP : Fld := ⟨0x302B0084, 0, 6, 0⟩
def WCH_PATHFCNT_COUNT : Fld := ⟨0x302B0070, 0, 31, 0⟩
def WCH_PATHFCNT_SAT : Fld := ⟨0x302B0070, 31, 1, 0⟩
def WCH_CKSKIPCNT_COUNT : Fld := ⟨0x302B0074, 0, 31, 0⟩
def WCH_CKSKIPCNT_SAT : Fld := ⟨0x302B0074, 31, 1, 0⟩
def WCH_CKFAILCNT_COUNT : Fld := ⟨0x302B0078, 0, 31, 0⟩
def WCH_CKFAILCNT_SAT : Fld := ⟨0x302B0078, 31, 1, 0⟩
def WCH_AUTHFCNT_COUNT : Fld := ⟨0x302B007C, 0, 31, 0⟩
def WCH_AUTHFCNT_SAT : Fld := ⟨0x302B007C, 31, 1, 0⟩
def WCH_TAKECNT_COUNT : Fld := ⟨0x302B0080, 0, 32, 0⟩
def WCH_HOLDER : Fld := ⟨0x302B0100, 0, 16, 0⟩
def WCH_HOLDER_HELD : Fld := ⟨0x302B0100, 16, 1, 0⟩
def WCH_WEPOCH : Fld := ⟨0x302B0104, 0, 32, 0⟩
def WCH_WREMAIN : Fld := ⟨0x302B0108, 0, 17, 0⟩

/-! ## KEEP registers (R623) -/
def KEEP_CTRL_AUTORET : Fld := ⟨0x30010000, 0, 1, 0⟩
def KEEP_CTRL_HFAULTN : Fld := ⟨0x30010000, 8, 4, 3⟩
def KEEP_STAT_PLANBUSY : Fld := ⟨0x30010004, 0, 1, 0⟩
def KEEP_STAT_MARGINLOW : Fld := ⟨0x30010004, 1, 1, 0⟩
def KEEP_STAT_PROJFAIL : Fld := ⟨0x30010004, 2, 1, 0⟩
def KEEP_STAT_PROFEXC : Fld := ⟨0x30010004, 3, 1, 0⟩
def KEEP_STAT_SUPFAIL : Fld := ⟨0x30010004, 4, 1, 0⟩
def KEEP_STAT_CMDREF : Fld := ⟨0x30010004, 5, 1, 0⟩
def KEEP_CMD_OP : Fld := ⟨0x30010008, 0, 3, 0⟩
def KEEP_CMD_ISL : Fld := ⟨0x30010008, 3, 5, 0⟩
def KEEP_VDD_CODE : Fld := ⟨0x3001000C, 0, 5, 20⟩
def KEEP_VDD_MV : Fld := ⟨0x3001000C, 16, 12, 900⟩
def KEEP_PLANSEQ : Fld := ⟨0x30010010, 0, 32, 0⟩
def KEEP_NEXTPLAN : Fld := ⟨0x30010014, 0, 32, 0⟩
def KEEP_PROPOSE_ISL : Fld := ⟨0x30010018, 0, 5, 0⟩
def KEEP_PROPOSE_REASON : Fld := ⟨0x30010018, 5, 2, 0⟩
def KEEP_PROPOSE_VALID : Fld := ⟨0x30010018, 7, 1, 0⟩
def KEEP_RETIRED : Fld := ⟨0x3001001C, 0, 20, 0⟩
def KEEP_HOSTRET : Fld := ⟨0x30010020, 0, 20, 0⟩
def KEEP_LFAIL : Fld := ⟨0x30010024, 0, 31, 0⟩
def KEEP_LFAIL_SAT : Fld := ⟨0x30010024, 31, 1, 0⟩
def KEEP_MPROF0_HOURS : Fld := ⟨0x30010040, 0, 32, 0⟩
def KEEP_MPROF1_BAND : Fld := ⟨0x30010044, 0, 32, 0⟩
def KEEP_MPROF2_OVER : Fld := ⟨0x30010048, 0, 32, 0⟩
def KEEP_MPROF3_MEAN : Fld := ⟨0x3001004C, 0, 32, 0⟩
def KEEP_MPROF4_TMAX : Fld := ⟨0x30010050, 0, 32, 0⟩
def KEEP_ISL_F80 (i : Nat) : Fld := ⟨0x30010100 + 0x20 * i, 0, 32, 0⟩
def KEEP_ISL_F90 (i : Nat) : Fld := ⟨0x30010104 + 0x20 * i, 0, 32, 0⟩
def KEEP_ISL_D (i : Nat) : Fld := ⟨0x30010108 + 0x20 * i, 0, 32, 0⟩
def KEEP_ISL_DEOL (i : Nat) : Fld := ⟨0x3001010C + 0x20 * i, 0, 32, 0⟩
def KEEP_ISL_FNOW (i : Nat) : Fld := ⟨0x30010110 + 0x20 * i, 0, 32, 0⟩
def KEEP_ISL_STEP (i : Nat) : Fld := ⟨0x30010114 + 0x20 * i, 0, 5, 0⟩
def KEEP_ISL_HFCNT (i : Nat) : Fld := ⟨0x30010118 + 0x20 * i, 0, 31, 0⟩
def KEEP_ISL_HFCNT_SAT (i : Nat) : Fld := ⟨0x30010118 + 0x20 * i, 31, 1, 0⟩
def KEEP_TSENS_TEMP (i : Nat) : Fld := ⟨0x30010400 + 0x4 * i, 0, 16, 0⟩

/-! ## SYS registers (R650) -/
def SYS_RSTCAUSE_CAUSE : Fld := ⟨0x30000000, 0, 4, 0⟩
def SYS_RSTCAUSE_SAVED : Fld := ⟨0x30000000, 4, 1, 0⟩
def SYS_RSTCMD_RESET : Fld := ⟨0x30000004, 0, 1, 0⟩
def SYS_RSTCMD_COLD : Fld := ⟨0x30000004, 1, 1, 0⟩
def SYS_STAT_PFI : Fld := ⟨0x30000008, 0, 1, 0⟩
def SYS_STAT_PDDONE : Fld := ⟨0x30000008, 1, 1, 0⟩
def SYS_STAT_BOOTDONE : Fld := ⟨0x30000008, 2, 1, 0⟩
def SYS_STAT_RUNREF : Fld := ⟨0x30000008, 3, 1, 0⟩
def SYS_STAT_CMDREF : Fld := ⟨0x30000008, 4, 1, 0⟩
def SYS_BOOTSTAT_SLOT : Fld := ⟨0x3000000C, 0, 1, 0⟩
def SYS_BOOTSTAT_TRIAL : Fld := ⟨0x3000000C, 1, 1, 0⟩
def SYS_BOOTSTAT_TRIES : Fld := ⟨0x3000000C, 2, 2, 0⟩
def SYS_BOOTSTAT_FALLBACK : Fld := ⟨0x3000000C, 4, 1, 0⟩
def SYS_BOOTSTAT_MODE : Fld := ⟨0x3000000C, 5, 2, 0⟩
def SYS_BOOTSTAT_FAILA : Fld := ⟨0x3000000C, 7, 4, 0⟩
def SYS_BOOTSTAT_FAILB : Fld := ⟨0x3000000C, 11, 4, 0⟩
def SYS_BOOTSTAT_FAIL : Fld := ⟨0x3000000C, 15, 3, 0⟩
def SYS_BOOTVER_VALUE : Fld := ⟨0x30000010, 0, 32, 0⟩
def SYS_FLOOR_VALUE : Fld := ⟨0x30000014, 0, 32, 0⟩
def SYS_BOOTCMD_CONFIRM : Fld := ⟨0x30000018, 0, 1, 0⟩
def SYS_BOOTCMD_SWITCH : Fld := ⟨0x30000018, 1, 1, 0⟩
def SYS_BOOTCMD_COLDNOW : Fld := ⟨0x30000018, 2, 1, 0⟩
def SYS_WDCFG_EN : Fld := ⟨0x30000020, 0, 1, 0⟩
def SYS_WDCFG_PERIOD : Fld := ⟨0x30000020, 1, 16, 2000⟩
def SYS_WDKICK_KEY : Fld := ⟨0x30000024, 0, 16, 0⟩
def SYS_WDWARN_COUNT : Fld := ⟨0x30000028, 0, 31, 0⟩
def SYS_WDWARN_SAT : Fld := ⟨0x30000028, 31, 1, 0⟩
def SYS_FOGSTAT_COND : Fld := ⟨0x30000030, 0, 7, 1⟩
def SYS_FOGMASK_MASK : Fld := ⟨0x30000034, 4, 3, 0⟩
def SYS_FOGSW_SET : Fld := ⟨0x30000038, 0, 1, 0⟩
def SYS_SUPSTAT_INRANGE : Fld := ⟨0x30000040, 0, 8, 0⟩
def SYS_MTIMECMP_CMP (i : Nat) : Fld := ⟨0x30000100 + 0x10 * i, 0, 64, 18446744073709551615⟩
def SYS_MSIP (i : Nat) : Fld := ⟨0x30000108 + 0x10 * i, 0, 1, 0⟩
def SYS_MTIME : Fld := ⟨0x30000180, 0, 64, 0⟩

/-! ## GPIO registers (R668) -/
def GPIO_DIR : Fld := ⟨0x30300000, 0, 16, 0⟩
def GPIO_OUT : Fld := ⟨0x30300004, 0, 16, 0⟩
def GPIO_IN : Fld := ⟨0x30300008, 0, 16, 0⟩
def GPIO_SET : Fld := ⟨0x3030000C, 0, 16, 0⟩
def GPIO_CLR : Fld := ⟨0x30300010, 0, 16, 0⟩
def GPIO_PULL_PD : Fld := ⟨0x30300014, 0, 16, 65535⟩

/-! ## BIL registers (R343) -/
def BIL_FREG (i j k : Nat) : Fld := ⟨0x30150800 + 0x100 * i + 0x20 * j + 0x8 * k, 0, 64, 0⟩
def BIL_FWRAP_WRAP (i j k : Nat) : Fld := ⟨0x30151000 + 0x80 * i + 0x10 * j + 0x4 * k, 0, 16, 0⟩
def BIL_FLAT (i j k : Nat) : Fld := ⟨0x30151400 + 0x100 * i + 0x20 * j + 0x8 * k, 0, 64, 0⟩
def BIL_LTIME (i : Nat) : Fld := ⟨0x301514E0 + 0x100 * i, 0, 64, 0⟩
def BIL_FLWRAP_WRAP (i j k : Nat) : Fld := ⟨0x30151C00 + 0x80 * i + 0x10 * j + 0x4 * k, 0, 16, 0⟩
def BIL_FGAP (i j k : Nat) : Fld := ⟨0x30152000 + 0x100 * i + 0x20 * j + 0x8 * k, 0, 64, 0⟩
def BIL_HREG (i : Nat) : Fld := ⟨0x30154000 + 0x8 * i, 0, 64, 0⟩
def BIL_HWRAP_WRAP (i : Nat) : Fld := ⟨0x30156000 + 0x4 * i, 0, 16, 0⟩
def BIL_HLAT (i : Nat) : Fld := ⟨0x30157000 + 0x8 * i, 0, 64, 0⟩
def BIL_HLWRAP_WRAP (i : Nat) : Fld := ⟨0x30159000 + 0x4 * i, 0, 16, 0⟩
def BIL_HGAP (i : Nat) : Fld := ⟨0x3015A000 + 0x8 * i, 0, 64, 0⟩

/-- The registers of block FRM, by offset from its base (R104). -/
def regRowsFRM : List RegRow :=
  [⟨0x0, [], 32, [⟨0, 1, .rw, 0⟩, ⟨1, 1, .rw, 1⟩, ⟨2, 1, .rw, 0⟩], .plain⟩,
   ⟨0x4, [], 32, [⟨0, 1, .ro, 0⟩, ⟨1, 1, .ro, 0⟩, ⟨2, 1, .ro, 0⟩, ⟨3, 1, .ro, 0⟩, ⟨4, 1, .ro, 0⟩, ⟨5, 1, .w1c, 0⟩, ⟨6, 1, .w1c, 0⟩], .plain⟩,
   ⟨0x8, [], 64, [⟨0, 64, .ro, 0⟩], .plain⟩,
   ⟨0x10, [], 32, [⟨0, 32, .ro, 0⟩], .plain⟩,
   ⟨0x14, [], 32, [⟨0, 31, .ro, 0⟩, ⟨31, 1, .w1csat, 0⟩], .plain⟩,
   ⟨0x1C, [], 32, [⟨0, 31, .ro, 0⟩, ⟨31, 1, .w1csat, 0⟩], .plain⟩,
   ⟨0x18, [], 32, [⟨0, 4, .ro, 0⟩, ⟨4, 4, .ro, 0⟩], .plain⟩,
   ⟨0x20, [], 32, [⟨0, 4, .wo, 0⟩, ⟨4, 5, .wo, 0⟩, ⟨9, 3, .wo, 0⟩, ⟨12, 1, .wo, 0⟩], .plain⟩,
   ⟨0x24, [], 32, [⟨0, 1, .ro, 0⟩, ⟨1, 2, .ro, 0⟩, ⟨3, 5, .ro, 0⟩, ⟨8, 1, .ro, 0⟩, ⟨12, 17, .ro, 0⟩], .plain⟩,
   ⟨0x28, [], 64, [⟨0, 40, .rw, 0⟩], .plain⟩,
   ⟨0x30, [], 32, [⟨0, 20, .ro, 0⟩], .plain⟩,
   ⟨0x34, [], 32, [⟨0, 1, .w1s, 0⟩, ⟨1, 3, .rw, 0⟩, ⟨4, 1, .rw, 0⟩, ⟨5, 1, .rw, 0⟩, ⟨8, 1, .w1c, 0⟩, ⟨9, 1, .w1c, 0⟩], .plain⟩] ++
  [⟨0x38, [], 64, [⟨0, 4, .ro, 0⟩, ⟨4, 4, .ro, 0⟩, ⟨8, 4, .ro, 0⟩, ⟨12, 4, .ro, 0⟩, ⟨16, 4, .ro, 0⟩, ⟨20, 4, .ro, 0⟩, ⟨24, 4, .ro, 0⟩, ⟨28, 4, .ro, 0⟩, ⟨32, 4, .ro, 0⟩, ⟨36, 4, .ro, 0⟩], .plain⟩,
   ⟨0x100, [(0x8, 32)], 64, [⟨0, 1, .ro, 0⟩, ⟨1, 1, .ro, 0⟩, ⟨2, 1, .ro, 0⟩, ⟨3, 3, .ro, 0⟩, ⟨6, 3, .ro, 0⟩, ⟨16, 8, .ro, 0⟩, ⟨24, 19, .ro, 0⟩, ⟨48, 16, .ro, 0⟩], .plain⟩,
   ⟨0x200, [(0x10, 10)], 32, [⟨0, 20, .ro, 0⟩], .plain⟩,
   ⟨0x204, [(0x10, 10)], 32, [⟨0, 20, .ro, 0⟩, ⟨20, 1, .ro, 0⟩], .plain⟩,
   ⟨0x208, [(0x10, 10)], 32, [⟨0, 20, .rw, 0⟩], .plain⟩,
   ⟨0x20C, [(0x10, 10)], 32, [⟨0, 20, .ro, 0⟩], .tlSlack⟩]

/-- The registers of block IMG, by offset from its base (R105). -/
def regRowsIMG : List RegRow :=
  [⟨0x0, [], 32, [⟨0, 1, .wo, 0⟩], .plain⟩,
   ⟨0x4, [], 32, [⟨0, 1, .ro, 0⟩, ⟨1, 3, .ro, 0⟩, ⟨4, 1, .w1c, 0⟩], .plain⟩,
   ⟨0x8, [], 64, [⟨0, 40, .rw, 0⟩], .plain⟩,
   ⟨0x10, [], 64, [⟨0, 64, .ro, 0⟩], .plain⟩,
   ⟨0x18, [], 64, [⟨0, 64, .ro, 0⟩], .plain⟩,
   ⟨0x20, [], 32, [⟨0, 31, .ro, 0⟩, ⟨31, 1, .w1csat, 0⟩], .plain⟩,
   ⟨0x24, [], 32, [⟨0, 31, .ro, 0⟩, ⟨31, 1, .w1csat, 0⟩], .plain⟩,
   ⟨0x28, [], 32, [⟨0, 17, .ro, 0⟩, ⟨17, 5, .ro, 0⟩], .plain⟩,
   ⟨0x1000, [(0x4, 256)], 32, [⟨0, 8, .rw, 0⟩, ⟨8, 8, .rw, 0⟩, ⟨16, 8, .rw, 0⟩, ⟨24, 8, .rw, 0⟩], .plain⟩]

/-- The registers of block LNT, by offset from its base (R204). -/
def regRowsLNT : List RegRow :=
  [⟨0x0, [], 32, [⟨0, 4, .ro, 0⟩, ⟨4, 1, .ro, 0⟩, ⟨8, 1, .w1c, 0⟩, ⟨9, 1, .w1c, 0⟩], .plain⟩,
   ⟨0x4, [], 32, [⟨0, 31, .ro, 0⟩, ⟨31, 1, .w1csat, 0⟩], .plain⟩,
   ⟨0x8, [], 32, [⟨0, 5, .ro, 0⟩, ⟨5, 4, .ro, 0⟩, ⟨9, 15, .ro, 0⟩, ⟨24, 2, .ro, 0⟩], .plain⟩,
   ⟨0x10, [], 64, [⟨0, 64, .ro, 0⟩], .plain⟩,
   ⟨0x18, [], 32, [⟨0, 4, .ro, 0⟩, ⟨4, 12, .ro, 0⟩, ⟨16, 5, .ro, 0⟩, ⟨31, 1, .w1c, 0⟩], .plain⟩,
   ⟨0x1C, [], 32, [⟨0, 20, .ro, 0⟩, ⟨20, 2, .ro, 0⟩, ⟨31, 1, .w1c, 0⟩], .plain⟩,
   ⟨0x20, [], 32, [⟨0, 31, .ro, 0⟩, ⟨31, 1, .w1csat, 0⟩], .plain⟩,
   ⟨0x24, [], 32, [⟨0, 14, .ro, 0⟩], .plain⟩]

/-- The registers of block FRC, by offset from its base (R205). -/
def regRowsFRC : List RegRow :=
  [⟨0x0, [], 32, [⟨0, 1, .rw, 0⟩], .plain⟩,
   ⟨0x4, [], 32, [⟨0, 13, .ro, 0⟩, ⟨13, 1, .w1c, 0⟩, ⟨14, 3, .ro, 0⟩, ⟨17, 12, .ro, 0⟩], .plain⟩,
   ⟨0x8000, [(0x8, 4096)], 64, [⟨0, 17, .rw, 0⟩, ⟨17, 1, .rw, 0⟩, ⟨18, 1, .rw, 0⟩, ⟨19, 1, .ro, 0⟩, ⟨20, 8, .ro, 0⟩, ⟨32, 32, .rw, 0⟩], .plain⟩]

/-- The registers of block RIO, by offset from its base (R206). -/
def regRowsRIO : List RegRow :=
  [⟨0x0, [], 32, [⟨0, 1, .rw, 0⟩], .plain⟩,
   ⟨0x4, [], 32, [⟨0, 1, .w1c, 0⟩, ⟨1, 11, .ro, 0⟩], .plain⟩,
   ⟨0x8, [], 64, [⟨0, 11, .ro, 0⟩, ⟨16, 11, .ro, 0⟩, ⟨32, 11, .ro, 0⟩, ⟨48, 11, .ro, 0⟩], .plain⟩,
   ⟨0x4000, [(0x20, 1536)], 64, [⟨0, 1, .rw, 0⟩, ⟨1, 1, .rw, 0⟩, ⟨2, 3, .rw, 0⟩, ⟨5, 8, .rw, 0⟩, ⟨13, 8, .rw, 0⟩, ⟨21, 3, .rw, 0⟩, ⟨24, 3, .rw, 0⟩, ⟨27, 1, .rw, 0⟩, ⟨28, 8, .rw, 0⟩], .plain⟩,
   ⟨0x4008, [(0x20, 1536)], 64, [⟨0, 17, .rw, 0⟩, ⟨17, 11, .rw, 0⟩, ⟨28, 17, .rw, 0⟩, ⟨45, 11, .rw, 0⟩], .plain⟩,
   ⟨0x4010, [(0x20, 1536)], 64, [⟨0, 3, .ro, 0⟩, ⟨3, 8, .ro, 0⟩, ⟨11, 8, .ro, 0⟩, ⟨32, 32, .ro, 0⟩], .plain⟩,
   ⟨0x4018, [(0x20, 1536)], 32, [⟨0, 31, .ro, 0⟩, ⟨31, 1, .w1csat, 0⟩], .plain⟩]

/-- The registers of block LPE, by offset from its base (R241). -/
def regRowsLPE : List RegRow :=
  [⟨0x0, [], 32, [⟨0, 1, .rw, 0⟩, ⟨1, 1, .rw, 0⟩], .plain⟩,
   ⟨0x4, [], 32, [⟨0, 4, .ro, 0⟩, ⟨4, 1, .w1c, 0⟩, ⟨5, 1, .w1c, 0⟩, ⟨6, 1, .ro, 0⟩, ⟨7, 1, .w1c, 0⟩], .plain⟩,
   ⟨0x8, [], 32, [⟨0, 31, .ro, 0⟩, ⟨31, 1, .w1csat, 0⟩], .plain⟩,
   ⟨0x20, [], 32, [⟨0, 31, .ro, 0⟩, ⟨31, 1, .w1csat, 0⟩], .plain⟩,
   ⟨0x24, [], 32, [⟨0, 31, .ro, 0⟩, ⟨31, 1, .w1csat, 0⟩], .plain⟩,
   ⟨0xC, [], 32, [⟨0, 13, .ro, 0⟩, ⟨13, 14, .ro, 0⟩, ⟨27, 2, .ro, 0⟩], .plain⟩,
   ⟨0x10, [], 64, [⟨0, 64, .ro, 0⟩], .plain⟩,
   ⟨0x18, [], 32, [⟨0, 14, .ro, 0⟩, ⟨16, 14, .ro, 0⟩], .plain⟩,
   ⟨0x1C, [], 32, [⟨0, 20, .ro, 0⟩, ⟨20, 1, .ro, 0⟩, ⟨31, 1, .w1c, 0⟩], .plain⟩,
   ⟨0x40, [], 32, [⟨0, 13, .rw, 0⟩, ⟨13, 2, .rw, 3⟩, ⟨15, 1, .rw, 0⟩, ⟨16, 7, .rw, 0⟩, ⟨23, 1, .rw, 0⟩, ⟨31, 1, .wo, 0⟩], .plain⟩,
   ⟨0x44, [(0x4, 7)], 32, [⟨0, 32, .rw, 0⟩], .plain⟩,
   ⟨0x100, [(0x20, 4)], 32, [⟨0, 13, .rw, 0⟩, ⟨13, 1, .rw, 0⟩, ⟨14, 2, .rw, 0⟩, ⟨16, 1, .w1s, 0⟩, ⟨17, 1, .ro, 0⟩, ⟨18, 1, .w1c, 0⟩, ⟨19, 1, .wo, 0⟩, ⟨20, 1, .rw, 0⟩, ⟨21, 8, .rw, 0⟩], .plain⟩] ++
  [⟨0x104, [(0x20, 4)], 32, [⟨0, 16, .rw, 0⟩, ⟨16, 8, .rw, 1⟩], .plain⟩,
   ⟨0x108, [(0x20, 4)], 32, [⟨0, 32, .rw, 0⟩], .plain⟩,
   ⟨0x10C, [(0x20, 4)], 32, [⟨0, 32, .rw, 0⟩], .plain⟩,
   ⟨0x110, [(0x20, 4)], 32, [⟨0, 32, .rw, 0⟩], .plain⟩,
   ⟨0x114, [(0x20, 4)], 32, [⟨0, 15, .rw, 1⟩], .plain⟩,
   ⟨0x118, [(0x20, 4)], 32, [⟨0, 32, .ro, 0⟩], .plain⟩,
   ⟨0x200, [(0x10, 4)], 32, [⟨0, 13, .rw, 0⟩, ⟨13, 1, .w1s, 0⟩, ⟨14, 1, .ro, 0⟩, ⟨15, 1, .w1c, 0⟩, ⟨16, 2, .rw, 0⟩, ⟨18, 8, .rw, 0⟩, ⟨26, 2, .rw, 0⟩], .plain⟩,
   ⟨0x204, [(0x10, 4)], 32, [⟨0, 12, .rw, 0⟩], .plain⟩,
   ⟨0x208, [(0x10, 4)], 32, [⟨0, 32, .rw, 0⟩], .plain⟩,
   ⟨0x20C, [(0x10, 4)], 32, [⟨0, 13, .ro, 0⟩, ⟨16, 12, .ro, 0⟩], .plain⟩,
   ⟨0x280, [], 32, [⟨0, 2, .rw, 0⟩], .plain⟩]

/-- The registers of block DPE, by offset from its base (R277). -/
def regRowsDPE : List RegRow :=
  [⟨0x0, [], 32, [⟨0, 1, .rw, 0⟩, ⟨1, 1, .rw, 0⟩, ⟨2, 1, .rw, 1⟩, ⟨3, 1, .rw, 0⟩, ⟨4, 1, .rw, 0⟩], .plain⟩,
   ⟨0x4, [], 32, [⟨0, 4, .wo, 0⟩], .plain⟩,
   ⟨0x8, [], 32, [⟨0, 3, .ro, 0⟩, ⟨3, 1, .ro, 0⟩, ⟨4, 1, .ro, 0⟩, ⟨5, 1, .ro, 0⟩, ⟨6, 1, .ro, 0⟩, ⟨7, 1, .ro, 0⟩, ⟨8, 1, .w1c, 0⟩, ⟨9, 1, .w1c, 0⟩, ⟨10, 1, .w1c, 0⟩, ⟨11, 1, .w1c, 0⟩], .plain⟩,
   ⟨0xC, [], 32, [⟨0, 2, .ro, 0⟩, ⟨2, 4, .ro, 0⟩, ⟨8, 24, .ro, 0⟩], .plain⟩,
   ⟨0x10, [], 64, [⟨0, 40, .rw, 0⟩], .plain⟩,
   ⟨0x18, [], 32, [⟨0, 16, .rw, 1000⟩, ⟨16, 16, .rw, 0⟩], .plain⟩,
   ⟨0x1C, [], 32, [⟨0, 16, .rw, 1000⟩, ⟨16, 16, .rw, 1000⟩], .plain⟩,
   ⟨0x20, [], 32, [⟨0, 32, .ro, 0⟩], .plain⟩,
   ⟨0x24, [], 32, [⟨0, 32, .ro, 0⟩], .plain⟩,
   ⟨0x28, [], 32, [⟨0, 32, .ro, 0⟩], .plain⟩,
   ⟨0x2C, [], 32, [⟨0, 16, .ro, 0⟩], .plain⟩,
   ⟨0x30, [], 64, [⟨0, 64, .ro, 0⟩], .plain⟩] ++
  [⟨0x38, [], 64, [⟨0, 64, .ro, 0⟩], .plain⟩,
   ⟨0x40, [], 64, [⟨0, 64, .ro, 0⟩], .plain⟩,
   ⟨0x48, [], 32, [⟨0, 32, .ro, 0⟩], .plain⟩,
   ⟨0x4C, [], 32, [⟨0, 32, .ro, 0⟩], .plain⟩,
   ⟨0x50, [], 32, [⟨0, 4, .ro, 0⟩, ⟨4, 14, .ro, 0⟩], .plain⟩,
   ⟨0x54, [], 32, [⟨0, 23, .ro, 0⟩, ⟨23, 1, .ro, 0⟩, ⟨31, 1, .w1c, 0⟩], .plain⟩,
   ⟨0x60, [], 32, [⟨0, 31, .ro, 0⟩, ⟨31, 1, .w1csat, 0⟩], .plain⟩,
   ⟨0x64, [], 32, [⟨0, 31, .ro, 0⟩, ⟨31, 1, .w1csat, 0⟩], .plain⟩,
   ⟨0x68, [], 32, [⟨0, 31, .ro, 0⟩, ⟨31, 1, .w1csat, 0⟩], .plain⟩,
   ⟨0x6C, [], 32, [⟨0, 31, .ro, 0⟩, ⟨31, 1, .w1csat, 0⟩], .plain⟩,
   ⟨0x70, [], 32, [⟨0, 31, .ro, 0⟩, ⟨31, 1, .w1csat, 0⟩], .plain⟩,
   ⟨0x74, [], 32, [⟨0, 31, .ro, 0⟩, ⟨31, 1, .w1csat, 0⟩], .plain⟩]

/-- The registers of block MTR, by offset from its base (R307). -/
def regRowsMTR : List RegRow :=
  [⟨0x0, [], 32, [⟨0, 1, .rw, 0⟩, ⟨1, 1, .w1s, 0⟩, ⟨2, 1, .rw, 0⟩, ⟨8, 8, .rw, 10⟩], .plain⟩,
   ⟨0x4, [], 32, [⟨0, 1, .ro, 0⟩, ⟨1, 1, .w1c, 0⟩, ⟨2, 1, .w1c, 0⟩], .plain⟩,
   ⟨0x8, [], 64, [⟨0, 32, .wo, 0⟩, ⟨32, 1, .wo, 0⟩], .plain⟩,
   ⟨0x10, [], 32, [⟨0, 32, .w1c, 0⟩], .plain⟩,
   ⟨0x14, [], 32, [⟨0, 31, .ro, 0⟩, ⟨31, 1, .w1csat, 0⟩], .plain⟩,
   ⟨0x18, [], 32, [⟨0, 16, .ro, 0⟩], .plain⟩,
   ⟨0x1C, [], 32, [⟨0, 5, .rw, 0⟩], .plain⟩,
   ⟨0x100, [(0x20, 32)], 32, [⟨0, 2, .rw, 0⟩, ⟨2, 3, .rw, 0⟩, ⟨5, 1, .rw, 0⟩, ⟨6, 1, .rw, 0⟩], .plain⟩,
   ⟨0x104, [(0x20, 32)], 32, [⟨0, 32, .rw, 1065353216⟩], .plain⟩,
   ⟨0x108, [(0x20, 32)], 32, [⟨0, 24, .rw, 0⟩], .plain⟩,
   ⟨0x10C, [(0x20, 32)], 32, [⟨0, 24, .rw, 4194304⟩], .plain⟩,
   ⟨0x110, [(0x20, 32)], 32, [⟨0, 14, .rw, 0⟩], .plain⟩] ++
  [⟨0x114, [(0x20, 32)], 32, [⟨0, 32, .ro, 0⟩], .plain⟩,
   ⟨0x118, [(0x20, 32)], 32, [⟨0, 24, .ro, 0⟩], .plain⟩,
   ⟨0x11C, [(0x20, 32)], 32, [⟨0, 24, .ro, 0⟩], .plain⟩,
   ⟨0x600, [(0x20, 8)], 32, [⟨0, 1, .rw, 0⟩, ⟨1, 1, .rw, 0⟩, ⟨2, 2, .rw, 0⟩, ⟨4, 1, .rw, 0⟩, ⟨5, 17, .rw, 0⟩], .plain⟩,
   ⟨0x604, [(0x20, 8)], 32, [⟨0, 17, .ro, 0⟩, ⟨17, 2, .ro, 0⟩, ⟨19, 1, .ro, 0⟩, ⟨20, 1, .ro, 0⟩], .plain⟩,
   ⟨0x608, [(0x20, 8)], 64, [⟨0, 64, .ro, 0⟩], .plain⟩,
   ⟨0x610, [(0x20, 8)], 32, [⟨0, 32, .ro, 0⟩], .plain⟩,
   ⟨0x614, [(0x20, 8)], 32, [⟨0, 16, .ro, 0⟩], .plain⟩,
   ⟨0x800, [(0x4, 32)], 32, [⟨0, 32, .ro, 0⟩], .plain⟩]

/-- The registers of block BIL, by offset from its base (R343). -/
def regRowsBIL : List RegRow :=
  [⟨0x0, [], 32, [⟨0, 1, .rw, 0⟩, ⟨1, 1, .rw, 0⟩], .plain⟩,
   ⟨0x4, [], 32, [⟨0, 1, .ro, 0⟩, ⟨1, 1, .ro, 0⟩, ⟨2, 1, .ro, 0⟩, ⟨3, 1, .ro, 0⟩, ⟨4, 1, .ro, 0⟩, ⟨5, 1, .w1c, 0⟩, ⟨6, 1, .w1c, 0⟩], .plain⟩,
   ⟨0x8, [], 32, [⟨0, 1, .wo, 0⟩, ⟨1, 1, .wo, 0⟩, ⟨2, 1, .wo, 0⟩], .plain⟩,
   ⟨0xC, [], 32, [⟨0, 12, .rw, 900⟩, ⟨12, 12, .rw, 0⟩], .plain⟩,
   ⟨0x10, [], 32, [⟨0, 32, .ro, 0⟩], .plain⟩,
   ⟨0x18, [], 64, [⟨0, 64, .ro, 0⟩], .plain⟩,
   ⟨0x28, [], 64, [⟨0, 64, .ro, 0⟩], .plain⟩,
   ⟨0x38, [], 64, [⟨0, 64, .ro, 0⟩], .plain⟩,
   ⟨0x20, [], 32, [⟨0, 8, .wo, 0⟩, ⟨8, 1, .wo, 0⟩, ⟨9, 1, .wo, 0⟩], .plain⟩,
   ⟨0x24, [], 32, [⟨0, 8, .ro, 0⟩, ⟨8, 1, .ro, 0⟩, ⟨9, 8, .w1c, 0⟩, ⟨17, 1, .w1c, 0⟩], .plain⟩,
   ⟨0x30, [], 32, [⟨0, 2, .ro, 0⟩, ⟨2, 12, .ro, 0⟩], .plain⟩,
   ⟨0x40, [], 32, [⟨0, 2, .ro, 0⟩], .plain⟩] ++
  [⟨0x44, [], 32, [⟨0, 31, .ro, 0⟩, ⟨31, 1, .w1csat, 0⟩], .plain⟩,
   ⟨0x48, [], 32, [⟨0, 31, .ro, 0⟩, ⟨31, 1, .w1csat, 0⟩], .plain⟩,
   ⟨0x4C, [], 32, [⟨0, 31, .ro, 0⟩, ⟨31, 1, .w1csat, 0⟩], .plain⟩,
   ⟨0x100, [(0x10, 16)], 64, [⟨0, 64, .rw, 0⟩], .plain⟩,
   ⟨0x108, [(0x10, 16)], 32, [⟨0, 2, .rw, 0⟩, ⟨2, 1, .rw, 0⟩, ⟨3, 1, .ro, 0⟩], .plain⟩,
   ⟨0xC000, [(0x10, 1024)], 32, [⟨0, 1, .rw, 0⟩, ⟨1, 1, .rw, 0⟩, ⟨2, 1, .rw, 0⟩, ⟨3, 1, .rw, 0⟩, ⟨4, 5, .rw, 0⟩, ⟨9, 8, .rw, 0⟩, ⟨17, 1, .w1c, 0⟩, ⟨18, 1, .w1c, 0⟩, ⟨19, 1, .w1c, 0⟩, ⟨20, 1, .w1c, 0⟩, ⟨21, 1, .w1c, 0⟩], .plain⟩,
   ⟨0xC004, [(0x10, 1024)], 32, [⟨0, 17, .rw, 0⟩], .plain⟩,
   ⟨0xC008, [(0x10, 1024)], 32, [⟨0, 17, .rw, 0⟩], .plain⟩,
   ⟨0xC00C, [(0x10, 1024)], 32, [⟨0, 17, .rw, 0⟩], .plain⟩,
   ⟨0x800, [(0x100, 8), (0x20, 7), (0x8, 4)], 64, [⟨0, 64, .ro, 0⟩], .plain⟩,
   ⟨0x1000, [(0x80, 8), (0x10, 7), (0x4, 4)], 32, [⟨0, 16, .ro, 0⟩], .plain⟩,
   ⟨0x1400, [(0x100, 8), (0x20, 7), (0x8, 4)], 64, [⟨0, 64, .ro, 0⟩], .plain⟩] ++
  [⟨0x14E0, [(0x100, 8)], 64, [⟨0, 64, .ro, 0⟩], .plain⟩,
   ⟨0x1C00, [(0x80, 8), (0x10, 7), (0x4, 4)], 32, [⟨0, 16, .ro, 0⟩], .plain⟩,
   ⟨0x2000, [(0x100, 8), (0x20, 7), (0x8, 4)], 64, [⟨0, 64, .ro, 0⟩], .plain⟩,
   ⟨0x4000, [(0x8, 1024)], 64, [⟨0, 64, .ro, 0⟩], .plain⟩,
   ⟨0x6000, [(0x4, 1024)], 32, [⟨0, 16, .ro, 0⟩], .plain⟩,
   ⟨0x7000, [(0x8, 1024)], 64, [⟨0, 64, .ro, 0⟩], .plain⟩,
   ⟨0x9000, [(0x4, 1024)], 32, [⟨0, 16, .ro, 0⟩], .plain⟩,
   ⟨0xA000, [(0x8, 1024)], 64, [⟨0, 64, .ro, 0⟩], .plain⟩]

/-- The registers of block PLS, by offset from its base (R344). -/
def regRowsPLS : List RegRow :=
  [⟨0x0, [(0x10, 32)], 32, [⟨0, 1, .rw, 0⟩, ⟨1, 1, .rw, 0⟩, ⟨2, 6, .rw, 0⟩], .plain⟩,
   ⟨0x4, [(0x10, 32)], 32, [⟨0, 32, .rw, 1065353216⟩], .plain⟩,
   ⟨0x8, [(0x10, 32)], 64, [⟨0, 64, .ro, 0⟩], .plain⟩,
   ⟨0x400, [(0x20, 8)], 32, [⟨0, 1, .rw, 0⟩, ⟨1, 1, .rw, 0⟩, ⟨2, 3, .rw, 0⟩, ⟨5, 3, .rw, 0⟩, ⟨8, 10, .rw, 0⟩, ⟨18, 8, .rw, 1⟩, ⟨26, 1, .rw, 0⟩, ⟨27, 1, .w1c, 0⟩], .plain⟩,
   ⟨0x404, [(0x20, 8)], 32, [⟨0, 32, .rw, 0⟩], .plain⟩,
   ⟨0x408, [(0x20, 8)], 32, [⟨0, 16, .ro, 0⟩], .plain⟩,
   ⟨0x40C, [(0x20, 8)], 32, [⟨0, 32, .ro, 0⟩], .plain⟩]

/-- The registers of block XLT, by offset from its base (R397). -/
def regRowsXLT : List RegRow :=
  [⟨0x0, [], 32, [⟨0, 1, .ro, 0⟩, ⟨1, 1, .w1c, 0⟩, ⟨2, 1, .w1c, 0⟩, ⟨3, 8, .ro, 0⟩], .plain⟩,
   ⟨0x8, [], 64, [⟨0, 27, .wo, 0⟩, ⟨27, 6, .wo, 0⟩, ⟨33, 1, .wo, 0⟩, ⟨34, 1, .wo, 0⟩, ⟨35, 1, .wo, 0⟩], .plain⟩,
   ⟨0x10, [], 32, [⟨0, 32, .ro, 0⟩], .plain⟩,
   ⟨0x100, [(0x8, 64)], 64, [⟨0, 28, .rw, 0⟩, ⟨63, 1, .rw, 0⟩], .plain⟩,
   ⟨0x400, [(0x4, 64)], 32, [⟨0, 6, .rw, 0⟩, ⟨8, 8, .rw, 0⟩], .plain⟩,
   ⟨0x1000, [(0x10, 256)], 64, [⟨0, 27, .rw, 0⟩, ⟨27, 6, .rw, 0⟩, ⟨33, 4, .rw, 0⟩, ⟨37, 1, .rw, 0⟩, ⟨38, 1, .rw, 0⟩, ⟨39, 1, .rw, 0⟩], .plain⟩,
   ⟨0x1008, [(0x10, 256)], 64, [⟨0, 28, .rw, 0⟩], .plain⟩]

/-- The registers of block ACT, by offset from its base (R398). -/
def regRowsACT : List RegRow :=
  [⟨0x0, [], 32, [⟨0, 1, .rw, 0⟩, ⟨1, 1, .w1s, 0⟩], .plain⟩,
   ⟨0x4, [], 32, [⟨0, 1, .w1c, 0⟩], .plain⟩,
   ⟨0x8, [], 32, [⟨0, 4, .rw, 0⟩, ⟨4, 7, .rw, 0⟩, ⟨11, 4, .rw, 0⟩], .plain⟩,
   ⟨0xC, [], 32, [⟨0, 1, .wo, 0⟩, ⟨1, 1, .wo, 0⟩], .plain⟩,
   ⟨0x10, [], 64, [⟨0, 1, .rw, 0⟩, ⟨1, 1, .rw, 0⟩, ⟨2, 1, .rw, 0⟩, ⟨3, 1, .rw, 0⟩, ⟨4, 8, .rw, 0⟩, ⟨12, 28, .rw, 0⟩], .plain⟩,
   ⟨0x18, [], 64, [⟨0, 1, .rw, 0⟩, ⟨12, 28, .rw, 0⟩], .plain⟩,
   ⟨0x20, [], 32, [⟨0, 31, .ro, 0⟩, ⟨31, 1, .w1csat, 0⟩], .plain⟩,
   ⟨0x24, [], 32, [⟨0, 4, .ro, 0⟩], .plain⟩,
   ⟨0x100, [(0x10, 16)], 64, [⟨0, 40, .ro, 0⟩, ⟨40, 7, .ro, 0⟩, ⟨47, 8, .ro, 0⟩, ⟨55, 4, .ro, 0⟩, ⟨59, 2, .ro, 0⟩, ⟨61, 3, .ro, 0⟩], .plain⟩,
   ⟨0x108, [(0x10, 16)], 64, [⟨0, 64, .ro, 0⟩], .plain⟩]

/-- The registers of block TND, by offset from its base (R399). -/
def regRowsTND : List RegRow :=
  [⟨0x0, [], 32, [⟨0, 1, .rw, 0⟩], .plain⟩,
   ⟨0x8, [], 64, [⟨0, 64, .w1c, 0⟩], .plain⟩,
   ⟨0x10, [], 32, [⟨0, 31, .ro, 0⟩, ⟨31, 1, .w1csat, 0⟩], .plain⟩,
   ⟨0x14, [], 32, [⟨0, 31, .ro, 0⟩, ⟨31, 1, .w1csat, 0⟩], .plain⟩,
   ⟨0x18, [], 32, [⟨0, 31, .ro, 0⟩, ⟨31, 1, .w1csat, 0⟩], .plain⟩,
   ⟨0x1000, [(0x40, 64)], 32, [⟨0, 1, .rw, 0⟩, ⟨1, 2, .rw, 2⟩, ⟨3, 1, .rw, 0⟩, ⟨4, 8, .rw, 0⟩, ⟨12, 1, .rw, 0⟩], .plain⟩,
   ⟨0x1008, [(0x40, 64)], 64, [⟨0, 64, .rw, 0⟩], .plain⟩,
   ⟨0x1010, [(0x40, 64)], 32, [⟨0, 1, .wo, 0⟩, ⟨1, 1, .wo, 0⟩, ⟨2, 1, .wo, 0⟩], .plain⟩,
   ⟨0x1014, [(0x40, 64)], 32, [⟨0, 3, .ro, 0⟩, ⟨3, 1, .ro, 0⟩, ⟨4, 1, .w1c, 0⟩], .plain⟩,
   ⟨0x1018, [(0x40, 64)], 64, [⟨0, 64, .ro, 0⟩], .plain⟩,
   ⟨0x1020, [(0x40, 64)], 64, [⟨0, 64, .ro, 0⟩], .plain⟩,
   ⟨0x1028, [(0x40, 64)], 32, [⟨0, 24, .ro, 0⟩], .plain⟩] ++
  [⟨0x102C, [(0x40, 64)], 32, [⟨0, 4, .ro, 0⟩, ⟨4, 1, .ro, 0⟩, ⟨5, 1, .ro, 0⟩], .plain⟩,
   ⟨0x1030, [(0x40, 64)], 32, [⟨0, 32, .ro, 0⟩], .plain⟩]

/-- The registers of block MEM, by offset from its base (R400). -/
def regRowsMEM : List RegRow :=
  [⟨0x0, [], 32, [⟨0, 2, .rw, 0⟩, ⟨2, 2, .rw, 0⟩, ⟨4, 1, .rw, 0⟩, ⟨5, 1, .rw, 0⟩, ⟨6, 1, .wo, 0⟩], .plain⟩,
   ⟨0x4, [], 32, [⟨0, 1, .ro, 0⟩, ⟨1, 1, .ro, 0⟩, ⟨2, 1, .ro, 0⟩], .plain⟩,
   ⟨0x8, [], 32, [⟨0, 1, .rw, 1⟩, ⟨1, 1, .rw, 1⟩], .plain⟩,
   ⟨0x10, [], 32, [⟨0, 31, .ro, 0⟩, ⟨31, 1, .w1csat, 0⟩], .plain⟩,
   ⟨0x14, [], 32, [⟨0, 31, .ro, 0⟩, ⟨31, 1, .w1csat, 0⟩], .plain⟩,
   ⟨0x18, [], 32, [⟨0, 31, .ro, 0⟩, ⟨31, 1, .w1csat, 0⟩], .plain⟩,
   ⟨0x1C, [], 32, [⟨0, 31, .ro, 0⟩, ⟨31, 1, .w1csat, 0⟩], .plain⟩,
   ⟨0x20, [], 32, [⟨0, 31, .ro, 0⟩, ⟨31, 1, .w1csat, 0⟩], .plain⟩,
   ⟨0x24, [], 32, [⟨0, 31, .ro, 0⟩, ⟨31, 1, .w1csat, 0⟩], .plain⟩,
   ⟨0x28, [], 32, [⟨0, 31, .ro, 0⟩, ⟨31, 1, .w1csat, 0⟩], .plain⟩,
   ⟨0x40, [], 64, [⟨0, 40, .ro, 0⟩, ⟨40, 2, .ro, 0⟩, ⟨63, 1, .w1c, 0⟩], .plain⟩]

/-- The registers of block PKT, by offset from its base (R438). -/
def regRowsPKT : List RegRow :=
  [⟨0x0, [], 32, [⟨0, 1, .rw, 0⟩], .plain⟩,
   ⟨0x4, [], 32, [⟨0, 1, .w1c, 0⟩, ⟨1, 1, .w1c, 0⟩], .plain⟩,
   ⟨0x8, [], 32, [⟨0, 3, .ro, 0⟩, ⟨3, 11, .ro, 0⟩, ⟨14, 3, .ro, 0⟩], .plain⟩,
   ⟨0xC, [], 32, [⟨0, 6, .rw, 0⟩, ⟨6, 1, .rw, 0⟩], .plain⟩,
   ⟨0x100, [(0x80, 6)], 32, [⟨0, 1, .rw, 0⟩, ⟨1, 12, .rw, 1⟩, ⟨13, 6, .rw, 0⟩, ⟨19, 1, .rw, 1⟩], .plain⟩,
   ⟨0x104, [(0x80, 6)], 32, [⟨0, 1, .ro, 0⟩], .plain⟩,
   ⟨0x108, [(0x80, 6)], 64, [⟨0, 48, .rw, 0⟩], .plain⟩,
   ⟨0x110, [(0x80, 6)], 32, [⟨0, 32, .rw, 0⟩], .plain⟩,
   ⟨0x114, [(0x80, 6)], 32, [⟨0, 6, .rw, 0⟩, ⟨6, 6, .rw, 0⟩, ⟨12, 1, .rw, 0⟩], .plain⟩,
   ⟨0x118, [(0x80, 6)], 64, [⟨0, 64, .rw, 0⟩], .plain⟩,
   ⟨0x120, [(0x80, 6)], 64, [⟨0, 64, .rw, 0⟩], .plain⟩,
   ⟨0x128, [(0x80, 6)], 64, [⟨0, 6, .rw, 0⟩, ⟨8, 6, .rw, 0⟩, ⟨16, 6, .rw, 0⟩, ⟨24, 6, .rw, 0⟩, ⟨32, 6, .rw, 0⟩, ⟨40, 6, .rw, 0⟩, ⟨48, 6, .rw, 0⟩, ⟨56, 6, .rw, 0⟩, ⟨6, 1, .rw, 0⟩, ⟨14, 1, .rw, 0⟩, ⟨22, 1, .rw, 0⟩, ⟨30, 1, .rw, 0⟩, ⟨38, 1, .rw, 0⟩, ⟨46, 1, .rw, 0⟩, ⟨54, 1, .rw, 0⟩, ⟨62, 1, .rw, 0⟩], .plain⟩] ++
  [⟨0x130, [(0x80, 6)], 32, [⟨0, 32, .ro, 0⟩], .plain⟩,
   ⟨0x134, [(0x80, 6)], 32, [⟨0, 32, .ro, 0⟩], .plain⟩,
   ⟨0x148, [(0x80, 6)], 32, [⟨0, 17, .ro, 0⟩], .plain⟩,
   ⟨0x138, [(0x80, 6)], 32, [⟨0, 31, .ro, 0⟩, ⟨31, 1, .w1csat, 0⟩], .plain⟩,
   ⟨0x13C, [(0x80, 6)], 32, [⟨0, 31, .ro, 0⟩, ⟨31, 1, .w1csat, 0⟩], .plain⟩,
   ⟨0x140, [(0x80, 6)], 32, [⟨0, 31, .ro, 0⟩, ⟨31, 1, .w1csat, 0⟩], .plain⟩,
   ⟨0x144, [(0x80, 6)], 32, [⟨0, 31, .ro, 0⟩, ⟨31, 1, .w1csat, 0⟩], .plain⟩,
   ⟨0x800, [(0x20, 16)], 32, [⟨0, 1, .rw, 0⟩, ⟨1, 6, .rw, 0⟩, ⟨7, 6, .rw, 0⟩], .plain⟩,
   ⟨0x808, [(0x20, 16)], 64, [⟨0, 64, .rw, 0⟩], .plain⟩,
   ⟨0x810, [(0x20, 16)], 64, [⟨0, 64, .rw, 0⟩], .plain⟩,
   ⟨0x1000, [(0x20, 256)], 64, [⟨0, 48, .rw, 0⟩, ⟨48, 1, .rw, 0⟩, ⟨49, 12, .rw, 0⟩, ⟨61, 1, .rw, 0⟩], .plain⟩,
   ⟨0x1008, [(0x20, 256)], 64, [⟨0, 16, .rw, 0⟩, ⟨16, 1, .rw, 0⟩, ⟨17, 8, .rw, 0⟩, ⟨25, 1, .rw, 0⟩, ⟨26, 16, .rw, 0⟩, ⟨42, 1, .rw, 0⟩, ⟨43, 6, .rw, 0⟩], .plain⟩] ++
  [⟨0x1010, [(0x20, 256)], 32, [⟨0, 1, .rw, 0⟩, ⟨1, 2, .rw, 0⟩, ⟨3, 6, .rw, 0⟩, ⟨9, 4, .rw, 0⟩, ⟨13, 6, .rw, 0⟩, ⟨19, 8, .rw, 0⟩], .plain⟩,
   ⟨0x1018, [(0x20, 256)], 32, [⟨0, 32, .ro, 0⟩], .plain⟩,
   ⟨0x4000, [(0x20, 1536)], 64, [⟨0, 32, .rw, 0⟩, ⟨32, 16, .rw, 0⟩, ⟨48, 12, .rw, 0⟩, ⟨60, 1, .rw, 0⟩, ⟨61, 1, .rw, 0⟩, ⟨62, 1, .rw, 0⟩], .plain⟩,
   ⟨0x4008, [(0x20, 1536)], 64, [⟨0, 48, .rw, 0⟩], .plain⟩,
   ⟨0x4010, [(0x20, 1536)], 64, [⟨0, 17, .rw, 0⟩, ⟨17, 11, .rw, 0⟩], .plain⟩,
   ⟨0x4018, [(0x20, 1536)], 32, [⟨0, 32, .ro, 0⟩], .plain⟩,
   ⟨0x401C, [(0x20, 1536)], 32, [⟨0, 31, .ro, 0⟩, ⟨31, 1, .w1csat, 0⟩], .plain⟩]

/-- The registers of block MOR, by offset from its base (R439). -/
def regRowsMOR : List RegRow :=
  [⟨0x0, [], 32, [⟨0, 1, .rw, 0⟩], .plain⟩,
   ⟨0x4, [], 32, [⟨0, 17, .ro, 65536⟩, ⟨17, 9, .ro, 0⟩], .plain⟩,
   ⟨0x8, [], 32, [⟨0, 16, .rw, 65535⟩], .plain⟩,
   ⟨0xC, [], 32, [⟨0, 16, .ro, 0⟩, ⟨16, 16, .ro, 0⟩], .plain⟩,
   ⟨0x10, [], 32, [⟨0, 16, .rw, 0⟩, ⟨16, 2, .rw, 0⟩, ⟨31, 1, .wo, 0⟩], .plain⟩,
   ⟨0x14, [], 32, [⟨0, 17, .ro, 0⟩], .plain⟩,
   ⟨0x24, [], 32, [⟨0, 17, .ro, 0⟩], .plain⟩,
   ⟨0x18, [], 32, [⟨0, 31, .ro, 0⟩, ⟨31, 1, .w1csat, 0⟩], .plain⟩,
   ⟨0x1C, [], 32, [⟨0, 31, .ro, 0⟩, ⟨31, 1, .w1csat, 0⟩], .plain⟩,
   ⟨0x20, [], 32, [⟨0, 16, .ro, 0⟩, ⟨16, 3, .ro, 0⟩, ⟨19, 1, .ro, 0⟩, ⟨20, 6, .ro, 0⟩, ⟨31, 1, .w1c, 0⟩], .plain⟩,
   ⟨0x1000, [(0x40, 64)], 32, [⟨0, 1, .rw, 0⟩, ⟨1, 17, .rw, 0⟩, ⟨18, 8, .rw, 0⟩], .plain⟩,
   ⟨0x1004, [(0x40, 64)], 32, [⟨0, 1, .wo, 0⟩], .plain⟩] ++
  [⟨0x1008, [(0x40, 64)], 32, [⟨0, 1, .wo, 0⟩], .plain⟩,
   ⟨0x100C, [(0x40, 64)], 32, [⟨0, 8, .wo, 0⟩, ⟨8, 3, .wo, 0⟩, ⟨11, 1, .wo, 0⟩], .plain⟩,
   ⟨0x1010, [(0x40, 64)], 64, [⟨0, 64, .wo, 0⟩], .plain⟩,
   ⟨0x1018, [(0x40, 64)], 64, [⟨0, 64, .rc, 0⟩], .plain⟩,
   ⟨0x1020, [(0x40, 64)], 32, [⟨0, 17, .ro, 0⟩], .plain⟩,
   ⟨0x1024, [(0x40, 64)], 32, [⟨0, 20, .ro, 0⟩], .plain⟩,
   ⟨0x1028, [(0x40, 64)], 32, [⟨0, 17, .ro, 0⟩], .plain⟩,
   ⟨0x1034, [(0x40, 64)], 32, [⟨0, 1, .ro, 0⟩, ⟨1, 1, .w1c, 0⟩], .plain⟩,
   ⟨0x102C, [(0x40, 64)], 32, [⟨0, 31, .ro, 0⟩, ⟨31, 1, .w1csat, 0⟩], .plain⟩,
   ⟨0x1030, [(0x40, 64)], 32, [⟨0, 31, .ro, 0⟩, ⟨31, 1, .w1csat, 0⟩], .plain⟩]

/-- The registers of block CAN, by offset from its base (R463). -/
def regRowsCAN : List RegRow :=
  [⟨0x0, [], 32, [⟨0, 1, .rw, 0⟩, ⟨1, 2, .rw, 0⟩, ⟨3, 1, .rw, 0⟩, ⟨4, 1, .rw, 0⟩, ⟨8, 8, .rw, 0⟩], .plain⟩,
   ⟨0x4, [], 32, [⟨0, 2, .ro, 0⟩, ⟨2, 1, .w1c, 0⟩, ⟨3, 1, .w1c, 0⟩, ⟨4, 1, .w1c, 0⟩], .plain⟩,
   ⟨0x8, [], 32, [⟨0, 9, .ro, 0⟩, ⟨16, 8, .ro, 0⟩], .plain⟩,
   ⟨0xC, [], 32, [⟨0, 5, .rw, 0⟩, ⟨5, 8, .rw, 62⟩, ⟨13, 7, .rw, 15⟩, ⟨20, 7, .rw, 15⟩], .plain⟩,
   ⟨0x10, [], 32, [⟨0, 5, .rw, 0⟩, ⟨5, 5, .rw, 10⟩, ⟨10, 4, .rw, 3⟩, ⟨14, 4, .rw, 3⟩], .plain⟩,
   ⟨0x14, [], 32, [⟨0, 7, .rw, 0⟩, ⟨7, 1, .rw, 0⟩], .plain⟩,
   ⟨0x18, [], 32, [⟨0, 4, .ro, 0⟩, ⟨4, 4, .ro, 0⟩, ⟨8, 1, .ro, 0⟩, ⟨9, 1, .ro, 0⟩], .plain⟩,
   ⟨0x20, [], 32, [⟨0, 31, .ro, 0⟩, ⟨31, 1, .w1csat, 0⟩], .plain⟩,
   ⟨0x24, [], 32, [⟨0, 31, .ro, 0⟩, ⟨31, 1, .w1csat, 0⟩], .plain⟩,
   ⟨0x28, [], 32, [⟨0, 31, .ro, 0⟩, ⟨31, 1, .w1csat, 0⟩], .plain⟩,
   ⟨0x2C, [], 32, [⟨0, 31, .ro, 0⟩, ⟨31, 1, .w1csat, 0⟩], .plain⟩,
   ⟨0x30, [], 32, [⟨0, 31, .ro, 0⟩, ⟨31, 1, .w1csat, 0⟩], .plain⟩] ++
  [⟨0x34, [], 32, [⟨0, 32, .ro, 0⟩], .plain⟩,
   ⟨0x38, [], 32, [⟨0, 29, .ro, 0⟩, ⟨29, 1, .ro, 0⟩, ⟨30, 1, .ro, 0⟩], .plain⟩,
   ⟨0x3C, [], 32, [⟨0, 2, .ro, 0⟩, ⟨2, 7, .ro, 0⟩], .plain⟩,
   ⟨0x40, [], 32, [⟨0, 29, .rw, 1⟩, ⟨29, 1, .rw, 0⟩, ⟨30, 1, .rw, 0⟩], .plain⟩,
   ⟨0x48, [], 32, [⟨0, 6, .rw, 0⟩, ⟨6, 6, .rw, 0⟩], .plain⟩,
   ⟨0x50, [], 64, [⟨0, 64, .rw, 0⟩], .plain⟩,
   ⟨0x58, [], 64, [⟨0, 64, .rw, 0⟩], .plain⟩,
   ⟨0x60, [], 64, [⟨0, 64, .rw, 0⟩], .plain⟩,
   ⟨0x68, [], 64, [⟨0, 64, .rw, 0⟩], .plain⟩,
   ⟨0x70, [], 64, [⟨0, 64, .rw, 0⟩], .plain⟩,
   ⟨0x100, [(0x8, 16)], 32, [⟨0, 27, .rw, 0⟩, ⟨31, 1, .rw, 0⟩], .plain⟩,
   ⟨0x104, [(0x8, 16)], 32, [⟨0, 27, .rw, 0⟩, ⟨31, 1, .rw, 0⟩], .plain⟩] ++
  [⟨0x180, [(0x4, 4)], 32, [⟨0, 32, .w1c, 0⟩], .plain⟩,
   ⟨0x190, [], 32, [⟨0, 32, .w1c, 0⟩], .plain⟩,
   ⟨0x200, [], 32, [⟨0, 29, .rw, 0⟩, ⟨29, 1, .rw, 0⟩], .plain⟩,
   ⟨0x204, [], 32, [⟨2, 1, .rw, 0⟩, ⟨3, 1, .rw, 0⟩, ⟨4, 1, .rw, 0⟩, ⟨5, 4, .rw, 0⟩, ⟨9, 1, .rw, 0⟩], .plain⟩,
   ⟨0x240, [(0x4, 16)], 32, [⟨0, 32, .rw, 0⟩], .plain⟩,
   ⟨0x280, [], 32, [⟨0, 1, .wo, 0⟩, ⟨1, 1, .wo, 0⟩], .plain⟩,
   ⟨0x284, [], 32, [⟨0, 6, .ro, 0⟩, ⟨6, 1, .w1c, 0⟩, ⟨7, 7, .ro, 0⟩, ⟨14, 1, .w1c, 0⟩], .plain⟩,
   ⟨0x288, [], 32, [⟨0, 32, .ro, 0⟩], .plain⟩,
   ⟨0x1000, [(0x80, 128)], 32, [⟨0, 29, .rw, 0⟩, ⟨29, 1, .rw, 0⟩], .plain⟩,
   ⟨0x1004, [(0x80, 128)], 32, [⟨0, 29, .rw, 0⟩], .plain⟩,
   ⟨0x1008, [(0x80, 128)], 32, [⟨0, 1, .rw, 0⟩, ⟨1, 1, .rw, 0⟩, ⟨2, 1, .rw, 0⟩, ⟨3, 1, .rw, 0⟩, ⟨4, 1, .rw, 0⟩, ⟨5, 4, .rw, 0⟩, ⟨9, 1, .rw, 0⟩, ⟨10, 1, .w1s, 0⟩, ⟨11, 1, .w1s, 0⟩], .plain⟩,
   ⟨0x100C, [(0x80, 128)], 32, [⟨0, 1, .w1c, 0⟩, ⟨1, 1, .w1c, 0⟩, ⟨2, 1, .w1c, 0⟩, ⟨3, 1, .w1c, 0⟩, ⟨4, 1, .w1c, 0⟩, ⟨5, 1, .w1c, 0⟩, ⟨6, 1, .ro, 0⟩, ⟨7, 1, .ro, 0⟩, ⟨8, 4, .ro, 0⟩, ⟨12, 1, .ro, 0⟩, ⟨13, 1, .ro, 0⟩, ⟨14, 1, .ro, 0⟩], .plain⟩] ++
  [⟨0x1010, [(0x80, 128)], 64, [⟨0, 64, .ro, 0⟩], .plain⟩,
   ⟨0x1018, [(0x80, 128)], 32, [⟨0, 1, .rw, 0⟩, ⟨1, 11, .rw, 0⟩, ⟨12, 3, .rw, 0⟩, ⟨15, 11, .rw, 0⟩], .plain⟩,
   ⟨0x101C, [(0x80, 128)], 32, [⟨0, 29, .ro, 0⟩, ⟨29, 1, .ro, 0⟩], .plain⟩,
   ⟨0x1040, [(0x80, 128), (0x4, 16)], 32, [⟨0, 32, .rw, 0⟩], .plain⟩]

/-- The registers of block TIM, by offset from its base (R481). -/
def regRowsTIM : List RegRow :=
  [⟨0x0, [], 32, [⟨0, 1, .rw, 1⟩, ⟨1, 3, .rw, 7⟩], .plain⟩,
   ⟨0x4, [], 32, [⟨0, 2, .ro, 0⟩, ⟨2, 1, .ro, 0⟩, ⟨3, 1, .ro, 0⟩, ⟨4, 1, .w1c, 0⟩, ⟨5, 1, .w1c, 0⟩, ⟨6, 1, .w1c, 0⟩, ⟨7, 1, .w1c, 0⟩, ⟨8, 1, .w1c, 0⟩], .plain⟩,
   ⟨0x8, [], 32, [⟨0, 3, .wo, 0⟩, ⟨3, 1, .wo, 0⟩], .plain⟩,
   ⟨0xC, [], 32, [⟨0, 16, .rw, 4000⟩], .plain⟩,
   ⟨0x10, [], 64, [⟨0, 64, .ro, 0⟩], .plain⟩,
   ⟨0x18, [], 64, [⟨0, 64, .ro, 0⟩], .plain⟩,
   ⟨0x20, [], 64, [⟨0, 64, .ro, 0⟩], .plain⟩,
   ⟨0x28, [], 64, [⟨0, 64, .rw, 0⟩], .plain⟩,
   ⟨0x40, [], 64, [⟨0, 64, .ro, 0⟩], .plain⟩,
   ⟨0x48, [], 64, [⟨0, 64, .ro, 0⟩], .plain⟩,
   ⟨0x30, [], 32, [⟨0, 32, .rw, 0⟩], .plain⟩,
   ⟨0x34, [], 32, [⟨0, 32, .ro, 0⟩], .plain⟩] ++
  [⟨0x38, [], 32, [⟨0, 32, .rw, 0⟩], .plain⟩,
   ⟨0x3C, [], 32, [⟨0, 24, .rw, 0⟩, ⟨31, 1, .wo, 0⟩], .plain⟩,
   ⟨0x58, [], 32, [⟨0, 32, .ro, 0⟩], .plain⟩,
   ⟨0x50, [], 32, [⟨0, 31, .ro, 0⟩, ⟨31, 1, .w1csat, 0⟩], .plain⟩,
   ⟨0x54, [], 32, [⟨0, 31, .ro, 0⟩, ⟨31, 1, .w1csat, 0⟩], .plain⟩,
   ⟨0x100, [(0x4, 6)], 32, [⟨0, 16, .rw, 0⟩, ⟨16, 16, .rw, 0⟩], .plain⟩,
   ⟨0x400, [(0x40, 16)], 32, [⟨0, 1, .w1s, 0⟩, ⟨1, 1, .wo, 0⟩, ⟨2, 1, .rw, 0⟩, ⟨3, 1, .rw, 0⟩, ⟨4, 1, .rw, 0⟩, ⟨5, 4, .rw, 0⟩], .plain⟩,
   ⟨0x404, [(0x40, 16)], 32, [⟨0, 1, .ro, 0⟩, ⟨1, 1, .w1c, 0⟩, ⟨2, 1, .w1c, 0⟩, ⟨3, 1, .ro, 0⟩, ⟨4, 1, .w1c, 0⟩], .plain⟩,
   ⟨0x408, [(0x40, 16)], 64, [⟨0, 64, .rw, 0⟩], .plain⟩,
   ⟨0x410, [(0x40, 16)], 64, [⟨0, 64, .rw, 0⟩], .plain⟩,
   ⟨0x418, [(0x40, 16)], 32, [⟨0, 32, .rw, 0⟩], .plain⟩,
   ⟨0x41C, [(0x40, 16)], 32, [⟨0, 32, .rw, 0⟩], .plain⟩] ++
  [⟨0x420, [(0x40, 16)], 32, [⟨0, 32, .rw, 0⟩], .plain⟩,
   ⟨0x424, [(0x40, 16)], 32, [⟨0, 32, .ro, 0⟩], .plain⟩,
   ⟨0x428, [(0x40, 16)], 64, [⟨0, 64, .ro, 0⟩], .plain⟩]

/-- The registers of block NVM, by offset from its base (R527). -/
def regRowsNVM : List RegRow :=
  [⟨0x0, [], 32, [⟨0, 1, .rw, 1⟩, ⟨8, 8, .rw, 10⟩], .plain⟩,
   ⟨0x4, [], 32, [⟨0, 2, .ro, 0⟩, ⟨2, 1, .ro, 0⟩, ⟨3, 1, .ro, 0⟩, ⟨4, 1, .ro, 0⟩, ⟨5, 1, .ro, 0⟩, ⟨6, 1, .w1c, 0⟩, ⟨7, 1, .w1c, 0⟩, ⟨8, 1, .ro, 0⟩, ⟨9, 1, .ro, 0⟩, ⟨10, 1, .ro, 0⟩], .plain⟩,
   ⟨0x8, [], 64, [⟨0, 40, .rw, 0⟩], .plain⟩,
   ⟨0x10, [], 32, [⟨0, 16, .rw, 0⟩], .plain⟩,
   ⟨0x14, [], 32, [⟨0, 32, .rw, 0⟩], .plain⟩,
   ⟨0x18, [], 32, [⟨0, 13, .rw, 0⟩, ⟨13, 1, .rw, 0⟩, ⟨14, 1, .rw, 0⟩, ⟨31, 1, .wo, 0⟩], .plain⟩,
   ⟨0x1C, [], 32, [⟨0, 32, .ro, 0⟩], .plain⟩,
   ⟨0x20, [], 32, [⟨0, 32, .ro, 0⟩], .plain⟩,
   ⟨0x24, [], 32, [⟨0, 16, .ro, 0⟩, ⟨16, 4, .ro, 0⟩, ⟨31, 1, .w1c, 0⟩], .plain⟩,
   ⟨0x38, [], 64, [⟨0, 40, .rw, 0⟩], .plain⟩,
   ⟨0x40, [], 32, [⟨0, 16, .rw, 0⟩], .plain⟩,
   ⟨0x44, [], 32, [⟨0, 32, .rw, 0⟩], .plain⟩] ++
  [⟨0x48, [], 32, [⟨0, 1, .wo, 0⟩], .plain⟩,
   ⟨0x4C, [], 32, [⟨0, 1, .ro, 0⟩, ⟨1, 2, .ro, 0⟩, ⟨3, 13, .ro, 0⟩], .plain⟩,
   ⟨0x50, [], 32, [⟨0, 32, .ro, 0⟩], .plain⟩,
   ⟨0x28, [], 32, [⟨0, 31, .ro, 0⟩, ⟨31, 1, .w1csat, 0⟩], .plain⟩,
   ⟨0x2C, [], 32, [⟨0, 31, .ro, 0⟩, ⟨31, 1, .w1csat, 0⟩], .plain⟩,
   ⟨0x30, [], 32, [⟨0, 31, .ro, 0⟩, ⟨31, 1, .w1csat, 0⟩], .plain⟩,
   ⟨0x58, [], 32, [⟨0, 9, .ro, 0⟩, ⟨9, 9, .ro, 0⟩], .plain⟩,
   ⟨0x5C, [], 32, [⟨0, 24, .ro, 0⟩], .plain⟩,
   ⟨0x60, [], 32, [⟨0, 24, .ro, 0⟩], .plain⟩,
   ⟨0x64, [], 32, [⟨0, 15, .rw, 0⟩], .plain⟩,
   ⟨0x68, [], 32, [⟨0, 15, .ro, 0⟩], .plain⟩,
   ⟨0x70, [], 32, [⟨0, 8, .rw, 0⟩, ⟨8, 1, .rw, 0⟩, ⟨31, 1, .wo, 0⟩], .plain⟩] ++
  [⟨0x74, [], 32, [⟨0, 10, .rw, 0⟩, ⟨31, 1, .wo, 0⟩], .plain⟩,
   ⟨0x78, [], 32, [⟨0, 4, .wo, 0⟩], .plain⟩,
   ⟨0x80, [], 32, [⟨0, 24, .ro, 0⟩, ⟨31, 1, .w1c, 0⟩], .plain⟩,
   ⟨0x100, [(0x4, 9)], 32, [⟨0, 20, .ro, 0⟩], .plain⟩,
   ⟨0x200, [(0x8, 12)], 64, [⟨0, 64, .ro, 0⟩], .plain⟩]

/-- The registers of block KEY, by offset from its base (R555). -/
def regRowsKEY : List RegRow :=
  [⟨0x0, [], 32, [⟨0, 2, .rw, 0⟩], .plain⟩,
   ⟨0x4, [], 32, [⟨0, 1, .ro, 0⟩, ⟨1, 1, .ro, 0⟩, ⟨2, 1, .ro, 0⟩, ⟨3, 1, .w1c, 0⟩, ⟨4, 1, .ro, 0⟩, ⟨5, 1, .w1c, 0⟩], .plain⟩,
   ⟨0x8, [], 32, [⟨0, 4, .wo, 0⟩, ⟨4, 10, .wo, 0⟩, ⟨14, 10, .wo, 0⟩, ⟨31, 1, .wo, 0⟩], .plain⟩,
   ⟨0x10, [], 64, [⟨0, 8, .rw, 0⟩, ⟨8, 2, .rw, 0⟩, ⟨10, 1, .rw, 0⟩, ⟨11, 1, .rw, 0⟩, ⟨12, 1, .rw, 0⟩, ⟨13, 6, .rw, 0⟩, ⟨19, 8, .rw, 0⟩, ⟨32, 32, .rw, 0⟩], .plain⟩,
   ⟨0x18, [], 64, [⟨0, 40, .rw, 0⟩], .plain⟩,
   ⟨0x20, [], 32, [⟨0, 2, .ro, 0⟩, ⟨2, 4, .ro, 0⟩], .plain⟩,
   ⟨0x24, [], 32, [⟨0, 32, .ro, 0⟩], .plain⟩,
   ⟨0x28, [], 32, [⟨0, 12, .ro, 0⟩, ⟨12, 5, .ro, 0⟩], .plain⟩,
   ⟨0x2C, [], 32, [⟨0, 12, .rw, 245⟩], .plain⟩,
   ⟨0x30, [], 64, [⟨0, 64, .ro, 0⟩], .plain⟩,
   ⟨0x40, [(0x4, 8)], 32, [⟨0, 32, .ro, 0⟩], .plain⟩,
   ⟨0x60, [], 32, [⟨0, 31, .ro, 0⟩, ⟨31, 1, .w1csat, 0⟩], .plain⟩] ++
  [⟨0x64, [], 32, [⟨0, 31, .ro, 0⟩, ⟨31, 1, .w1csat, 0⟩], .plain⟩,
   ⟨0x68, [], 32, [⟨0, 31, .ro, 0⟩, ⟨31, 1, .w1csat, 0⟩], .plain⟩,
   ⟨0x1000, [(0x10, 1024)], 64, [⟨0, 2, .ro, 0⟩, ⟨2, 2, .ro, 0⟩, ⟨4, 10, .ro, 0⟩, ⟨14, 3, .ro, 0⟩, ⟨17, 8, .ro, 0⟩, ⟨25, 8, .ro, 0⟩, ⟨33, 3, .ro, 0⟩], .plain⟩,
   ⟨0x1008, [(0x10, 1024)], 64, [⟨0, 32, .ro, 0⟩, ⟨32, 32, .ro, 0⟩], .plain⟩,
   ⟨0x5000, [(0x20, 8)], 32, [⟨0, 10, .rw, 0⟩], .plain⟩,
   ⟨0x5004, [(0x20, 8)], 32, [⟨0, 1, .ro, 0⟩, ⟨1, 1, .ro, 0⟩, ⟨2, 4, .ro, 0⟩], .plain⟩,
   ⟨0x5008, [(0x20, 8)], 64, [⟨0, 64, .rw, 0⟩], .plain⟩,
   ⟨0x5010, [(0x20, 8)], 32, [⟨0, 1, .wo, 0⟩], .plain⟩,
   ⟨0x5014, [(0x20, 8)], 32, [⟨0, 32, .ro, 0⟩], .plain⟩,
   ⟨0x6000, [(0x4, 64)], 32, [⟨0, 1, .rw, 0⟩, ⟨1, 8, .rw, 0⟩, ⟨9, 8, .rw, 0⟩, ⟨17, 1, .rw, 0⟩], .plain⟩,
   ⟨0x6100, [(0x4, 8)], 32, [⟨0, 32, .wo, 0⟩], .plain⟩,
   ⟨0x6120, [], 32, [⟨0, 6, .wo, 0⟩], .plain⟩]

/-- The registers of block EVT, by offset from its base (R577). -/
def regRowsEVT : List RegRow :=
  [⟨0x0, [], 32, [⟨0, 5, .wo, 0⟩, ⟨31, 1, .wo, 0⟩], .plain⟩,
   ⟨0x4, [], 32, [⟨0, 1, .w1c, 0⟩], .plain⟩,
   ⟨0x100, [(0x4, 32)], 32, [⟨0, 8, .rw, 0⟩], .plain⟩,
   ⟨0x400, [(0x4, 256)], 32, [⟨0, 8, .rw, 0⟩, ⟨8, 1, .rw, 0⟩, ⟨9, 8, .rw, 0⟩, ⟨17, 2, .rw, 0⟩, ⟨19, 1, .rw, 0⟩], .route⟩,
   ⟨0x1000, [(0x1000, 9)], 32, [⟨0, 8, .rc, 0⟩, ⟨8, 1, .rc, 0⟩], .plain⟩,
   ⟨0x1010, [(0x1000, 9), (0x8, 4)], 64, [⟨0, 64, .w1c, 0⟩], .plain⟩]

/-- The registers of block LOG, by offset from its base (R578). -/
def regRowsLOG : List RegRow :=
  [⟨0x0, [], 32, [⟨0, 3, .rw, 3⟩], .plain⟩,
   ⟨0x4, [], 32, [⟨0, 1, .ro, 0⟩, ⟨1, 1, .w1c, 0⟩, ⟨2, 1, .w1c, 0⟩, ⟨3, 1, .ro, 0⟩], .plain⟩,
   ⟨0x8, [], 32, [⟨0, 32, .ro, 0⟩], .plain⟩,
   ⟨0xC, [], 32, [⟨0, 32, .ro, 0⟩], .plain⟩,
   ⟨0x10, [], 32, [⟨0, 10, .ro, 0⟩], .plain⟩,
   ⟨0x18, [], 64, [⟨0, 64, .ro, 0⟩], .plain⟩,
   ⟨0x20, [], 32, [⟨0, 10, .rw, 0⟩], .plain⟩,
   ⟨0x28, [], 64, [⟨0, 40, .rw, 0⟩, ⟨63, 1, .wo, 0⟩], .plain⟩,
   ⟨0x40, [], 64, [⟨0, 64, .rw, 0⟩], .plain⟩,
   ⟨0x48, [], 32, [⟨0, 10, .wo, 0⟩, ⟨10, 3, .wo, 0⟩, ⟨31, 1, .wo, 0⟩], .plain⟩,
   ⟨0x30, [], 32, [⟨0, 31, .ro, 0⟩, ⟨31, 1, .w1csat, 0⟩], .plain⟩,
   ⟨0x34, [], 32, [⟨0, 31, .ro, 0⟩, ⟨31, 1, .w1csat, 0⟩], .plain⟩] ++
  [⟨0x38, [], 32, [⟨0, 31, .ro, 0⟩, ⟨31, 1, .w1csat, 0⟩], .plain⟩,
   ⟨0x2000, [(0x4, 1024)], 32, [⟨0, 8, .rw, 16⟩, ⟨8, 16, .rw, 60⟩], .plain⟩,
   ⟨0x4000, [(0x1000, 8)], 32, [⟨0, 32, .rw, 0⟩], .plain⟩,
   ⟨0x4004, [(0x1000, 8)], 32, [⟨0, 1, .wo, 0⟩], .plain⟩,
   ⟨0x4008, [(0x1000, 8)], 32, [⟨0, 1, .ro, 0⟩, ⟨1, 1, .ro, 0⟩, ⟨2, 2, .ro, 0⟩, ⟨4, 1, .ro, 0⟩], .plain⟩,
   ⟨0x4010, [(0x1000, 8), (0x8, 4)], 64, [⟨0, 64, .ro, 0⟩], .plain⟩]

/-- The registers of block WCH, by offset from its base (R598). -/
def regRowsWCH : List RegRow :=
  [⟨0x0, [], 32, [⟨0, 1, .rw, 0⟩, ⟨1, 2, .rw, 0⟩, ⟨3, 1, .rw, 0⟩], .plain⟩,
   ⟨0x4, [], 32, [⟨0, 2, .wo, 0⟩], .plain⟩,
   ⟨0x8, [], 32, [⟨0, 3, .ro, 0⟩, ⟨3, 1, .ro, 0⟩, ⟨4, 1, .ro, 0⟩, ⟨5, 1, .ro, 0⟩, ⟨6, 1, .w1c, 0⟩, ⟨7, 1, .w1c, 0⟩], .plain⟩,
   ⟨0xC, [], 32, [⟨0, 32, .ro, 0⟩], .plain⟩,
   ⟨0x10, [], 32, [⟨0, 17, .ro, 0⟩], .plain⟩,
   ⟨0x14, [], 32, [⟨0, 16, .rw, 1000⟩], .plain⟩,
   ⟨0x18, [], 64, [⟨0, 40, .rw, 0⟩], .plain⟩,
   ⟨0x20, [], 64, [⟨0, 40, .rw, 0⟩], .plain⟩,
   ⟨0x28, [], 64, [⟨0, 40, .rw, 0⟩], .plain⟩,
   ⟨0x30, [], 64, [⟨0, 40, .rw, 0⟩], .plain⟩,
   ⟨0x38, [], 32, [⟨0, 21, .rw, 0⟩], .plain⟩,
   ⟨0x3C, [], 32, [⟨0, 32, .ro, 0⟩], .plain⟩] ++
  [⟨0x40, [], 32, [⟨0, 22, .ro, 0⟩], .plain⟩,
   ⟨0x48, [], 64, [⟨0, 64, .ro, 0⟩], .plain⟩,
   ⟨0x50, [], 32, [⟨0, 32, .ro, 0⟩], .plain⟩,
   ⟨0x54, [], 32, [⟨0, 32, .ro, 0⟩], .plain⟩,
   ⟨0x58, [], 32, [⟨0, 3, .rw, 0⟩, ⟨3, 6, .rw, 0⟩, ⟨9, 6, .rw, 0⟩], .plain⟩,
   ⟨0x5C, [], 32, [⟨0, 32, .rw, 0⟩], .plain⟩,
   ⟨0x60, [], 32, [⟨0, 32, .rw, 0⟩], .plain⟩,
   ⟨0x64, [], 32, [⟨0, 32, .rw, 0⟩], .plain⟩,
   ⟨0x68, [], 32, [⟨0, 16, .rw, 0⟩, ⟨16, 16, .rw, 0⟩], .plain⟩,
   ⟨0x84, [], 32, [⟨0, 6, .rw, 0⟩], .plain⟩,
   ⟨0x70, [], 32, [⟨0, 31, .ro, 0⟩, ⟨31, 1, .w1csat, 0⟩], .plain⟩,
   ⟨0x74, [], 32, [⟨0, 31, .ro, 0⟩, ⟨31, 1, .w1csat, 0⟩], .plain⟩] ++
  [⟨0x78, [], 32, [⟨0, 31, .ro, 0⟩, ⟨31, 1, .w1csat, 0⟩], .plain⟩,
   ⟨0x7C, [], 32, [⟨0, 31, .ro, 0⟩, ⟨31, 1, .w1csat, 0⟩], .plain⟩,
   ⟨0x80, [], 32, [⟨0, 32, .ro, 0⟩], .plain⟩,
   ⟨0x100, [], 32, [⟨0, 16, .ro, 0⟩, ⟨16, 1, .ro, 0⟩], .plain⟩,
   ⟨0x104, [], 32, [⟨0, 32, .ro, 0⟩], .plain⟩,
   ⟨0x108, [], 32, [⟨0, 17, .ro, 0⟩], .plain⟩]

/-- The registers of block KEEP, by offset from its base (R623). -/
def regRowsKEEP : List RegRow :=
  [⟨0x0, [], 32, [⟨0, 1, .rw, 0⟩, ⟨8, 4, .rw, 3⟩], .plain⟩,
   ⟨0x4, [], 32, [⟨0, 1, .ro, 0⟩, ⟨1, 1, .w1c, 0⟩, ⟨2, 1, .w1c, 0⟩, ⟨3, 1, .ro, 0⟩, ⟨4, 1, .w1c, 0⟩, ⟨5, 1, .w1c, 0⟩], .plain⟩,
   ⟨0x8, [], 32, [⟨0, 3, .wo, 0⟩, ⟨3, 5, .wo, 0⟩], .plain⟩,
   ⟨0xC, [], 32, [⟨0, 5, .ro, 20⟩, ⟨16, 12, .ro, 900⟩], .plain⟩,
   ⟨0x10, [], 32, [⟨0, 32, .ro, 0⟩], .plain⟩,
   ⟨0x14, [], 32, [⟨0, 32, .ro, 0⟩], .plain⟩,
   ⟨0x18, [], 32, [⟨0, 5, .ro, 0⟩, ⟨5, 2, .ro, 0⟩, ⟨7, 1, .ro, 0⟩], .plain⟩,
   ⟨0x1C, [], 32, [⟨0, 20, .ro, 0⟩], .plain⟩,
   ⟨0x20, [], 32, [⟨0, 20, .ro, 0⟩], .plain⟩,
   ⟨0x24, [], 32, [⟨0, 31, .ro, 0⟩, ⟨31, 1, .w1csat, 0⟩], .plain⟩,
   ⟨0x40, [], 32, [⟨0, 32, .ro, 0⟩], .plain⟩,
   ⟨0x44, [], 32, [⟨0, 32, .ro, 0⟩], .plain⟩] ++
  [⟨0x48, [], 32, [⟨0, 32, .ro, 0⟩], .plain⟩,
   ⟨0x4C, [], 32, [⟨0, 32, .ro, 0⟩], .plain⟩,
   ⟨0x50, [], 32, [⟨0, 32, .ro, 0⟩], .plain⟩,
   ⟨0x54, [], 32, [], .plain⟩,
   ⟨0x58, [], 32, [], .plain⟩,
   ⟨0x5C, [], 32, [], .plain⟩,
   ⟨0x100, [(0x20, 20)], 32, [⟨0, 32, .ro, 0⟩], .plain⟩,
   ⟨0x104, [(0x20, 20)], 32, [⟨0, 32, .ro, 0⟩], .plain⟩,
   ⟨0x108, [(0x20, 20)], 32, [⟨0, 32, .ro, 0⟩], .plain⟩,
   ⟨0x10C, [(0x20, 20)], 32, [⟨0, 32, .ro, 0⟩], .plain⟩,
   ⟨0x110, [(0x20, 20)], 32, [⟨0, 32, .ro, 0⟩], .plain⟩,
   ⟨0x114, [(0x20, 20)], 32, [⟨0, 5, .ro, 0⟩], .plain⟩] ++
  [⟨0x118, [(0x20, 20)], 32, [⟨0, 31, .ro, 0⟩, ⟨31, 1, .w1csat, 0⟩], .plain⟩,
   ⟨0x400, [(0x4, 16)], 32, [⟨0, 16, .ro, 0⟩], .plain⟩]

/-- The registers of block SYS, by offset from its base (R650). -/
def regRowsSYS : List RegRow :=
  [⟨0x0, [], 32, [⟨0, 4, .ro, 0⟩, ⟨4, 1, .ro, 0⟩], .plain⟩,
   ⟨0x4, [], 32, [⟨0, 1, .wo, 0⟩, ⟨1, 1, .wo, 0⟩], .plain⟩,
   ⟨0x8, [], 32, [⟨0, 1, .ro, 0⟩, ⟨1, 1, .ro, 0⟩, ⟨2, 1, .ro, 0⟩, ⟨3, 1, .w1c, 0⟩, ⟨4, 1, .w1c, 0⟩], .plain⟩,
   ⟨0xC, [], 32, [⟨0, 1, .ro, 0⟩, ⟨1, 1, .ro, 0⟩, ⟨2, 2, .ro, 0⟩, ⟨4, 1, .ro, 0⟩, ⟨5, 2, .ro, 0⟩, ⟨7, 4, .ro, 0⟩, ⟨11, 4, .ro, 0⟩, ⟨15, 3, .ro, 0⟩], .plain⟩,
   ⟨0x10, [], 32, [⟨0, 32, .ro, 0⟩], .plain⟩,
   ⟨0x14, [], 32, [⟨0, 32, .ro, 0⟩], .plain⟩,
   ⟨0x18, [], 32, [⟨0, 1, .wo, 0⟩, ⟨1, 1, .wo, 0⟩, ⟨2, 1, .wo, 0⟩], .plain⟩,
   ⟨0x20, [], 32, [⟨0, 1, .w1s, 0⟩, ⟨1, 16, .rw, 2000⟩], .plain⟩,
   ⟨0x24, [], 32, [⟨0, 16, .wo, 0⟩], .plain⟩,
   ⟨0x28, [], 32, [⟨0, 31, .ro, 0⟩, ⟨31, 1, .w1csat, 0⟩], .plain⟩,
   ⟨0x30, [], 32, [⟨0, 7, .ro, 1⟩], .plain⟩,
   ⟨0x34, [], 32, [⟨4, 3, .rw, 0⟩], .plain⟩] ++
  [⟨0x38, [], 32, [⟨0, 1, .rw, 0⟩], .plain⟩,
   ⟨0x40, [], 32, [⟨0, 8, .ro, 0⟩], .plain⟩,
   ⟨0x100, [(0x10, 4)], 64, [⟨0, 64, .rw, 18446744073709551615⟩], .plain⟩,
   ⟨0x108, [(0x10, 4)], 32, [⟨0, 1, .rw, 0⟩], .plain⟩,
   ⟨0x180, [], 64, [⟨0, 64, .ro, 0⟩], .plain⟩]

/-- The registers of block GPIO, by offset from its base (R668). -/
def regRowsGPIO : List RegRow :=
  [⟨0x0, [], 32, [⟨0, 16, .rw, 0⟩], .plain⟩,
   ⟨0x4, [], 32, [⟨0, 16, .rw, 0⟩], .plain⟩,
   ⟨0x8, [], 32, [⟨0, 16, .ro, 0⟩], .plain⟩,
   ⟨0xC, [], 32, [⟨0, 16, .wo, 0⟩], .plain⟩,
   ⟨0x10, [], 32, [⟨0, 16, .wo, 0⟩], .plain⟩,
   ⟨0x14, [], 32, [⟨0, 16, .rw, 65535⟩], .plain⟩]

/-- The rows of the block with number `k` of R364, and nothing for a number the table does not list. -/
def blockRows (k : Nat) : List RegRow :=
  if k = 0x00 then regRowsSYS else if k = 0x01 then regRowsKEEP else if k = 0x02 then regRowsEVT
  else if k = 0x03 then regRowsLOG else if k = 0x04 then regRowsFRM else if k = 0x05 then regRowsIMG
  else if k = 0x06 then regRowsFRC else if k = 0x07 then regRowsRIO else if k < 0x10 then regRowsLNT
  else if k < 0x12 then regRowsLPE else if k = 0x12 then regRowsDPE else if k = 0x14 then regRowsMTR
  else if k = 0x15 then regRowsBIL else if k = 0x16 then regRowsPLS else if k = 0x18 then regRowsPKT
  else if k = 0x19 then regRowsMOR else if 0x20 <= k && k < 0x28 then regRowsCAN else if k = 0x28 then regRowsTIM
  else if k = 0x29 then regRowsNVM else if k = 0x2A then regRowsKEY else if k = 0x2B then regRowsWCH
  else if k = 0x2C then regRowsTND else if k = 0x2D then regRowsXLT else if k = 0x2E then regRowsACT
  else if k = 0x2F then regRowsMEM else if k = 0x30 then regRowsGPIO else []

end Sys2Proof.Machine
end

