-- ==== Sys2Proof/Machine/Tab.lean ====
section
/-! DEFINITION. Operations of sparse storage (Tab): look up, put, delete, and the canonical form of a memory. -/

namespace Sys2Proof

/-- The value listed at a key. -/
def Tab.get? {α : Type} : Tab α → Nat → Option α
  | [], _ => none
  | (k, v) :: t, a => if a = k then some v else if a < k then none else Tab.get? t a

/-- The value at a key, `d` where none is listed. -/
def Tab.getD {α : Type} (t : Tab α) (a : Nat) (d : α) : α := (Tab.get? t a).getD d

/-- Lists `v` at key `a`, in order. -/
def Tab.put {α : Type} : Tab α → Nat → α → Tab α
  | [], a, v => [(a, v)]
  | (k, w) :: t, a, v =>
    if a < k then (a, v) :: (k, w) :: t else if a = k then (a, v) :: t else (k, w) :: Tab.put t a v

/-- Lists nothing at key `a`. -/
def Tab.del {α : Type} : Tab α → Nat → Tab α
  | [], _ => []
  | (k, w) :: t, a => if a = k then t else if a < k then (k, w) :: t else (k, w) :: Tab.del t a

/-- Keeps the entries whose key and value satisfy `p`. -/
def Tab.keep {α : Type} (t : Tab α) (p : Nat → α → Bool) : Tab α := t.filter fun e => p e.1 e.2

/-- Changes every listed value. -/
def Tab.mapVal {α : Type} (t : Tab α) (f : Nat → α → α) : Tab α := t.map fun e => (e.1, f e.1 e.2)

/-- The keys rise strictly. -/
def Tab.rising {α : Type} : Tab α → Bool
  | [] => true
  | [_] => true
  | (k, _) :: (l, w) :: t => decide (k < l) && Tab.rising ((l, w) :: t)

/-- The values at `a, a + 1, ..., a + n - 1`. -/
def Tab.range {α : Type} (t : Tab α) (a n : Nat) (d : α) : List α := (List.range n).map fun i => Tab.getD t (a + i) d

/-- Lists consecutive values from key `a`. -/
def Tab.putAll {α : Type} (t : Tab α) (a : Nat) : List α → Tab α
  | [] => t
  | v :: vs => Tab.putAll (Tab.put t a v) (a + 1) vs

end Sys2Proof
end

