-- ==== Sys2Proof/Machine/State.lean ====
section
/-! DEFINITION. The state of the block as plain data. Every field of every register table lives in `Hw.flds`, keyed by
the field's place; a field not listed holds its reset value (RegMap). The records below hold what the rules give the
part beside its registers. -/

namespace Sys2Proof.Machine

/-! ## Fabric, caches and host cores (01, 09) -/

/-- What a transaction returned to its master: data and whether it was an error response (R35, R377). -/
structure Resp where
  err : Bool
  data : List Byte
  deriving DecidableEq, Repr

/-- A 64-bit register half held for a master: the register's address and the half (R7, R8). -/
structure Half where
  addr : Nat
  val : Nat
  deriving DecidableEq, Repr

/-- A transaction with the domain that it was issued with (R29, R354). -/
structure Issued where
  txn : Txn
  dom : Nat
  deriving DecidableEq, Repr

/-- The fabric: isolated ports by island (R35, R37), retired islands and those of them whose port still waits for outstanding
transactions (R38), transactions without a response and transactions that wait for a credit, oldest first (R30), the halves of
R7 and R8 by master, the last response, and the TFREE at which a timeout isolated a port (R628). -/
structure Bus where
  isolated : List Nat
  retired : List Nat
  leaving : List Nat
  outst : List Issued
  stalled : List Issued
  shadow : Tab Half
  held : Tab Half
  resp : Resp
  isoAt : Tab Nat
  deriving DecidableEq, Repr

/-- Exceptions the part's rules make a host core take (R346-R349, R352, R360, R368, R377). -/
inductive HostExc where
  | illegal | misaligned | loadFault | storeFault | fetchFault | loadPage | storePage | fetchPage
  deriving DecidableEq, Repr

/-- A line of a data cache or of the L2: its address, the domain it was filled with, the core that filled or last changed it,
write permission (R356, R357), for every byte that stores have changed in it what the memory below it holds, and the bytes of a
line of ROM or flash as they were filled. General memory is what every master sees (R359). -/
structure Line where
  addr : Nat
  dom : Nat
  core : Nat
  writable : Bool
  under : Tab Byte
  copy : List Byte
  deriving DecidableEq, Repr

/-- A line of an instruction cache: its bytes as they were filled, until the line leaves or a FENCE.I (R359). -/
structure ILine where
  addr : Nat
  dom : Nat
  data : List Byte
  deriving DecidableEq, Repr

/-- A host core as far as it is the part's own: mdomain and the value it last read from a domain CSR (R352), the lines of its
instruction and data caches, oldest first (R355), the last exception the part gave it, its machine timer interrupt (R350). -/
structure Core where
  mdomain : Nat
  csr : Nat
  code : List ILine
  lines : List Line
  exc : Option HostExc
  mtip : Bool
  deriving DecidableEq, Repr

/-- Memory banks that can be switched off (R45, R47): 256 KiB of general SRAM, the point image, the Mooring pool, 128 KiB of a
Lantern's window, 128 bytes of loop memory, one slot each, 256 KiB of the scratch. -/
inductive Bank where
  | sram (i : Nat) | image | pool | lantern (l i : Nat) | slot (m i : Nat) | scratch (i : Nat)
  deriving DecidableEq, Repr

/-- An access-table window as WLO and WHI give it (R369, R398). -/
structure Window where
  wlo : Nat
  whi : Nat
  deriving DecidableEq, Repr

/-- An entry of the IOTLB: address space, virtual page, physical page, rights (R381). -/
structure IotlbEntry where
  asid : Nat
  vpn : Nat
  ppn : Nat
  r : Bool
  w : Bool
  deriving DecidableEq, Repr

/-- An invalidation that waits for its transactions (R381). -/
structure InvReq where
  vpn : Nat
  asid : Nat
  allva : Bool
  allas : Bool
  deriving DecidableEq, Repr

/-- A Tender descriptor (R387). -/
structure TDesc where
  src : Nat
  dst : Nat
  len : Nat
  sq : Bool
  dq : Bool
  sfix : Bool
  dfix : Bool
  doneev : Bool
  begin_ : Bool
  end_ : Bool
  next : Nat
  deriving DecidableEq, Repr

/-- Fault and error kinds of TND.CHn_FINFO (R399). -/
inductive TKindF where
  | none | invalidPte | right | adClear | nopin | violation | uncorrectable | timeout | format
  deriving DecidableEq, Repr

/-- A failed burst that its channel has not yet acted on: kind, side (true: destination), whether the descriptor fetch
failed, virtual address. -/
structure TFail where
  kind : TKindF
  dst : Bool
  dfetch : Bool
  va : Nat
  deriving DecidableEq, Repr

/-- A Tender channel beside its registers: the address of its descriptor, the descriptor once fetched, the offset of its
next granule, a failure not yet acted on (R386-R394), the bytes of a source word that two granules share, and those of a
destination word that wait for the rest of it. -/
structure TChan where
  daddr : Nat
  desc : Option TDesc
  off : Nat
  fail : Option TFail
  rest : List Byte
  part : List Byte
  deriving DecidableEq, Repr

/-! ## Time (12) -/

/-- The clock: BASE, FRAC and TBASE of R467, the slew increment in force, the running slew (R472) and the TFREE of the
last servo write (R470). -/
structure Clock where
  base : Nat
  frac : Nat
  tbase : Nat
  slew : Int
  slewPh : Int
  slewMs : Nat
  slewStart : Nat
  servoAt : Nat
  deriving DecidableEq, Repr

/-- A light character beside its registers: period and pulse to come, whether the pulse is on, TFREE of its rise
(R476-R477). -/
structure LightChar where
  period : Nat
  pulse : Nat
  on : Bool
  rose : Nat
  deriving DecidableEq, Repr

/-! ## Logbook (15) -/

/-- A Logbook record (R562) with the TFREE at which its block presented it. -/
structure LogRec where
  at_ : Nat
  code : Nat
  sev : Nat
  sum : Bool
  master : Nat
  dom : Nat
  param : Nat
  pcyc : Nat
  optime : Nat
  seq : Nat
  tag : BitVec 64
  deriving DecidableEq, Repr

/-- An open rate window of a code: N, close time in TFREE, occurrences, suppressed, master of the last one (R567). -/
structure RateWin where
  n : Nat
  close : Nat
  count : Nat
  supp : Nat
  master : Nat
  deriving DecidableEq, Repr

/-- A reader port's running search: the domain that asked (R572). -/
structure LogSearch where
  dom : Nat
  deriving DecidableEq, Repr

/-- A clear in progress: who asked and the blob's address (R574). -/
structure LogClearReq where
  master : Nat
  dom : Nat
  addr : Nat
  deriving DecidableEq, Repr

/-- The Logbook: records presented and not yet taken, the ring (oldest first, the newest 16,384), open rate windows by
code, records lost since the last LOG_LOST, records not yet in a batch, batches formed, running searches by port, the clear in progress. -/
structure Logbook where
  arriving : List LogRec
  ring : List LogRec
  wins : Tab RateWin
  lost : Nat
  fresh : Nat
  batch : Nat
  search : Tab LogSearch
  clear : Option LogClearReq
  deriving DecidableEq, Repr

/-! ## What records of the store hold whose layout the spec does not give (log entry 14, DESIGN CHOICE) -/

/-- Plan record of the Keeper (R601): VDD_CORE code, steps of the islands, retired islands with their reason (4 HOST), PLANSEQ. -/
structure PlanRec where
  code : Nat
  steps : List Nat
  retired : List (Nat × Nat)
  seq : Nat
  deriving DecidableEq, Repr

/-- Cumulative state of the newest hourly record (R602): readings by island (operating time, D), mV of the newest reading,
the mission profile: hours, seconds above 75 and 105 degrees, sum and number of the hottest seconds, the highest. -/
structure HourRec where
  hist : Tab (List (Nat × Nat))
  mv : Nat
  band : Nat
  above : Nat
  sum : Int
  secs : Nat
  tmax : Int
  deriving DecidableEq, Repr

/-! ## Flash and the record store (13) -/

/-- Whose write request it is, and so what its commit brings (R503, R570, R328, R185, R541, R611, R517, R521). -/
inductive Purpose where
  | host (ticket : Nat) (ie : Bool)
  | logBatch | logEpoch (seq : Nat) | billing | gap | force (k : Nat) (vals : List (Nat × Nat)) | ledger | plan (p : PlanRec) | hour (p : HourRec)
  | keeper | refresh | counter | system
  deriving DecidableEq, Repr

/-- A waiting write request: TYPE, KEY, payload, transaction (0 none), whether it closes its transaction. -/
structure NvmReq where
  typ : Nat
  key : Nat
  payload : List Byte
  tx : Nat
  txLast : Bool
  purpose : Purpose
  deriving DecidableEq, Repr

/-- A committed record (R493); `lost` when its lines no longer decode (R506). -/
structure NvmRec where
  typ : Nat
  key : Nat
  seq : Nat
  payload : List Byte
  tx : Nat
  lost : Bool
  deriving DecidableEq, Repr

/-- A group (R495): commit line treated as absent (R490), COMPACT flag, transaction (0 none), TXEND, TXCNT and its records. -/
structure NvmGroup where
  cut : Bool
  compact : Bool
  tx : Nat
  txEnd : Bool
  txCnt : Nat
  recs : List NvmRec
  deriving DecidableEq, Repr

/-- What line 1 of a compaction destination names: source sector, reason, the source's EC (R491). -/
structure NvmDest where
  src : Nat
  reason : Nat
  ec : Nat
  deriving DecidableEq, Repr

/-- A record-store sector (R491, R492): erase count, erase sequence, line 0 present, marks and groups. -/
structure Sector where
  ec : Nat
  esq : Nat
  line0 : Bool
  dest : Option NvmDest
  copied : Bool
  full : Bool
  obsolete : Bool
  groups : List NvmGroup
  deriving DecidableEq, Repr

/-- A compaction under way (R512): source, destination, reason, source page to copy next. -/
structure Compaction where
  src : Nat
  dst : Nat
  reason : Nat
  page : Nat
  deriving DecidableEq, Repr

/-- An erase in progress: a record-store sector or a code sector. -/
inductive EraseOf where
  | store (r : Nat) | code (k : Nat)
  deriving DecidableEq, Repr

/-- Stages of a code refresh (R517). -/
inductive RefreshStage where
  | copying | erasing | programming
  deriving DecidableEq, Repr

/-- A record read under way (R505). -/
structure NvmRead where
  addr : Nat
  typ : Nat
  key : Nat
  deriving DecidableEq, Repr

/-- Values of a power-down commit (R523): retentive entries, mailbox entry, host bytes. -/
structure HeldSave where
  app : List Config.RetEntry
  mail : Option Config.CkMail
  host : List Byte
  deriving DecidableEq, Repr

/-- The record store beside its registers: code-region bytes, sectors, retired sectors, waiting requests in order, the
group being filled on each plane, the payload bytes of the open host transaction's requests, the next transaction number,
transactions not yet whole and those that a reset cut, tickets that ended before an earlier one, the compaction and those asked for, the erase and
the code refresh in progress, the read in progress, cells cleared by spread counter, the host's held window, the held values
captured for a save under way, those the last power-down-complete record names, the host's held window as a power-down commit
has read it (R640), and sectors whose program verify failed and whose records are still to be compacted out (R518). -/
structure Nvm where
  code : Tab Byte
  sectors : Tab Sector
  retired : List Nat
  reqs : List NvmReq
  open_ : Tab (List NvmReq)
  txOpen : List NvmReq
  txNext : Nat
  txPart : List Nat
  txDead : List Nat
  ended : List Nat
  comp : Option Compaction
  want : List (Nat × Nat)
  erase : Option EraseOf
  refresh : Option (Nat × RefreshStage)
  read : Option NvmRead
  cells : Tab Nat
  held : Tab Byte
  saving : Option HeldSave
  save : Option HeldSave
  shut : Option (Tab Byte)
  bad : List Nat
  deriving DecidableEq, Repr

/-! ## The point image (02, 04) -/

/-- A point: value, 16 status bits, age (R15). -/
structure Point where
  val : Word
  st : BitVec 16
  age : Nat
  deriving DecidableEq, Repr

/-- A landing that waits for the snapshot (R60). -/
structure Landing where
  val : Word
  subst : Bool
  clamped : Bool
  deriving DecidableEq, Repr

/-- A layout load in progress (R106): what its read and format checks found, once they have ended. -/
inductive LayoutLoad where
  | reading (addr : Nat)
  | readFailed | invalid
  | read (zones types inits : Tab Nat)
  deriving DecidableEq, Repr

/-- Station writes held for the next F+0 (R201). -/
structure StationWrite where
  n : Nat
  map : Bool
  val : Nat
  deriving DecidableEq, Repr

/-- A force as the table read at F+0 gives it for the frame (R177). -/
structure Force where
  point : Nat
  scope : Nat
  val : Word
  deriving DecidableEq, Repr

/-- The image controller beside its registers: zone words, type codes and initial values of the layout in force; the IN
image; the published OUT image; landings of the next snapshot; points a fault report names; output points that lost
their owner since the last publish; the layout load; station writes held for the next F+0 and a held write of RIO.CTRL.EN;
stations whose period ended at the last F+0; the forces of this frame; the OUT image merged in this frame; points that entered
the layout and that no IN image or publish has shown yet. -/
structure Image where
  zones : Tab Nat
  types : Tab Nat
  inits : Tab Nat
  inp : Tab Point
  out : Tab Point
  land : Tab Landing
  commFail : List Nat
  orphan : List Nat
  load : Option LayoutLoad
  stWrites : List StationWrite
  rioEn : Option Bool
  ends : List Nat
  forces : List Force
  merged : Tab Point
  entered : List Nat
  deriving DecidableEq, Repr

/-! ## Lanterns (03, 04) -/

/-- A task (R160). -/
structure Task where
  entry : Nat
  group : Nat
  period : Nat
  phase : Nat
  deriving DecidableEq, Repr

/-- A declared range of a space (R158). -/
structure SpaceRange where
  base : Nat
  size : Nat
  deriving DecidableEq, Repr

/-- A retentive entry (R167). -/
structure Retain where
  name : Nat
  space : Nat
  off : Nat
  count : Nat
  deriving DecidableEq, Repr

/-- A program as its image gives it (R82, R83, R157-R160, R167): domain, version, code words and block starts, the ranges of
MRK, LW, TMR, CTR, EDG and CONST, constants, tasks, point ranges, lists, retentive entries and defaults, relocation list. -/
structure Program where
  dom : Nat
  version : Nat
  code : List Word
  blocks : List Nat
  spaces : List SpaceRange
  consts : List Word
  tasks : List Task
  ranges : List (Nat × Nat)
  owned : List Nat
  ilk : List Nat
  lsp : List Nat
  lrd : List Nat
  retain : List Retain
  defaults : List Word
  reloc : Option (List Nat)
  wcet : Nat
  deriving DecidableEq, Repr

/-- A placed program: its Lantern and the bank position of its code (R157). -/
structure Placed where
  lnt : Nat
  base : Nat
  prog : Program
  deriving DecidableEq, Repr

/-- An entry of the nesting stack (R125, R127): a bracket with the saved BA and its function, or a conditional block. -/
inductive NsFn where
  | and | or | xor
  deriving DecidableEq, Repr
inductive NsEntry where
  | bracket (ba : Bool) (f : NsFn)
  | block (enb c els : Bool)
  deriving DecidableEq, Repr

/-- An open LOOP: its body's first instruction, COUNT, strides and iteration number LC (R144, R146). -/
structure LoopCtx where
  body : Nat
  count : Nat
  a : Nat
  b : Nat
  lc : Nat
  deriving DecidableEq, Repr

/-- A timer entry (R128). -/
structure Timer where
  et : Nat
  run : Bool
  q : Bool
  inp : Bool
  sat : Bool
  deriving DecidableEq, Repr

/-- A counter entry (R129). -/
structure Counter where
  cv : Nat
  q : Bool
  inp : Bool
  sat : Bool
  deriving DecidableEq, Repr

/-- What a Lantern does in a frame: it waits for its window, runs a task (program, task, whether FIRST reads 1), has
reported END, or was stopped (R162, R188). -/
inductive LntRun where
  | waiting
  | running (prog task : Nat) (first : Bool)
  | ended
  | stopped
  deriving DecidableEq, Repr

/-- The frame controller's timing: the length it gives the frame that has begun, in ns (R50, R53, R54), and how many frames in a
row have passed without their publish (R56). -/
structure FrameClock where
  len : Nat
  missed : Nat
  deriving DecidableEq, Repr

/-- Where a frame stands (R51): no frame runs, F+0 has come, F+40 us, F+850 us. -/
inductive FramePhase where
  | idle | started | open_ | closed
  deriving DecidableEq, Repr

/-- A Lantern (R108, R111): registers, what it does, tasks still due, ticks of this frame, its spaces, staged writes of
OUT (values kept under R113 from earlier frames, values written this frame), ILK by program and point, LSP, the TAS bits staged, the LRD
mirror, the event bits, the tasks that have not run since FIRST was set (program * 16 + task), and the words of the idle program bank. -/
structure Lantern where
  ba : Bool
  wa : Word
  wb : Word
  z : Bool
  n : Bool
  ov : Bool
  enb : Bool
  ns : List NsEntry
  cs : List Nat
  loops : List LoopCtx
  pc : Nat
  doing : LntRun
  due : List (Nat × Nat)
  ticks : Nat
  mrk : Tab Bool
  lw : Tab Word
  tmr : Tab Timer
  ctr : Tab Counter
  edg : Tab Bool
  cst : Tab Word
  outVal : Tab Word
  outNow : Tab Word
  ilk : Tab Word
  lsp : Tab Word
  tasOut : Tab (Bool × Bool)
  tasIlk : Tab (Bool × Bool)
  lrd : Tab Word
  ev : BitVec 256
  first : List Nat
  shadow : Tab Word
  deriving DecidableEq, Repr

/-! ## Loop engines (05) -/

/-- A staged tuning change that waits for F+0 (R224). -/
structure StagedChange where
  slot : Nat
  mode : Nat
  rampSkip : Bool
  mask : Nat
  resetSt : Bool
  words : List Word
  deriving DecidableEq, Repr

/-- An LSP write as a Lantern's commit forwards it: index of R115, value, master and domain (R41). -/
structure LspWrite where
  idx : Nat
  val : Word
  master : Nat
  dom : Nat
  deriving DecidableEq, Repr

/-- An injection generator beside its registers: its start F+0 has come; its event has been raised; phase, increment, PRBS
register and present bit; ABORT written (R226-R228). -/
structure InjGen where
  ready : Bool
  phase : Nat
  inc : Nat
  prbs : Nat
  bit : Bool
  abort : Bool
  deriving DecidableEq, Repr

/-- A captured sample (R229). -/
structure CapSample where
  r : Int
  pv : Int
  e0 : Int
  u : Int
  deriving DecidableEq, Repr

/-- A capture buffer beside its registers: recording since an F+0, its event raised, the samples, oldest first, and the
samples since the trigger sample (R229). -/
structure CapBuf where
  capturing : Bool
  seen : Bool
  samples : List CapSample
  after : Option Nat
  deriving DecidableEq, Repr

/-- A loop engine beside its registers: loop memory by word (slot * 32 + word), due slots not yet computed in this frame,
outputs staged for the merge by point (value, CLAMPED), cycles of R88 computed in this frame, the staged change, LSP writes
of the frame before, generators, captures, slots whose next AUTO computation sets WSP (true: to tgt, RAMPSKIP), whether a write of
0 to INJEN waits for its F+0 (R230), and the tuning words that LOOP_ENABLE gave the slots, keyed as loop memory (R238). -/
structure LoopEngine where
  mem : Tab Word
  left : List Nat
  outs : Tab (Word × Bool)
  cycles : Nat
  staged : Option StagedChange
  lsp : List LspWrite
  inj : Tab InjGen
  cap : Tab CapBuf
  wspNext : Tab Bool
  injStop : Bool
  image : Tab Word
  deriving DecidableEq, Repr

/-! ## Admission (02, 04, 17) -/

/-- The command the admission checker runs (R90): OP, PROG, LNT, ENG and the domain it came from. -/
structure AdmCmd where
  op : Nat
  prog : Nat
  lnt : Nat
  eng : Nat
  dom : Nat
  src : Nat
  deriving DecidableEq, Repr

/-- An entry of the admitted N-1 plan: covered Lantern and where its programs move (R102). -/
structure PlanEntry where
  lnt : Nat
  moves : List (Nat × Placed)
  deriving DecidableEq, Repr

/-- An admitted change that waits for its F+0 (R91): a program placed or replaced (with UNPROVEN), a program removed, slots
started, slots stopped, a plan. -/
inductive Change where
  | place (prog : Nat) (tgt : Placed) (unproven : Bool)
  | revoke (prog : Nat)
  | enable (eng : Nat) (slots : List Nat)
  | disable (eng : Nat) (slots : List Nat)
  | plan (entries : List PlanEntry)
  deriving DecidableEq, Repr

/-- How far a retirement has come (R97, R100): the shadow bank loads, the handover frame is the next, it runs, the state has
been copied. -/
inductive RetStage where
  | loading | fixed | handover | copied
  deriving DecidableEq, Repr

/-- A retirement under way: asked for by the host, of a loop engine, which one, programs with the places they move to, slots
with the slot numbers they take, stage. -/
structure Retirement where
  byHost : Bool
  loop : Bool
  unit : Nat
  moves : List (Nat × Placed)
  slots : List (Nat × Nat)
  stage : RetStage
  deriving DecidableEq, Repr

/-- The frame controller's admission: the command in progress, admitted changes in order, the retirement, the plan. -/
structure Adm where
  cmd : Option AdmCmd
  changes : List Change
  retire : Option Retirement
  plan : List PlanEntry
  deriving DecidableEq, Repr

/-! ## Keys (14) -/

/-- A loaded key register: node, the GEN and domain it was loaded with, the secret (R544). -/
structure KeyReg where
  node : Nat
  gen : Nat
  dom : Nat
  secret : List Byte
  deriving DecidableEq, Repr

/-- A job descriptor (R545). -/
structure KeyDesc where
  op : Nat
  alg : Nat
  slot : Option Nat
  node : Nat
  len : Nat
  src : Nat
  dst : Nat
  aad : Nat
  aadLen : Nat
  tagLen : Nat
  iv : Nat
  tag : Nat
  deriving DecidableEq, Repr

/-- A job an engine has taken: descriptor, key, and the USE node whose new FLOOR it waits for (R547, R550). -/
structure KeyJob where
  desc : KeyDesc
  key : List Byte
  waits : Option Nat
  deriving DecidableEq, Repr

/-- A ledger command in progress with what KEY.CMD, CARG and CADDR named, the value a created node takes, and the transaction of
its PEND records (0 for none). -/
structure KeyCmd where
  op : Nat
  node : Nat
  parent : Nat
  mask : Nat
  kind : Nat
  flags : Nat
  dom : Nat
  count : Nat
  addr : Nat
  val : List Byte
  tx : Nat
  deriving DecidableEq, Repr

/-- A node as its record holds it (R541); `floor` is the FLOOR of its use counter (R550). -/
structure NodeSave where
  kind : Nat
  parent : Nat
  depth : Nat
  mask : Nat
  dom : Nat
  flags : Nat
  gen : Nat
  pgen : Nat
  floor : Nat
  val : List Byte
  deriving DecidableEq, Repr

/-- The key unit beside its registers: values of the nodes (secret, or hash of a PUBKEY node; absent when zeroised), PGEN,
FLOOR, slot values, SVAL words, key registers, jobs by engine, the command in progress, node records committed, the number
of enrolments of a new root, and whether a re-enrolment is due. -/
structure KeyUnit where
  val : Tab (List Byte)
  pgen : Tab Nat
  floor : Tab Nat
  slot : Tab (List Byte)
  reg : Tab KeyReg
  job : Tab KeyJob
  cmd : Option KeyCmd
  saved : Tab NodeSave
  rootNo : Nat
  enrol : Nat
  reenrol : Bool
  deriving DecidableEq, Repr

/-! ## The Keeper (17) -/

/-- A proposal (R615): island, reason, whether the host has accepted it, whether its request was refused. -/
structure Proposal where
  isl : Nat
  reason : Nat
  accepted : Bool
  refused : Bool
  deriving DecidableEq, Repr

/-- The Keeper beside its registers: cumulative state, the committed hourly and plan records, retired islands with their
reason, a raise of VDD_CORE to a code (true: for a re-plan), a re-plan that waits, proposals, the island of the request
outstanding, times of hardware faults by island, highest hourly temperature by sensor, ERRS of past starts with their time,
supplies of the last reading, the payload of the last hourly record of this session; on TFREE, the last step of VDD_CORE and the
last reading of the thermal sensors. -/
structure Keep where
  cum : HourRec
  savedHour : Option HourRec
  savedPlan : Option PlanRec
  retired : List (Nat × Nat)
  raise : Option (Nat × Bool)
  planDue : Bool
  props : List Proposal
  outst : Option Nat
  faults : Tab (List Nat)
  hmax : Tab Int
  starts : List (Nat × Nat)
  supplies : List Nat
  hour : List Byte
  raiseAt : Nat
  tempAt : Nat
  deriving DecidableEq, Repr

/-! ## The Mooring pool and the packet engine (10) -/

/-- A packet on its chain of cells: the cells it still holds or held, its words, the length word first, the words already
popped, and whether it is marked dropped (R421-R429). -/
structure MorPacket where
  cells : List Nat
  words : Nat
  read : Nat
  dropped : Bool
  deriving DecidableEq, Repr

/-- A queue: visible packets, oldest first; open packets by producer; cells its broken links no longer reach (R432). -/
structure MorQueue where
  pkts : List MorPacket
  building : Tab MorPacket
  unreached : List Nat
  deriving DecidableEq, Repr

/-- The pool: queues, the words of the cells (cell * 8 + word), quarantined cells and lost cells. -/
structure Mor where
  queues : Tab MorQueue
  pool : Tab Word64
  quar : List Nat
  lost : List Nat
  deriving DecidableEq, Repr

/-- An accepted datagram that waits for its landing or lands (R411): station, message index, first point, points, whether its
descriptor has been written. -/
structure LandMsg where
  station : Nat
  msg : Nat
  point : Nat
  count : Nat
  started : Bool
  deriving DecidableEq, Repr

/-- The packet engine beside its registers: messages of each landing rule, oldest first; stations whose datagrams each port
still has to build, the first under way; ports whose build under way has failed; output datagrams that wait, by port; the
frame each port sent last, with its FCS; the number of the frame that published last. -/
structure Pkt where
  land : Tab (List LandMsg)
  build : Tab (List Nat)
  bad : List Nat
  outq : Tab (List (List Byte))
  wire : Tab (List Byte)
  fnum : Nat
  deriving DecidableEq, Repr

/-! ## CAN channels (11) -/

/-- What a channel has in arbitration or transmission (R446): SYNC with its frame number, an object, the FIFO head. -/
inductive CanCand where
  | sync (fnum : Nat)
  | obj (m : Nat)
  | fifo
  deriving DecidableEq, Repr

/-- An entry of the transmit FIFO (R448): the frame and its IE. -/
structure FifoEntry where
  frame : CanFrame
  ie : Bool
  deriving DecidableEq, Repr

/-- A landing of a landing object (R458): object, station, message index, first point, points, whether its descriptor has been
written. -/
structure CanLand where
  obj : Nat
  station : Nat
  msg : Nat
  point : Nat
  count : Nat
  started : Bool
  deriving DecidableEq, Repr

/-- A receive object as a write has left it (R443, R447, R457): enabled and receiving, format, identifier, mask, IE, and its
remote I/O words. -/
structure RxObj where
  en : Bool
  ide : Bool
  id : Nat
  mask : Nat
  ie : Bool
  rio : Bool
  station : Nat
  msg : Nat
  poff : Nat
  deriving DecidableEq, Repr

/-- A CAN channel beside its registers: the receive objects written since the start of the frame on the bus, as they were then
(none: no frame is on the bus, R447), what it has in arbitration, FIFO entries, a held cancel of the head, the pending SYNC,
network time of the last start of frame, landings in order, send objects still to be filled by the output chain and those
filled, data words held for objects in arbitration (object, words), the candidate of rate detection and its frames without
error, the frame sent last. -/
structure Can where
  before : Option (Tab RxObj)
  arb : Option CanCand
  fifo : List FifoEntry
  fifoCancel : Bool
  sync : Option Nat
  sof : Nat
  land : List CanLand
  fill : List Nat
  filled : List Nat
  hold : Tab (Tab Nat)
  abdK : Nat
  abdOk : Nat
  wire : Option CanFrame
  deriving DecidableEq, Repr

/-! ## The dispatch engine (06) -/

/-- A section of the loaded problem (R255): type code, flags, descriptor number, scratch offset, bytes. -/
structure DSection where
  typ : Nat
  hostw : Bool
  warm : Bool
  mx : Nat
  off : Nat
  bytes : Nat
  deriving DecidableEq, Repr

/-- The loaded problem: the quantities of its header and its sections. -/
structure DProblem where
  n : Nat
  m : Nat
  nzA : Nat
  nzP : Nat
  nzL : Nat
  supers : Nat
  rowIdx : Nat
  ops : Nat
  secs : List DSection
  deriving DecidableEq, Repr

/-- The loaded program: instruction count, start and cap entry, descriptor table (R254). -/
structure DProgram where
  count : Nat
  start : Nat
  cap : Nat
  vds : List (Nat × Nat)
  deriving DecidableEq, Repr

/-- A mailbox entry (R269, R271): set-points by point with their CLAMPED, validity and information words with the points they
land in. -/
structure DEntry where
  vals : List (Nat × (Word × Bool))
  word : Word
  info : Word
  vpoint : Option Nat
  ipoint : Option Nat
  deriving DecidableEq, Repr

/-- A load in progress: of a program or of a problem, from an address. -/
structure DLoad where
  prog : Bool
  addr : Nat
  deriving DecidableEq, Repr

/-- The dispatch engine beside its registers: code memory by word, program and problem loaded, scratch (bytes not 0), i and
f registers, vector descriptors (base, length), PC, call stack, NANF, whether the factor is valid, whether the cap entry has
been taken, caps in force, a SOLVE received, the load in progress, a clearing in progress, WARMOK and points not GOOD at the
solve's start, the entry being staged, the staged entry, the last landed one, one to land as RESTORED, and WARM sections of a checkpoint
that wait for their problem. -/
structure Dpe where
  code : Tab Word64
  prog : Option DProgram
  prob : Option DProblem
  scratch : Tab Byte
  ir : Tab Word
  fr : Tab Word
  vd : Tab (Nat × Nat)
  pc : Nat
  cst : List Nat
  nanf : Bool
  facOk : Bool
  capTaken : Bool
  icap : Nat
  tcap : Nat
  due : Bool
  load : Option DLoad
  clearing : Bool
  warmAt : Bool
  notGood : Nat
  staging : Option DEntry
  staged : Option DEntry
  landed : Option DEntry
  restore : Option DEntry
  warmIn : List Byte
  deriving DecidableEq, Repr

/-! ## Metering (07) -/

/-- A calibrated sample: number, code, shifted code, code after stage 6, K and PGA in force, overload, tariff in force (R281,
R310). -/
structure Sample where
  no : Nat
  code : Int
  shift : Int
  raw : Int
  k : Word
  pga : Nat
  ovl : Bool
  tar : Nat
  deriving DecidableEq, Repr

/-- Memory of stages 7 and 8 (R281, R285): the last input of the high-pass, its output and the integrator at 2^-16 of a code. -/
structure ChainMem where
  last : Int
  high : Int
  int : Int
  deriving DecidableEq, Repr

/-- The datapath of a channel: calibration words in force, number of its last sample, samples (newest first), memory of its
filters, results of stage 8 (newest first), zero samples still to come, filter memory in error, numbers of the samples at which
calibration words were applied (newest first), harmonic results (R281, R288-R290, R301). -/
structure MtrCh where
  sensor : Nat
  pga : Nat
  hpf : Bool
  en : Bool
  k : Word
  offs : Int
  gain : Nat
  phase : Int
  cnt : Nat
  buf : List Sample
  filt : ChainMem
  shift : Nat
  hist : List Int
  zeros : Option Nat
  dead : Bool
  cals : List Nat
  harm : List Word
  deriving DecidableEq, Repr

/-- A feeder beside its registers (R294, R302, R309): Fn_CFG in force and one that waits for the next sample, the voltage sets by
the first sample they serve (newest first); start of the window and end of the last one in 1/65,536 sample, consecutive qualified
windows, the tracker's last measured frequency in mHz; the last sample of the billing interval before, the sample at which LOCKED
was entered, and the one at which the open interval ended with it. -/
structure MtrFeed where
  cfg : Nat
  next : Option Nat
  sets : List (Nat × Nat)
  start : Nat
  last : Nat
  qual : Nat
  freq : Nat
  ivl : Nat
  locked : Nat
  left : Option Nat
  deriving DecidableEq, Repr

/-- The metering island beside its registers: TFREE at which metering started, number of the newest sample, channels, feeders,
start of the spare channels' window. -/
structure Mtr where
  began : Nat
  num : Nat
  ch : Tab MtrCh
  feed : Tab MtrFeed
  spare : Nat
  deriving DecidableEq, Repr

/-! ## Billing (08) -/

/-- What a save holds (R329): sequence, t, 80-bit values by register index (feeder 0-223, heat 256-1279), pulse-input
counts, accumulators, tariff table (TIME, TAR, VALID) and current tariff. -/
structure BillSave where
  seq : Nat
  t : Nat
  vals : Tab Nat
  pulses : Tab Nat
  accs : Tab Nat
  tsw : List (Nat × Nat × Bool)
  tar : Nat
  deriving DecidableEq, Repr

/-- A save under way (R328): t, feeders not yet captured, whether the heat set is not and whether a frame has started since, what has been
captured, whether its records have been handed to the record store, their transaction, whether a request of it failed. -/
structure SaveRun where
  feeders : List Nat
  heat : Bool
  armed : Bool
  got : BillSave
  written : Bool
  tx : Nat
  failed : Bool
  deriving DecidableEq, Repr

/-- A committed GAP transaction (R332): 80-bit GAP values by register index, network time. -/
structure GapRec where
  vals : Tab Nat
  t : Nat
  deriving DecidableEq, Repr

/-- A pulse output beside its registers: accumulator, whether its pulse is on, TFREE at which the gap after it ends (R340, R341). -/
structure PulseOut where
  acc : Nat
  on : Bool
  gap : Option Nat
  deriving DecidableEq, Repr

/-- The billing registers beside their registers: residues by register index, pulse-input counts at each heat channel's last
update, a heat latch whose frame has started, the save under way, committed saves (newest first), the committed GAP
transaction, counting stopped by a power failure, pulse outputs. -/
structure Bil where
  res : Tab Nat
  base : Tab Nat
  snapArm : Bool
  run : Option SaveRun
  saves : List BillSave
  gap : Option GapRec
  stopped : Bool
  out : Tab PulseOut
  deriving DecidableEq, Repr

/-! ## The Watch (16) -/

/-- PCYC, SEQHI and SEQ of the last message accepted from a sender (R581). -/
structure WSeen where
  pcyc : Nat
  hi : Nat
  seq : Nat
  deriving DecidableEq, Repr

/-- A checkpoint being sent: CKSEQ, bytes of the gap, WARM and Host sections, the Host section's address, offset of the next
segment, CRC register (R591, R592). -/
structure WOut where
  seq : Nat
  gap : Nat
  warm : Nat
  haddr : Nat
  host : Nat
  off : Nat
  crc : Nat
  deriving DecidableEq, Repr

/-- A checkpoint being received: CKSEQ, receive buffer, offset due next, length as the header states it, CRC register, bytes
behind the checkpoint so far (R592). -/
structure WIn where
  seq : Nat
  buf : Nat
  next : Nat
  len : Nat
  crc : Nat
  tail : List Byte
  deriving DecidableEq, Repr

/-- The latest complete checkpoint of a standby: receive buffer, CKSEQ, length, TFREE at completion (R592, R596). -/
structure WCk where
  buf : Nat
  seq : Nat
  len : Nat
  at_ : Nat
  deriving DecidableEq, Repr

/-- How far a SWITCH has come: none, its capture waits, its checkpoint is sent, waits for its CK_ACK, acknowledged (R594). -/
inductive WSwitch where
  | none | capture | sending | waiting | acked
  deriving DecidableEq, Repr

/-- Why a standby queries the witness (R586). -/
inductive WQuery where
  | none | silence | release
  deriving DecidableEq, Repr

/-- A CONFIRM_Q the witness holds: unit, its address and EPOCH, TFREE of its receipt (R582). -/
structure WHeld where
  unit : Nat
  ip : Nat
  epoch : Nat
  at_ : Nat
  deriving DecidableEq, Repr

/-- The Watch beside its registers: SEQ and SEQHI of the next message, last accepted by sender, the message sent last on path
A; lease end, send time of the latest request, whether it waits for an answer, witness address in use, whether the 1 s without
an answer has been reported; a capture due, the transfer out, the transfer in, the complete checkpoint; querying; SWITCH; a
takeover whose first publish is to come (CKSEQ of its checkpoint), and whether its first F+0 is to come too; stopped by a power failure. In the witness: holder, expiry, whether it
grants yet, held query. Times on TFREE: the last message accepted from the peer on each path, the last heartbeat, the start of the
present state, the last segment sent, the last time a checkpoint fell due. -/
structure Wch where
  seq : Nat
  seqhi : Nat
  seen : Tab WSeen
  link : List Byte
  lease : Nat
  reqAt : Nat
  reqOpen : Bool
  wit : Bool
  unreach : Bool
  ckDue : Bool
  out : Option WOut
  inn : Option WIn
  ck : Option WCk
  query : WQuery
  sw : WSwitch
  took : Option (Option Nat)
  fresh : Bool
  stop : Bool
  holder : Option Nat
  expiry : Nat
  grants : Bool
  held : Option WHeld
  heardA : Nat
  heardB : Nat
  hbAt : Nat
  since : Nat
  segAt : Nat
  ckAt : Nat
  deriving DecidableEq, Repr

/-! ## Reset, boot and power failure (18) -/

/-- How far a start has come (R625, R631): islands held in reset, supplies in range, boot stopped, stage 9 reached. -/
inductive BootStage where
  | held | supplied | stopped | up
  deriving DecidableEq, Repr

/-- The boot record (R634): PREF is slot B, TRIAL, TRIES, FLOOR, COLD. -/
structure BootRec where
  pref : Bool
  trial : Bool
  tries : Nat
  floor : Nat
  cold : Bool
  deriving DecidableEq, Repr

/-- The SYS block beside its registers: boot stage; the source whose save runs or has run (7 for a power failure, R638, R642);
TFREE at its start; whether the last frame has ended and the held values are captured; whether a frame has run and RUN has been written in this
session; whether a restart has restored the application; PFI_N is high again; the watchdog has expired since its last kick;
RAISEFLOOR of the running image; where the cores started; the committed boot record; whether a power-down-complete record of
the last session stands; on TFREE, the start of the session, the return of PFI_N, the start of the watchdog's PERIOD, and an assertion
of TAMPER_N whose reset is to come. -/
structure Sys where
  boot : BootStage
  down : Option Nat
  downAt : Nat
  captured : Bool
  ran : Bool
  runSeen : Bool
  restored : Bool
  pfHigh : Bool
  warned : Bool
  raiseFloor : Bool
  entry : Option Nat
  bootRec : BootRec
  pdc : Bool
  startAt : Nat
  pfAt : Nat
  wdAt : Nat
  tamperAt : Option Nat
  deriving DecidableEq, Repr

/-! ## The whole -/

/-- The hardware of the block: everything but the queue of commands and general memory. `free` counts the free values
used (the model's own; log entry 1, DESIGN CHOICE), `l2` is the cache the host cores share (R355), oldest line first, `banks`
lists the memory banks that accesses have woken (R47), `ddrFit` is the size code training found (R362), `awake` lists the islands
whose clocks pre-wake started (R46). -/
structure Hw where
  flds : Tab Nat
  free : Nat
  bus : Bus
  cores : Tab Core
  l2 : List Line
  banks : List Bank
  windows : Tab Window
  iotlb : List IotlbEntry
  inv : Option InvReq
  tch : Tab TChan
  tlast : Tab Nat
  ddrTraining : Bool
  ddrFit : Nat
  clk : Clock
  tp : Tab LightChar
  evtLatch : Tab (BitVec 256)
  evtLoop : Tab (List Nat)
  log : Logbook
  nvm : Nvm
  key : KeyUnit
  debug : Bool
  img : Image
  lnt : Tab Lantern
  progs : Tab Placed
  adm : Adm
  lpe : Tab LoopEngine
  redir : Tab Nat
  keep : Keep
  mor : Mor
  pkt : Pkt
  can : Tab Can
  dpe : Dpe
  mtr : Mtr
  bil : Bil
  wch : Wch
  forceSaved : Tab (List (Nat × Nat))
  phase : FramePhase
  frame : FrameClock
  awake : List Nat
  sys : Sys
  deriving DecidableEq, Repr

/-- The state: the commands that wait, first in first out; general memory (SRAM and DDR4), one cell for each byte that
differs from what an unlisted address reads as; the hardware. -/
structure State where
  pending : List Instr
  mem : List Host.Cell
  hw : Hw
  deriving DecidableEq, Repr

/-- Why a run can stop with a fault. The spec gives every command an effect, so nothing raises one; the constructor
stands for a step that the hardware would not survive and no command of this model reaches it (safe: it claims
nothing). -/
inductive Fault where
  | stuck
  deriving DecidableEq, Repr

/-- Why a command has no meaning in this model. `notModelled` is raised by the dispatch alone, by the mnemonic (safe: the
run stops where the hardware goes on). -/
inductive Refusal where
  | notModelled (mnemonic : String)
  deriving DecidableEq, Repr

/-- The dispatch engine after a restart (R273). -/
def Dpe.reset : Dpe :=
  ⟨[], none, none, [], [], [], [], 0, [], false, false, false, 1000, 1000, false, none, false, false, 0, none, none, none, none, []⟩

/-- The Watch after a reset. -/
def Wch.reset : Wch :=
  ⟨0, 0, [], [], 0, 0, false, false, false, false, none, none, none, .none, .none, none, false, false, none, 0, false, none,
    0, 0, 0, 0, 0, 0⟩

/-- The boot record a part without one reads (R634), and the SYS block after power-on. -/
def BootRec.missing : BootRec := ⟨false, false, 0, 0, false⟩
def Sys.reset : Sys := ⟨.held, none, 0, false, false, false, false, false, false, false, none, BootRec.missing, false, 0, 0, 0, none⟩

/-- The hardware right after power-on reset (R5; log entry 3, DESIGN CHOICE). -/
def Hw.reset : Hw where
  flds := []
  free := 0
  bus := ⟨[], [], [], [], [], [], [], ⟨false, []⟩, []⟩
  cores := []
  l2 := []
  banks := []
  windows := []
  iotlb := []
  inv := none
  tch := []
  tlast := []
  ddrTraining := false
  ddrFit := 0
  clk := ⟨0, 0, 0, 0, 0, 0, 0, 0⟩
  tp := []
  evtLatch := []
  evtLoop := []
  log := ⟨[], [], [], 0, 0, 0, [], none⟩
  nvm := ⟨[], [], [], [], [], [], 1, [], [], [], none, [], none, none, none, [], [], none, none, none, []⟩
  key := ⟨[], [], [], [], [], [], none, [], 0, 0, false⟩
  debug := false
  img := ⟨[], [], [], [], [], [], [], [], none, [], none, [], [], [], []⟩
  lnt := []
  progs := []
  adm := ⟨none, [], none, []⟩
  lpe := []
  redir := []
  keep := ⟨⟨[], 0, 0, 0, 0, 0, 0⟩, none, none, [], none, false, [], none, [], [], [], [], [], 0, 0⟩
  mor := ⟨[], [], [], []⟩
  pkt := ⟨[], [], [], [], [], 0⟩
  can := []
  dpe := Dpe.reset
  mtr := ⟨0, 0, [], [], 0⟩
  bil := ⟨[], [], false, none, [], none, false, []⟩
  wch := Wch.reset
  forceSaved := []
  phase := .idle
  frame := ⟨0, 0⟩
  awake := []
  sys := Sys.reset

/-- The state right after power-on reset. -/
def State.reset : State := ⟨[], [], Hw.reset⟩

end Sys2Proof.Machine
end

