-- ==== Sys2Proof/Machine/Ops.lean ====
section
/-! DEFINITION. The named operations every block shares: fields and counters, free values, network time, events,
Logbook records, access violations, bytes. -/

namespace Sys2Proof.Machine

/-! ## Words and bytes -/

/-- A bit as a number. -/
def b2n (b : Bool) : Nat := if b then 1 else 0

/-- Bits [lo + w - 1 : lo] of a number. -/
def bits (v lo w : Nat) : Nat := (v >>> lo) % 2 ^ w

/-- Bit `i` of a number, as a Bool. -/
def bitOf (v i : Nat) : Bool := v.testBit i

/-- The two's complement reading of the low `w` bits. -/
def toSigned (w v : Nat) : Int := (BitVec.ofNat w v).toInt

/-- The low `w` bits of an integer, two's complement. -/
def ofSigned (w : Nat) (i : Int) : Nat := (BitVec.ofInt w i).toNat

/-- Little-endian bytes of a number (R15). -/
def toBytes : Nat → Nat → List Byte
  | 0, _ => []
  | n + 1, v => BitVec.ofNat 8 v :: toBytes n (v / 256)

/-- The number that little-endian bytes spell. -/
def ofBytes : List Byte → Nat
  | [] => 0
  | b :: bs => b.toNat + 256 * ofBytes bs

/-- Sets bit `i` of a number. -/
def setBit (v i : Nat) (b : Bool) : Nat := if v.testBit i = b then v else if b then v + 2 ^ i else v - 2 ^ i

/-! ## Fields of the registers -/

/-- The key of a field in `Hw.flds`. -/
def Fld.key (f : Fld) : Nat := f.addr * 64 + f.lo

/-- A field's value: what is listed for it, else its reset value (R5). -/
def Hw.fld (h : Hw) (f : Fld) : Nat := Tab.getD h.flds (Fld.key f) f.rst

/-- Writes a field, cut to its width. -/
def Hw.setFld (h : Hw) (f : Fld) (v : Nat) : Hw := { h with flds := Tab.put h.flds (Fld.key f) (v % 2 ^ f.w) }

/-- A one-bit field as a Bool. -/
def Hw.flag (h : Hw) (f : Fld) : Bool := h.fld f != 0

/-- Sets or clears a one-bit field. -/
def Hw.setFlag (h : Hw) (f : Fld) (b : Bool) : Hw := h.setFld f (b2n b)

/-- A class W counter counts `n` (R9). -/
def Hw.countW (h : Hw) (f : Fld) (n : Nat) : Hw := h.setFld f (h.fld f + n)

/-- A signed field. -/
def Hw.sfld (h : Hw) (f : Fld) : Int := toSigned f.w (h.fld f)

/-- Bit `i` of a field that is a bit set. -/
def Hw.fldBit (h : Hw) (f : Fld) (i : Nat) : Bool := (h.fld f).testBit i

/-- Sets bit `i` of a field that is a bit set. -/
def Hw.setFldBit (h : Hw) (f : Fld) (i : Nat) (b : Bool) : Hw := h.setFld f (setBit (h.fld f) i b)

/-! ## Free values -/

/-- The next free value, cut to `w` bits (log entry 1, DESIGN CHOICE). -/
def Hw.freeVal (h : Hw) (w : Nat) : Nat := Config.freeNat h.free % 2 ^ w

/-- One free value has been used. -/
def Hw.useFree (h : Hw) : Hw := { h with free := h.free + 1 }

/-! ## Time -/

/-- TFREE (R466). -/
def Hw.tfree (h : Hw) : Nat := h.fld TIM_TFREE

/-- Time on TFREE since it read `t`, in ns (R466: TFREE wraps). -/
def Hw.elapsed (h : Hw) (t : Nat) : Nat := (h.tfree + 2 ^ 64 - t) % 2 ^ 64

/-- `us` microseconds of TFREE have passed since `t`. -/
def Hw.passed (h : Hw) (t us : Nat) : Bool := decide (us * 1000 ≤ h.elapsed t)

/-- The effective rate RE of R467: RATE plus the slew increment, 0 while network time is not formed (R481). -/
def Hw.rateEff (h : Hw) : Int := if h.flag TIM_CTRL_EN then h.sfld TIM_RATE + h.clk.slew else 0

/-- TFREE - TBASE. -/
def Hw.sinceFold (h : Hw) : Nat := h.elapsed h.clk.tbase

/-- Network time in units of 2^-40 ns since BASE's zero (R467), exact. -/
def Hw.ntFine (h : Hw) : Int :=
  ((h.clk.base : Int) + h.sinceFold) * 2 ^ 40 + h.rateEff * h.sinceFold + h.clk.frac

/-- Network time NT (R467). -/
def Hw.nt (h : Hw) : Nat := (h.ntFine / 2 ^ 40 % 2 ^ 64).toNat

/-- Time `a` is at or after time `b` (R469). -/
def atOrAfter (a b : Nat) : Bool := 0 ≤ toSigned 64 ((a % 2 ^ 64) + 2 ^ 64 - b % 2 ^ 64)

/-! ## Channels of the Tender, as far as a trigger reaches them -/

def TChan.reset : TChan := ⟨0, none, 0, none, [], []⟩
/-- A Tender channel's state beside its registers. -/
def Hw.chan (h : Hw) (n : Nat) : TChan := Tab.getD h.tch n TChan.reset
def Hw.setChan (h : Hw) (n : Nat) (c : TChan) : Hw := { h with tch := Tab.put h.tch n c }

/-- State codes of TND.CHn_STAT.STATE (R399). -/
def chDisabled : Nat := 0
def chIdle : Nat := 1
def chActive : Nat := 2
def chPaused : Nat := 3
def chError : Nat := 4

/-- A channel begins its chain at TND.CHn_DESC (R390). -/
def Hw.chainStart (h : Hw) (n : Nat) : Hw :=
  (h.setFld (TND_CH_STAT_STATE n) chActive).setChan n ⟨h.fld (TND_CH_DESC n) / 32 * 32, none, 0, none, [], []⟩

/-- A trigger of a channel (R390); `alert` raises E203 when the trigger is lost. -/
def Hw.trigger (alert : Hw → Hw) (n : Nat) (h : Hw) : Hw :=
  if h.fld (TND_CH_STAT_STATE n) = chIdle then h.chainStart n
  else if h.fld (TND_CH_STAT_STATE n) = chActive then
    if h.flag (TND_CH_STAT_PEND n) then
      let h := if h.flag TND_TRIGLOST_SAT then h else
        let h := h.countW TND_TRIGLOST_COUNT 1
        if h.fld TND_TRIGLOST_COUNT = 2 ^ 31 - 1 then h.setFlag TND_TRIGLOST_SAT true else h
      alert h
    else h.setFlag (TND_CH_STAT_PEND n) true
  else h

/-! ## Events (R558) -/

/-- The event latch of Lantern `n` (R560). -/
def Hw.latch (h : Hw) (n : Nat) : BitVec 256 := Tab.getD h.evtLatch n 0#256

/-- Pending bit of event `n` in context `c` (R559). -/
def Hw.setPend (h : Hw) (c n : Nat) : Hw := h.setFldBit (EVT_PEND c (n / 64)) (n % 64) true

/-- The channels that event `n` triggers (R390). -/
def Hw.trigBy (h : Hw) (n : Nat) : List Nat :=
  (List.range 64).filter fun c => h.flag (TND_CH_CFG_TRIGEN c) && h.fld (TND_CH_CFG_EVT c) == n

/-- A raised event reaches the receivers that EVT.ROUTEn names; `alert` is what a lost trigger raises. -/
def Hw.route (alert : Hw → Hw) (n : Nat) (h : Hw) : Hw :=
  let h := (List.range 8).foldl (fun h c => if h.fldBit (EVT_ROUTE_CTX n) c then h.setPend c n else h) h
  let h := if h.flag (EVT_ROUTE_KEEP n) then h.setPend 8 n else h
  let h := (List.range 8).foldl (fun h l => if h.fldBit (EVT_ROUTE_LNT n) l then
      { h with evtLatch := Tab.put h.evtLatch l (h.latch l ||| (1#256 <<< n)) } else h) h
  let h := (List.range 2).foldl (fun h m => if h.fldBit (EVT_ROUTE_LPE n) m then
      { h with evtLoop := Tab.put h.evtLoop m (Tab.getD h.evtLoop m [] ++ [n]) } else h) h
  if h.flag (EVT_ROUTE_TND n) then (h.trigBy n).foldl (fun h c => h.trigger alert c) h else h

/-- Event `n` is raised (R558). A trigger that this loses raises E203; one that E203 loses in turn raises no further
E203 in the same step (log entry 5, DESIGN CHOICE). -/
def Hw.raise (h : Hw) (n : Nat) : Hw := h.route (Hw.route id 203) n

/-- A class S counter counts `n` up, sticks at its maximum, and on the count that reaches it sets SAT and raises `ev`,
once (R10). -/
def Hw.countS (h : Hw) (cnt sat : Fld) (ev : Nat) (n : Nat) : Hw :=
  if h.flag sat then h
  else if h.fld cnt + n < 2 ^ cnt.w - 1 then h.setFld cnt (h.fld cnt + n)
  else if n = 0 then h
  else ((h.setFld cnt (2 ^ cnt.w - 1)).setFlag sat true).raise ev

/-! ## Logbook records (R562-R565) -/

/-- Severity of the codes the part writes (R565 and the chapters that name the others). -/
def sevOf (code : Nat) : Nat :=
  match code with
  | 0x000 => 5 | 0x001 => 1 | 0x002 => 3 | 0x003 => 5 | 0x010 => 3
  | 0x020 => 3 | 0x021 => 2 | 0x022 => 3 | 0x023 => 3
  | 0x030 => 1 | 0x031 => 2 | 0x032 => 1
  | 0x038 => 5 | 0x039 => 5 | 0x03A => 5 | 0x03B => 5 | 0x03C => 5 | 0x03D => 5
  | 0x040 => 2 | 0x041 => 2 | 0x042 => 1
  | 0x050 => 1 | 0x051 => 5 | 0x052 => 2 | 0x058 => 0 | 0x059 => 1 | 0x05A => 2 | 0x05B => 3 | 0x05C => 5 | 0x05D => 3
  | 0x060 => 1 | 0x061 => 2 | 0x070 => 3 | 0x080 => 4 | 0x081 => 5
  | 0x0A0 => 1 | 0x0A1 => 1 | 0x0A2 => 3 | 0x0A3 => 2 | 0x0A4 => 2 | 0x0A5 => 2 | 0x0A6 => 3 | 0x0A7 => 3
  | 0x0B0 => 1 | 0x0B1 => 2 | 0x0B2 => 3 | 0x0B4 => 2 | 0x0B5 => 4
  | _ => 0

/-- Places a record behind those presented in earlier cycles and those of the same cycle with no higher MASTER (R563). -/
def LogRec.insert (r : LogRec) : List LogRec → List LogRec
  | [] => [r]
  | q :: qs => if q.at_ = r.at_ ∧ r.master < q.master then r :: q :: qs else q :: LogRec.insert r qs

/-- A block presents a record to the Logbook (R563). -/
def Hw.present (h : Hw) (code sev master dom param : Nat) : Hw :=
  let r : LogRec := ⟨h.tfree, code, sev, false, master, dom, param % 2 ^ 64, 0, 0, 0, 0#64⟩
  { h with log := { h.log with arriving := LogRec.insert r h.log.arriving } }

/-- A record of a code of the part, with the code's severity. -/
def Hw.record (h : Hw) (code master dom param : Nat) : Hw := h.present code (sevOf code) master dom param

/-- A record whose parameter the spec does not state: a free value (log entry 6, DESIGN CHOICE). -/
def Hw.recordFree (h : Hw) (code master dom : Nat) : Hw := (h.record code master dom (h.freeVal 64)).useFree

/-- The master of a record that no transaction originates and whose block has no master number: a free value
(log entry 6, DESIGN CHOICE). -/
def Hw.noMaster (h : Hw) : Nat := h.freeVal 7

/-- A record of a block without a master number whose parameter is not stated either: two free values (log entry 6, DESIGN CHOICE). -/
def Hw.recordOpen (h : Hw) (code : Nat) : Hw := (h.record code h.noMaster 0 (h.useFree.freeVal 64)).useFree.useFree

/-! ## Host cores (R352, R377) -/

def Core.reset : Core := ⟨0, 0, [], [], none, false⟩
def Hw.core (h : Hw) (k : Nat) : Core := Tab.getD h.cores k Core.reset
def Hw.setCore (h : Hw) (k : Nat) (c : Core) : Hw := { h with cores := Tab.put h.cores k c }

/-- A host core takes an exception. -/
def Hw.hostExc (h : Hw) (k : Nat) (e : HostExc) : Hw := h.setCore k { h.core k with exc := some e }

/-- The access-fault exception of the kind of an access (R349, R377). -/
def faultOf : TKind → HostExc
  | .read => .loadFault
  | .write => .storeFault
  | .fetch => .fetchFault

/-! ## Access violations (R372, R377, R378) -/

/-- Causes of ACT.VRECn.CAUSE (R398). -/
inductive Cause where
  | noWindow | right | zone | targetRule | width | unmapped
  deriving DecidableEq, Repr

def Cause.code : Cause → Nat
  | .noWindow => 0 | .right => 1 | .zone => 2 | .targetRule => 3 | .width => 4 | .unmapped => 5

def kindCode : TKind → Nat
  | .read => 0 | .write => 1 | .fetch => 2

/-- A refused transaction is counted, recorded in the ring at ACT.VHEAD and raises E208 (R378). -/
def Hw.recordRefused (h : Hw) (addr master dom target : Nat) (kind : TKind) (cause : Cause) : Hw :=
  let n := h.fld ACT_VHEAD_NEXT
  let h := h.setFld (ACT_VREC_ADDR n) addr
  let h := h.setFld (ACT_VREC_MASTER n) master
  let h := h.setFld (ACT_VREC_DOMAIN n) dom
  let h := h.setFld (ACT_VREC_TARGET n) target
  let h := h.setFld (ACT_VREC_KIND n) (kindCode kind)
  let h := h.setFld (ACT_VREC_CAUSE n) cause.code
  let h := h.setFld (ACT_VREC_TIME n) h.nt
  let h := h.setFld ACT_VHEAD_NEXT (n + 1)
  (h.countS ACT_VCNT_COUNT ACT_VCNT_SAT 210 1).raise 208

/-- A refused transaction gives an error response; a host core takes the access-fault exception of its kind (R377, R378). -/
def Hw.violation (h : Hw) (addr master dom target : Nat) (kind : TKind) (cause : Cause) : Hw :=
  let h := { h with bus := { h.bus with resp := ⟨true, []⟩ } }
  (if master < 4 then h.hostExc master (faultOf kind) else h).recordRefused addr master dom target kind cause

/-- A register write refused by a rule of its block (R372): cause TARGET_RULE at target 8. -/
def Hw.refuseReg (h : Hw) (src : Src) (addr : Nat) : Hw :=
  h.violation addr src.master.val src.dom.toNat 8 .write .targetRule

/-- The write comes from D0. -/
def isD0 (src : Src) : Bool := src.dom == 0#8

/-- The write comes from the Keeper, M4. -/
def isKeeper (src : Src) : Bool := src.master.val == 4

/-- Acts on a command that only D0 may write; from another domain it is an access violation at `addr`. -/
def Hw.onlyD0 (h : Hw) (src : Src) (addr : Nat) (f : Hw → Hw) : Hw := if isD0 src then f h else h.refuseReg src addr

/-- The response of a completed read. -/
def Hw.respond (h : Hw) (d : List Byte) : Hw := { h with bus := { h.bus with resp := ⟨false, d⟩ } }

/-! ## Requests to the record store -/

/-- A block hands a record to the record store over the flash island's internal ports (R502). -/
def Hw.submit (h : Hw) (typ key : Nat) (payload : List Byte) (purpose : Purpose) : Hw :=
  { h with nvm := { h.nvm with reqs := h.nvm.reqs ++ [⟨typ, key, payload, 0, false, purpose⟩] } }

/-! ## Registers by address (R3, R6-R8, R364) -/

/-- Whether an offset is one of a row's registers: the indices left to match, outermost first. -/
def dimsHit : Nat → List (Nat × Nat) → Bool
  | d, [] => d == 0
  | d, (st, n) :: t => decide (d / st < n) && dimsHit (d % st) t

/-- The row of the register at offset `off` of block `k`. -/
def findReg (k off : Nat) : Option RegRow := (blockRows k).find? fun r => decide (r.off ≤ off) && dimsHit (off - r.off) r.dims

/-- Block number of a register address. -/
def regBlock (addr : Nat) : Nat := bits addr 16 8

/-- The field a row's entry names in the register at `addr`. -/
def RegFld.at_ (kind : RstKind) (f : RegFld) (addr : Nat) : Fld :=
  ⟨addr, f.lo, f.w, match kind with
    | .plain => f.rst
    | .tlSlack => if bits addr 0 16 < 0x280 then 364500 else 288000
    | .route => if f.lo = 8 ∧ bits addr 0 16 < 0x440 then 1 else f.rst⟩

/-- What a read of the register returns: its fields, 0 for WO and RSV (R3). -/
def Hw.regLoad (h : Hw) (addr : Nat) (r : RegRow) : Nat :=
  r.flds.foldl (fun v f => if f.acc = .wo then v else v + h.fld (RegFld.at_ r.kind f addr) * 2 ^ f.lo) 0

/-- A write acts on one field by its access code (R3); writing 1 to SAT clears SAT and COUNT (R11). -/
def Hw.fldStore (addr v : Nat) (kind : RstKind) (h : Hw) (f : RegFld) : Hw :=
  let g := RegFld.at_ kind f addr
  let n := bits v f.lo f.w
  match f.acc with
  | .rw => h.setFld g n
  | .w1c => h.setFld g (h.fld g &&& (2 ^ f.w - 1 - n))
  | .w1csat => if n = 1 then (h.setFld g 0).setFld ⟨addr, 0, f.lo, 0⟩ 0 else h
  | .w1s => h.setFld g (h.fld g ||| n)
  | .ro => h
  | .wo => h
  | .rc => h

/-- A write of the whole register by the access codes of its fields (R3). -/
def Hw.regStore (h : Hw) (addr v : Nat) : Hw :=
  match findReg (regBlock addr) (bits addr 0 16) with
  | some r => r.flds.foldl (fun h f => h.fldStore addr v r.kind f) h
  | none => h

/-! ## General memory -/

/-- What a byte of SRAM or DDR4 that nothing has written reads as (log entry 2, DESIGN CHOICE). -/
def memDefault : Byte := 0#8

/-- Reads one byte of general memory. -/
def memGet (m : List Host.Cell) (a : Nat) : Byte := Tab.getD m a memDefault

/-- Writes one byte of general memory and keeps the canonical form. -/
def memPut (m : List Host.Cell) (a : Nat) (b : Byte) : List Host.Cell :=
  if b = memDefault then Tab.del m a else Tab.put m a b

/-- Reads `n` bytes. -/
def memRead (m : List Host.Cell) (a n : Nat) : List Byte := (List.range n).map fun i => memGet m (a + i)

/-- Writes bytes from address `a`. -/
def memWrite (m : List Host.Cell) (a : Nat) : List Byte → List Host.Cell
  | [] => m
  | b :: bs => memWrite (memPut m a b) (a + 1) bs

/-- A little-endian number of `n` bytes in memory. -/
def memNum (m : List Host.Cell) (a n : Nat) : Nat := ofBytes (memRead m a n)

/-- The canonical form of general memory: addresses rise strictly and no entry equals what an unlisted byte reads as. -/
abbrev Memory.wf (m : List Host.Cell) : Prop := Tab.rising m = true ∧ ∀ c ∈ m, c.2 ≠ memDefault

/-- Changes the hardware and leaves the queue and general memory. -/
def State.onHw (s : State) (f : Hw → Hw) : State := { s with hw := f s.hw }

end Sys2Proof.Machine
end

