-- ==== Sys2Proof/Machine/Time.lean ====
section
/-! DEFINITION. Network time and light characters (12): the clock's fold, its states, step, rate and slew, and the pulses
of TP_OUT0-TP_OUT15. -/

namespace Sys2Proof.Machine

/-- Clock states of TIM.STAT.STATE (R470). -/
def clkFree : Nat := 0
def clkLocking : Nat := 1
def clkLocked : Nat := 2
def clkHoldover : Nat := 3

/-- 500 ppm in units of 2^-40 (R468). -/
def rateLimit : Int := 549755813

/-- The readings that follow the clock: OFFSET = BASE - TBASE and RE (R467, R481). -/
def Hw.showClk (h : Hw) : Hw :=
  (h.setFld TIM_OFFSET (h.clk.base + 2 ^ 64 - h.clk.tbase)).setFld TIM_RE (ofSigned 32 h.rateEff)

/-- Moves network time by `fine` units of 2^-40 ns and fixes it at the present TFREE (R467; a plain fold for 0). -/
def Hw.foldBy (h : Hw) (fine : Int) : Hw :=
  let n := h.ntFine + fine
  { h with clk := { h.clk with base := (n / 2 ^ 40 % 2 ^ 64).toNat, frac := (n % 2 ^ 40).toNat, tbase := h.tfree } }

/-- A fold (R467), then a change of what the rate is made of, then the readings. -/
def Hw.rechange (h : Hw) (f : Hw → Hw) : Hw := (f (h.foldBy 0)).showClk

/-- Time on TFREE since the running slew started, in ns. -/
def Hw.slewTime (h : Hw) : Nat := h.elapsed h.clk.slewStart

/-- Phase moved by the running slew so far, in ns (R472, R473): s times the ns passed, over 2^40, rounded down
(log entry 7, DESIGN CHOICE). -/
def Hw.slewMoved (h : Hw) : Int := h.clk.slew * (h.slewTime : Nat) / 2 ^ 40

/-- A running slew ends early (R473): the increment goes, the phase moved stays and no residual is added. -/
def Hw.slewStop (h : Hw) : Hw :=
  if h.flag TIM_STAT_SLEWING then
    let h := h.setFld TIM_SLEWMOV (ofSigned 32 h.slewMoved)
    (h.rechange fun h => { h with clk := { h.clk with slew := 0 } }).setFlag TIM_STAT_SLEWING false
  else h

/-- HELD of every light character follows the clock's state (R479). -/
def Hw.tpHeld (h : Hw) : Hw :=
  (List.range 16).foldl (fun h n => h.setFlag (TIM_TP_STAT_HELD n)
    (h.flag (TIM_TP_STAT_ACTIVE n) && h.flag (TIM_TP_CTRL_LOCKONLY n) && decide (h.fld TIM_STAT_STATE ≤ clkLocking))) h

/-- A change of the clock's state raises E160 and writes TIME_STATE (R470). -/
def Hw.clkTo (h : Hw) (st master : Nat) : Hw :=
  (((h.setFld TIM_STAT_STATE st).tpHeld).raise 160).recordFree 0x060 master 0

/-- A command the clock ignores in its state (R470). -/
def Hw.clkIgnore (h : Hw) : Hw := h.setFlag TIM_STAT_CMDREF true

/-- The servo timeout restarts (R470). -/
def Hw.servoWrite (h : Hw) : Hw := { h with clk := { h.clk with servoAt := h.tfree } }

/-- Entry into HOLDOVER (R470, R473). -/
def Hw.toHoldover (h : Hw) (tout : Bool) (master : Nat) : Hw :=
  let h := h.slewStop.countS TIM_HOLDCNT_COUNT TIM_HOLDCNT_SAT 167 1
  (if tout then h.setFlag TIM_STAT_TOUT true else h).clkTo clkHoldover master

/-- Entry into FREE (R470, R473). -/
def Hw.toFree (h : Hw) (master : Nat) : Hw := (h.slewStop.setFlag TIM_STAT_STEPOK false).clkTo clkFree master

/-- Servo timeout or link loss (R470). -/
def Hw.servoLoss (h : Hw) : Hw :=
  if h.fld TIM_STAT_STATE = clkLocking then ((h.raise 164).useFree).toFree h.noMaster
  else if h.fld TIM_STAT_STATE = clkLocked then ((h.raise 164).useFree).toHoldover true h.noMaster
  else h

def timLock (src : Src) (h : Hw) : Hw :=
  if h.fld TIM_STAT_STATE = clkFree ∨ h.fld TIM_STAT_STATE = clkHoldover then
    (h.setFlag TIM_STAT_STEPOK true).clkTo clkLocking src.master.val
  else h.clkIgnore

def timLocked (src : Src) (h : Hw) : Hw :=
  if h.fld TIM_STAT_STATE = clkLocking then (h.setFlag TIM_STAT_STEPOK false).clkTo clkLocked src.master.val
  else h.clkIgnore

def timHold (src : Src) (h : Hw) : Hw :=
  if h.fld TIM_STAT_STATE = clkLocked then h.toHoldover false src.master.val else h.clkIgnore

def timRelock (src : Src) (h : Hw) : Hw :=
  if h.fld TIM_STAT_STATE = clkHoldover then h.clkTo clkLocked src.master.val else h.clkIgnore

def timFree (src : Src) (h : Hw) : Hw :=
  if h.fld TIM_STAT_STATE = clkFree then h.clkIgnore else h.toFree src.master.val

/-- STEP (R470, R471): the one step of a lock session moves BASE by STEPVAL. -/
def timStep (src : Src) (h : Hw) : Hw :=
  if h.flag TIM_STAT_STEPOK then
    let h := ((h.foldBy (h.sfld TIM_STEPVAL * 2 ^ 40)).showClk.setFlag TIM_STAT_STEPOK false).raise 161
    h.record 0x061 src.master.val 0 (h.fld TIM_STEPVAL)
  else (h.setFlag TIM_STAT_STEPREF true).raise 163

def timCapt (h : Hw) : Hw := (h.setFld TIM_CAPTF h.tfree).setFld TIM_CAPNT h.nt

/-- A write of RATE (R468). -/
def rateWrite (rate : BitVec 32) (h : Hw) : Hw :=
  let h := h.servoWrite
  if (rate.toInt + h.clk.slew).natAbs > rateLimit then (h.setFlag TIM_STAT_RATEREF true).raise 163
  else h.rechange fun h => h.setFld TIM_RATE rate.toNat

/-- Nearest integer, halves up (log entry 7, DESIGN CHOICE). -/
def roundDiv (n d : Int) : Int := (2 * n + d) / (2 * d)

/-- A write of TIM.SLEWT with GO (R472). -/
def slewGo (ms : Nat) (h : Hw) : Hw :=
  let h := (h.servoWrite).setFld TIM_SLEWCTL_MS ms
  let ph := h.sfld TIM_SLEWPH
  let s := roundDiv (ph * 2 ^ 40) (ms * 1000000)
  if h.fld TIM_STAT_STATE = clkFree ∨ ms = 0 ∨ (h.sfld TIM_RATE + s).natAbs > rateLimit then
    (h.setFlag TIM_STAT_SLEWREF true).raise 163
  else
    let h := h.slewStop.rechange fun h =>
      { h with clk := { h.clk with slew := s, slewPh := ph, slewMs := ms, slewStart := h.tfree } }
    (h.setFlag TIM_STAT_SLEWING true).setFld TIM_SLEWMOV 0

/-- The slew time T ends (R472): the residual makes what the slew moved phi exactly. -/
def slewEnd (h : Hw) : Hw :=
  if h.flag TIM_STAT_SLEWING && decide (h.clk.slewMs * 1000000 ≤ h.slewTime) then
    let residual := h.clk.slewPh * 2 ^ 40 - h.clk.slew * (h.slewTime : Nat)
    let h := h.foldBy residual
    let h := ({ h with clk := { h.clk with slew := 0 } } : Hw).showClk.setFld TIM_SLEWMOV (ofSigned 32 h.clk.slewPh)
    (h.setFlag TIM_STAT_SLEWING false).raise 162
  else h

/-- No servo write has arrived for SERVOTO ms, where that is not 0 (R470). -/
def Hw.servoSilent (h : Hw) : Bool :=
  h.fld TIM_SERVOTO_MS != 0 && decide (h.fld TIM_SERVOTO_MS * 1000000 ≤ h.elapsed h.clk.servoAt)

/-- The servo timeout fires in LOCKING and LOCKED (R470). -/
def servoTimeout (h : Hw) : Hw := if h.servoSilent then h.servoLoss else h

/-! ## Light characters (R476-R479) -/

def LightChar.reset : LightChar := ⟨0, 0, false, 0⟩
def Hw.lchar (h : Hw) (n : Nat) : LightChar := Tab.getD h.tp n LightChar.reset
def Hw.setLchar (h : Hw) (n : Nat) (c : LightChar) : Hw := { h with tp := Tab.put h.tp n c }

/-- Pulses of a period. -/
def Hw.tpBurst (h : Hw) (n : Nat) : Nat := h.fld (TIM_TP_CTRL_BURST n) + 1

/-- Periods of the character, none where they have no end. -/
def Hw.tpPeriods (h : Hw) (n : Nat) : Option Nat :=
  if h.fld (TIM_TP_CTRL_MODE n) = 0 then some 1
  else if h.fld (TIM_TP_COUNT n) = 0 then none else some (h.fld (TIM_TP_COUNT n))

/-- Rising edge of pulse `j` of period `k` (R476). -/
def Hw.tpRise (h : Hw) (n k j : Nat) : Nat :=
  (h.fld (TIM_TP_START n) + k * h.fld (TIM_TP_PERIOD n) + j * h.fld (TIM_TP_SPACING n)) % 2 ^ 64

/-- Number, counted from the first pulse, of the first pulse whose WIDTH has not passed at NT (R477). -/
def Hw.tpLive (h : Hw) (n : Nat) : Nat :=
  let x := toSigned 64 (h.nt + 2 ^ 64 - h.fld (TIM_TP_START n)) - h.fld (TIM_TP_WIDTH n)
  if x < 0 then 0 else
    let x := x.toNat
    let b := h.tpBurst n
    let p := h.fld (TIM_TP_PERIOD n)
    let k := if h.fld (TIM_TP_CTRL_MODE n) = 0 then 0 else x / p
    let r := x - k * p
    k * b + min b (if b = 1 then 1 else r / h.fld (TIM_TP_SPACING n) + 1)

/-- NEXT reads the next rising edge. -/
def Hw.tpNext (h : Hw) (n : Nat) : Hw := h.setFld (TIM_TP_NEXT n) (h.tpRise n (h.lchar n).period (h.lchar n).pulse)

/-- A character ends: ACTIVE falls, DONE is set and E165 raised (R478). -/
def Hw.tpEnd (h : Hw) (n : Nat) : Hw :=
  let h := h.setLchar n LightChar.reset
  let h := (h.setFlag (TIM_TP_STAT_ACTIVE n) false).setFlag (TIM_TP_CTRL_ARM n) false
  ((h.setFlag (TIM_TP_STAT_HELD n) false).setFlag (TIM_TP_STAT_DONE n) true).raise 165

/-- The character stands at pulse number `i` and, when `i` is past its last period, ends. -/
def Hw.tpGoto (h : Hw) (n i : Nat) : Hw :=
  let b := h.tpBurst n
  let c := h.lchar n
  let lim := match h.tpPeriods n with
    | some p => min i (p * b)
    | none => i
  let h := h.countW (TIM_TP_DONECNT_DONE n) (lim / b - c.period)
  let h := h.setLchar n { c with period := lim / b, pulse := lim % b, on := false }
  if h.tpPeriods n = some (lim / b) then h.tpEnd n else h.tpNext n

/-- The part evaluates the next pulse of a character (R476, R477): a pulse that is on falls at its time, pulses past their
WIDTH are skipped, a pulse within its WIDTH rises. -/
def Hw.tpEval (h : Hw) (n : Nat) : Hw :=
  if h.flag (TIM_TP_STAT_ACTIVE n) then
    let c := h.lchar n
    let b := h.tpBurst n
    let i := c.period * b + c.pulse
    if c.on then
      if h.tpLive n > i ∨ h.elapsed c.rose ≥ h.fld (TIM_TP_WIDTH n) then h.tpGoto n (i + 1) else h
    else
      let live := match h.tpPeriods n with
        | some p => min (h.tpLive n) (p * b)
        | none => h.tpLive n
      let h := if live > i then
          ((h.setFlag (TIM_TP_STAT_SKIPPED n) true).countS TIM_TPSKIPCNT_COUNT TIM_TPSKIPCNT_SAT 167 (live - i)).raise 166
          |>.tpGoto n live
        else h
      let c := h.lchar n
      if h.flag (TIM_TP_STAT_ACTIVE n) && !h.flag (TIM_TP_STAT_HELD n) && atOrAfter h.nt (h.tpRise n c.period c.pulse) then
        h.setLchar n { c with on := true, rose := h.tfree }
      else h
  else h

/-- CFGREF of a character, with E167 (R478). -/
def Hw.tpRefuse (h : Hw) (n : Nat) : Hw := (h.setFlag (TIM_TP_STAT_CFGREF n) true).raise 167

/-- A write of TPn_CTRL with ARM (R478). A refused write leaves the register as it was (log entry 8, DEDUCED). -/
def tpArm (n : Nat) (cfg : Nat) (h : Hw) : Hw :=
  if h.flag (TIM_TP_STAT_ACTIVE n) then h.tpRefuse n
  else
    let b := bits cfg 5 4 + 1
    let w := h.fld (TIM_TP_WIDTH n)
    let sp := h.fld (TIM_TP_SPACING n)
    if w < 4 ∨ (b > 1 ∧ w ≥ sp) ∨ (bitOf cfg 2 = true ∧ (b - 1) * sp + w ≥ h.fld (TIM_TP_PERIOD n)) then h.tpRefuse n
    else
      let h := ((h.setFlag (TIM_TP_CTRL_MODE n) (bitOf cfg 2)).setFlag (TIM_TP_CTRL_POL n) (bitOf cfg 3)).setFlag
        (TIM_TP_CTRL_LOCKONLY n) (bitOf cfg 4)
      let h := (h.setFld (TIM_TP_CTRL_BURST n) (b - 1)).setFlag (TIM_TP_STAT_ACTIVE n) true
      let h := ((h.setFlag (TIM_TP_CTRL_ARM n) true).setLchar n LightChar.reset).tpHeld
      (h.tpNext n).tpEval n

/-- STOP (R478): without effect on a character that is not running. -/
def tpStop (n : Nat) (h : Hw) : Hw := if h.flag (TIM_TP_STAT_ACTIVE n) then h.tpEnd n else h

/-- Level of ball TP_OUTn: the pulse unless held, active high or low (R476, R479). -/
def Hw.tpOut (h : Hw) (n : Nat) : Bool := ((h.lchar n).on && !h.flag (TIM_TP_STAT_HELD n)) != h.flag (TIM_TP_CTRL_POL n)

/-! ## Meanings -/

def timAddr (off : Nat) : Nat := 0x30280000 + off

def execTimLock (src : Src) (s : State) : Host.Outcome State Fault Refusal :=
  .next (s.onHw fun h => h.onlyD0 src (timAddr 8) (timLock src))
def execTimLocked (src : Src) (s : State) : Host.Outcome State Fault Refusal :=
  .next (s.onHw fun h => h.onlyD0 src (timAddr 8) (timLocked src))
def execTimHold (src : Src) (s : State) : Host.Outcome State Fault Refusal :=
  .next (s.onHw fun h => h.onlyD0 src (timAddr 8) (timHold src))
def execTimRelock (src : Src) (s : State) : Host.Outcome State Fault Refusal :=
  .next (s.onHw fun h => h.onlyD0 src (timAddr 8) (timRelock src))
def execTimFree (src : Src) (s : State) : Host.Outcome State Fault Refusal :=
  .next (s.onHw fun h => h.onlyD0 src (timAddr 8) (timFree src))
def execTimStep (src : Src) (s : State) : Host.Outcome State Fault Refusal :=
  .next (s.onHw fun h => h.onlyD0 src (timAddr 8) (timStep src))
def execTimKeep (src : Src) (s : State) : Host.Outcome State Fault Refusal :=
  .next (s.onHw fun h => h.onlyD0 src (timAddr 8) Hw.servoWrite)
def execTimCapt (src : Src) (s : State) : Host.Outcome State Fault Refusal :=
  .next (s.onHw fun h => h.onlyD0 src (timAddr 8) timCapt)
def execRateWrite (src : Src) (rate : BitVec 32) (s : State) : Host.Outcome State Fault Refusal :=
  .next (s.onHw fun h => h.onlyD0 src (timAddr 0x30) (rateWrite rate))
def execSlewGo (src : Src) (ms : BitVec 24) (s : State) : Host.Outcome State Fault Refusal :=
  .next (s.onHw fun h => h.onlyD0 src (timAddr 0x3C) (slewGo ms.toNat))
def execSlewEnd (s : State) : Host.Outcome State Fault Refusal := .next (s.onHw slewEnd)
def execServoTimeout (s : State) : Host.Outcome State Fault Refusal := .next (s.onHw servoTimeout)
def execClockFold (s : State) : Host.Outcome State Fault Refusal := .next (s.onHw fun h => h.rechange id)
def execTpArm (src : Src) (n : Fin 16) (cfg : BitVec 32) (s : State) : Host.Outcome State Fault Refusal :=
  .next (s.onHw fun h => h.onlyD0 src (timAddr (0x400 + 0x40 * n.val)) (tpArm n.val cfg.toNat))
def execTpStop (src : Src) (n : Fin 16) (s : State) : Host.Outcome State Fault Refusal :=
  .next (s.onHw fun h => h.onlyD0 src (timAddr (0x400 + 0x40 * n.val)) (tpStop n.val))
def execTpEdge (n : Fin 16) (s : State) : Host.Outcome State Fault Refusal := .next (s.onHw fun h => h.tpEval n.val)

end Sys2Proof.Machine
end

