-- ==== Sys2Proof/Machine/Clock.lean ====
section
/-! DEFINITION. What passes while no command waits: an edge of the 500 MHz counter clock (12 R466, 09 R350), and idle memory banks
switch off (01 R45). -/

namespace Sys2Proof.Machine

/-- An edge of the counter clock: TFREE advances by 2 ns, and MTIME by 1 every 40 ns, the 25 MHz of R350. No access falls at it, so the
memory banks that accesses woke switch off (R45, R47; log entry 170, DESIGN CHOICE). -/
def clockEdge (h : Hw) : Hw :=
  let h := ({ h with banks := [] } : Hw).countW TIM_TFREE 2
  if h.tfree % 40 = 0 then h.countW SYS_MTIME 1 else h

end Sys2Proof.Machine
end

