-- ==== Sys2Proof/Machine/Store.lean ====
section
/-! DEFINITION. The record store's structure (13): lines, sectors, live versions, charges, and how a group of records is
placed and committed. -/

namespace Sys2Proof.Machine

/-- Whether a partition is encrypted (R501). -/
def partEnc (p : Nat) : Bool := p == 2 || p == 3 || p == 4 || p == 5 || p == 7 || p == 8

/-- Quota of a partition in bytes (R501). -/
def partQuota (p : Nat) : Nat :=
  match p with
  | 0 => 24 * 1024 | 1 => 24 * 1024 | 2 => 528 * 1024 | 3 => 48 * 1024 | 4 => 40 * 1024
  | 5 => 40 * 1024 | 6 => 16 * 1024 | 7 => 36 * 1024 | 8 => 64 * 1024 | _ => 0

/-- Partition of a TYPE (R493). -/
def partOf (typ : Nat) : Nat := bits typ 12 4

/-- Lines of a record: header, payload, tag line of an encrypted one (R493). -/
def recLines (typ len : Nat) : Nat := 1 + (len + 15) / 16 + b2n (partEnc (partOf typ))

/-- Bytes a record is charged, its commit line included (R501). -/
def recCharge (typ len : Nat) : Nat := 16 * (recLines typ len + 1)

def NvmRec.lines (r : NvmRec) : Nat := recLines r.typ r.payload.length
def NvmReq.lines (r : NvmReq) : Nat := recLines r.typ r.payload.length

/-- Lines of a group with its commit line (R495). -/
def NvmGroup.lines (g : NvmGroup) : Nat := (g.recs.map NvmRec.lines).sum + 1

/-- Records of a sector whose group's commit line stands (R496). -/
def Sector.recs (s : Sector) : List NvmRec := ((s.groups.filter fun g => !g.cut).map (·.recs)).flatten

/-- A sector whose line 0 is absent (R492). -/
def Sector.blank : Sector := ⟨0, 0, false, none, false, false, false, []⟩

/-- An erased sector with its line 0. -/
def Sector.erased (ec esq : Nat) : Sector := ⟨ec, esq, true, none, false, false, false, []⟩

/-- Data lines used. -/
def Sector.used (s : Sector) : Nat := (s.groups.map NvmGroup.lines).sum

/-- FREE, DEST and OPEN of R492. -/
def Sector.isFree (s : Sector) : Bool :=
  s.line0 && s.dest.isNone && !s.copied && !s.full && !s.obsolete && s.groups.isEmpty
def Sector.isDest (s : Sector) : Bool := s.dest.isSome && !s.copied
def Sector.isOpen (s : Sector) : Bool :=
  s.line0 && !s.full && !s.obsolete && !s.isDest && (!s.groups.isEmpty || s.copied)

def Nvm.sector (n : Nvm) (r : Nat) : Sector := Tab.getD n.sectors r Sector.blank
def Nvm.setSector (n : Nvm) (r : Nat) (s : Sector) : Nvm := { n with sectors := Tab.put n.sectors r s }

/-- Sectors in service. -/
def Nvm.service (n : Nvm) : List Nat := (List.range 256).filter fun r => !n.retired.contains r

/-- FREE sectors, of the store and of a plane (R482). -/
def Nvm.freeSectors (n : Nvm) : List Nat := n.service.filter fun r => (n.sector r).isFree
def Nvm.freeOf (n : Nvm) (plane : Nat) : List Nat := n.freeSectors.filter fun r => r / 64 == plane

/-- Free data lines of a plane. -/
def Nvm.freeLines (n : Nvm) (plane : Nat) : Nat :=
  ((n.service.filter fun r => r / 64 == plane).map fun r =>
    let s := n.sector r
    if s.isFree then 1016 else if s.isOpen then 1016 - s.used else 0).sum

/-- The element of a list with the least measure, the first on a tie. -/
def leastBy (f : Nat → Nat) : List Nat → Option Nat
  | [] => none
  | a :: t => match leastBy f t with
    | some b => if f b < f a then some b else some a
    | none => some a

/-- The element with the greatest measure, the first on a tie. -/
def mostBy (f : Nat → Nat) : List Nat → Option Nat
  | [] => none
  | a :: t => match mostBy f t with
    | some b => if f a < f b then some b else some a
    | none => some a

/-- Records that count as committed: not those of a transaction that is not whole (R498), of a destination without COPIED
or of an OBSOLETE source (R513). -/
def Nvm.committed (n : Nvm) : List NvmRec :=
  (n.service.map fun r =>
    let s := n.sector r
    if s.isDest || s.obsolete then [] else s.recs).flatten.filter fun r => !n.txPart.contains r.tx && !n.txDead.contains r.tx

/-- SEQ `a` is newer than `b` under the signed 32-bit difference (R499). -/
def seqNewer (a b : Nat) : Bool := decide (0 < toSigned 32 (a + 2 ^ 32 - b % 2 ^ 32))

/-- The newest of a list of records. -/
def newest : List NvmRec → Option NvmRec
  | [] => none
  | r :: t => match newest t with
    | some q => if seqNewer q.seq r.seq then some q else some r
    | none => some r

/-- The live version of a TYPE and KEY (R499); a tombstone is a live version of LENGTH 0. -/
def Nvm.live (n : Nvm) (typ key : Nat) : Option NvmRec :=
  newest (n.committed.filter fun r => r.typ == typ && r.key == key)

/-- Live bytes of a sector: what compaction would copy (R511). -/
def Nvm.liveOf (n : Nvm) (r : Nat) : List NvmRec :=
  (n.sector r).recs.filter fun q =>
    !q.lost && !n.txPart.contains q.tx && !n.txDead.contains q.tx && n.live q.typ q.key == some q

/-- The registers that show the store's space and wear (R527). -/
def Hw.nvmShow (h : Hw) : Hw :=
  let n := h.nvm
  let ecs := n.service.map fun r => (n.sector r).ec
  let h := (h.setFld NVM_SPACE_ERASED n.freeSectors.length).setFld NVM_SPACE_RETIRED n.retired.length
  (h.setFld NVM_ECMAX (ecs.foldl max 0)).setFld NVM_ECMIN (ecs.foldl min (ecs.headD 0))

/-- The sector of a plane that takes a group of `need` lines: an OPEN one with room, else the FREE one with the lowest EC
(log entry 9, DESIGN CHOICE). -/
def Nvm.sectorFor (n : Nvm) (plane need : Nat) : Option Nat :=
  match (n.service.filter fun r => r / 64 == plane && (n.sector r).isOpen && decide ((n.sector r).used + need ≤ 1016)).head? with
  | some r => some r
  | none => leastBy (fun r => (n.sector r).ec) (n.freeOf plane)

/-- OPEN sectors of a plane without room for `need` lines are closed with the FULL mark. -/
def Nvm.closeFull (n : Nvm) (plane need : Nat) : Nvm :=
  { n with sectors := Tab.mapVal n.sectors fun r s =>
      if r / 64 == plane && s.isOpen && decide (1016 < s.used + need) then { s with full := true } else s }

/-- SEQ of a new version (R499); the first version takes 1 (log entry 9, DESIGN CHOICE). -/
def Nvm.nextSeq (n : Nvm) (typ key : Nat) : Nat :=
  match n.live typ key with
  | some r => (r.seq + 1) % 2 ^ 32
  | none => 1

/-- Groups committed of a transaction. -/
def Nvm.groupsOf (n : Nvm) (tx : Nat) : Nat :=
  (n.sectors.map fun s => (s.2.groups.filter fun g => g.tx == tx && !g.cut).length).sum

/-- A partition's charge follows a new version of a record (R501). -/
def Hw.charge (h : Hw) (typ key len : Nat) : Hw :=
  let old := match h.nvm.live typ key with
    | some r => recCharge r.typ r.payload.length
    | none => 0
  h.setFld (NVM_PUSE_USED (partOf typ)) (h.fld (NVM_PUSE_USED (partOf typ)) + recCharge typ len - old)

/-- Commits one group of records on a plane (R495, R496); `none` when no sector can take it. -/
def Hw.commitGroup (h : Hw) (plane : Nat) (compact : Bool) (recs : List NvmReq) : Option Hw :=
  let rs := recs.map fun q => (⟨q.typ, q.key, h.nvm.nextSeq q.typ q.key, q.payload, q.tx, false⟩ : NvmRec)
  let tx := (recs.headD ⟨0, 0, [], 0, false, .system⟩).tx
  let last := recs.any fun q => q.txLast
  let g : NvmGroup := ⟨false, compact, tx, last, if last then h.nvm.groupsOf tx + 1 else 0, rs⟩
  match h.nvm.sectorFor plane g.lines with
  | none => none
  | some r =>
    let h := recs.foldl (fun h q => h.charge q.typ q.key q.payload.length) h
    let n := h.nvm.closeFull plane g.lines
    let s := n.sector r
    some ({ h with nvm := n.setSector r { s with groups := s.groups ++ [g] } } : Hw).nvmShow

/-- Commits a record at once on the plane with the most free lines, for the steps whose rules include the commit; whether a
sector took it. -/
def Hw.commitOk (h : Hw) (typ key : Nat) (payload : List Byte) : Hw × Bool :=
  match (mostBy h.nvm.freeLines [0, 1, 2, 3]).bind fun p => h.commitGroup p false [⟨typ, key, payload, 0, false, .system⟩] with
  | some h => (h, true)
  | none => (h, false)

def Hw.commitNow (h : Hw) (typ key : Nat) (payload : List Byte) : Hw := (h.commitOk typ key payload).1

/-- Whether the record-store key is in its engine (R525). -/
def Hw.cipherReady (h : Hw) : Bool := h.flag (KEY_ENG_STAT_LOADED 1)

/-- Records committed at once one after the other; whether all were. -/
def Hw.commitEach (h : Hw) (l : List (Nat × Nat × List Byte)) : Hw × Bool :=
  l.foldl (fun (e : Hw × Bool) r => let x := e.1.commitOk r.1 r.2.1 r.2.2; (x.1, e.2 && x.2)) (h, true)

/-- Commits records at once as one transaction (R498), a group each; whether all were written: else none of them counts. -/
def Hw.commitTx (h : Hw) (l : List (Nat × Nat × List Byte)) : Hw × Bool :=
  if l = [] then (h, true)
  else
    let x := h.nvm.txNext
    let h := { h with nvm := { h.nvm with txNext := x + 1 } }
    let r := (l.zip (List.range l.length)).foldl (fun (y : Hw × Bool) e =>
      match mostBy y.1.nvm.freeLines [0, 1, 2, 3] with
      | some p => match y.1.commitGroup p false [⟨e.1.1, e.1.2.1, e.1.2.2, x, e.2 + 1 == l.length, .system⟩] with
        | some h => (h, y.2)
        | none => (y.1, false)
      | none => (y.1, false)) (h, true)
    if r.2 then r else ({ r.1 with nvm := { r.1.nvm with txDead := x :: r.1.nvm.txDead } }, false)

/-! ## The bytes a sector holds (R491, R493, R495, R500) -/

/-- Pads bytes to whole lines (R493). -/
def padLine (l : List Byte) : List Byte := l ++ List.replicate ((16 - l.length % 16) % 16) 0#8

/-- One step of CRC-32 with the IEEE 802.3 polynomial, bit by bit (R495). -/
def crcBit (c : Nat) : Nat := if c.testBit 0 then (c / 2) ^^^ 0xEDB88320 else c / 2
def crcByte (c : Nat) (b : Byte) : Nat := (List.range 8).foldl (fun c _ => crcBit c) (c ^^^ b.toNat)

/-- CRC-32 with the IEEE 802.3 polynomial. -/
def crc32 (l : List Byte) : Nat := l.foldl crcByte 0xFFFFFFFF ^^^ 0xFFFFFFFF

/-- Header line of a record (R493). -/
def NvmRec.header (r : NvmRec) : List Byte :=
  toBytes 2 r.typ ++ toBytes 4 r.key ++ toBytes 2 r.payload.length ++ toBytes 4 r.seq
    ++ toBytes 1 (b2n (partEnc (partOf r.typ))) ++ toBytes 3 0

/-- The nonce of R500. -/
def gcmNonce (r ec line esq : Nat) : Nat :=
  r % 2 ^ 8 + ec % 2 ^ 24 * 2 ^ 8 + line % 2 ^ 10 * 2 ^ 32 + esq % 2 ^ 54 * 2 ^ 42

/-- Lines of a record whose header stands at `line` of sector `r`. -/
def NvmRec.bytesAt (q : NvmRec) (r ec esq line : Nat) : List Byte :=
  if partEnc (partOf q.typ) then
    let n := gcmNonce r ec line esq
    q.header ++ padLine ((Config.gcmText n q.header q.payload).take q.payload.length)
      ++ (Config.gcmTag n q.header q.payload ++ List.replicate 16 0#8).take 16
  else q.header ++ padLine q.payload

/-- The commit line of a group over its bytes (R495). -/
def NvmGroup.commitLine (g : NvmGroup) (body : List Byte) : List Byte :=
  toBytes 2 0xC3A5 ++ toBytes 1 (body.length / 16)
    ++ toBytes 1 (b2n (g.tx != 0) + 2 * b2n g.txEnd + 4 * b2n g.compact)
    ++ toBytes 4 g.tx ++ toBytes 1 g.txCnt ++ toBytes 3 0 ++ toBytes 4 (crc32 body)

/-- Bytes of the groups from line `line` on. -/
def groupBytes (r ec esq : Nat) : Nat → List NvmGroup → List Byte
  | _, [] => []
  | line, g :: gs =>
    let body := g.recs.foldl (fun b q => b ++ q.bytesAt r ec esq (line + b.length / 16)) []
    body ++ g.commitLine body ++ groupBytes r ec esq (line + g.lines) gs

/-- A mark line: 16 bytes of 0x00 when present, erased otherwise (R491). -/
def markLine (on : Bool) : List Byte := List.replicate 16 (if on then 0#8 else 0xFF#8)

/-- The bytes of sector `r` up to its last line that is not erased (R491). -/
def Sector.bytes (s : Sector) (r : Nat) : List Byte :=
  (if s.line0 then toBytes 2 0xA55A ++ toBytes 1 1 ++ toBytes 1 r ++ toBytes 3 s.ec ++ toBytes 1 0 ++ toBytes 8 s.esq
    else markLine false)
    ++ (match s.dest with
      | some d => toBytes 2 0x5AA5 ++ toBytes 1 d.src ++ toBytes 1 d.reason ++ toBytes 3 d.ec ++ toBytes 9 0
      | none => markLine false)
    ++ markLine s.copied ++ markLine s.full ++ markLine s.obsolete ++ List.replicate 48 0xFF#8
    ++ groupBytes r s.ec s.esq 8 s.groups

/-- A byte of the flash by its offset (R482): code region, then the record store's sectors. -/
def Nvm.flashByte (n : Nvm) (off : Nat) : Byte :=
  if off < 0xC00000 then Tab.getD n.code off 0xFF#8
  else
    let r := (off - 0xC00000) / 16384
    ((n.sector r).bytes r).getD ((off - 0xC00000) % 16384) 0xFF#8

end Sys2Proof.Machine
end

