-- ==== Sys2Proof/Machine/Access.lean ====
section
/-! DEFINITION. The physical address map and the access tables (09 R361-R376): which target an address belongs to, whether
a transaction passes its table, and the commands that write the tables. -/

namespace Sys2Proof.Machine

/-! ## The address map -/

/-- Regions of R361. -/
inductive Region where
  | rom | flash | sram | image | pool
  | lantern (n : Nat) | loop (m : Nat) | scratch | regs (k : Nat) | ddr | unmapped
  deriving DecidableEq, Repr

/-- Bytes of DDR4 that a size code names (R362). -/
def ddrBytes (size : Nat) : Nat := if size = 0 then 0 else 2 ^ (31 + size)

/-- The region of a physical address (R361-R364). -/
def Hw.region (h : Hw) (a : Nat) : Region :=
  if a < 0x20000 then .rom
  else if 0x10000000 ≤ a ∧ a < 0x11000000 then .flash
  else if 0x20000000 ≤ a ∧ a < 0x20800000 then .sram
  else if 0x21000000 ≤ a ∧ a < 0x21200000 then .image
  else if 0x22000000 ≤ a ∧ a < 0x22400000 then .pool
  else if 0x24000000 ≤ a ∧ a < 0x24800000 then .lantern (bits a 20 3)
  else if 0x25000000 ≤ a ∧ a < 0x25200000 then .loop (bits a 20 1)
  else if 0x26000000 ≤ a ∧ a < 0x26800000 then .scratch
  else if 0x30000000 ≤ a ∧ a < 0x31000000 then
    if (blockRows (regBlock a)).isEmpty then .unmapped else .regs (regBlock a)
  else if 0x1000000000 ≤ a ∧ h.flag MEM_DDRSTAT_READY = true ∧ a < 0x1000000000 + ddrBytes h.ddrFit then .ddr
  else .unmapped

/-- Target number of a region (R361); 15 for UNMAPPED (R362). -/
def Region.target : Region → Nat
  | .rom => 0 | .flash => 1 | .sram => 2 | .image => 3 | .pool => 4 | .lantern _ => 5 | .loop _ => 6 | .scratch => 7
  | .regs _ => 8 | .ddr => 9 | .unmapped => 15

/-- Regions on which every write is refused (R361). -/
def Region.readOnly : Region → Bool
  | .rom | .flash | .pool | .lantern _ => true
  | _ => false

/-- Cacheable regions (R361). -/
def Region.cacheable : Region → Bool
  | .rom | .flash | .sram | .ddr => true
  | _ => false

/-- Island of a register block (R21); of the blocks the table of R21 does not name, FRC, RIO, XLT, ACT and MEM lie in the
memory island, SYS and GPIO in the Keeper island and ROM beside them (log entry 10, DEDUCED). -/
def blockIsland (k : Nat) : Nat :=
  if k < 4 then 0 else if k < 8 then 18 else if k < 0x10 then k - 6 else if k < 0x12 then k - 6
  else if k = 0x12 then 12 else if k < 0x17 then 13 else if k = 0x18 then 14 else if k = 0x19 then 18
  else if k < 0x28 then 15 else if k = 0x28 then 16 else if k = 0x29 then 19 else if k = 0x2A then 17
  else if k = 0x2B then 14 else if k < 0x30 then 18 else 0

/-- Island that holds a region (R21). -/
def Region.island : Region → Nat
  | .rom => 0 | .flash => 19 | .sram => 18 | .image => 18 | .pool => 18 | .lantern n => 2 + n | .loop m => 10 + m
  | .scratch => 12 | .regs k => blockIsland k | .ddr => 18 | .unmapped => 18

/-- Island of a master (R30). -/
def masterIsland (m : Nat) : Nat :=
  if m < 4 then 1 else if m = 4 then 0 else if m = 5 then 1 else if m < 8 then 18 else if m < 16 then m - 6
  else if m < 18 then m - 6 else if m = 18 then 12 else if m = 19 then 13 else if m = 20 then 14 else if m = 21 then 15
  else if m = 22 then 14 else if m = 23 then 17 else if m = 24 then 19 else 18

/-- Outstanding-transaction credits of a master (R30, R385). -/
def credits (m : Nat) : Nat :=
  if m < 4 then 32 else if m = 4 then 8 else if m = 5 then 4 else if m < 8 then 0 else if m < 16 then 2
  else if m < 18 then 4 else if m = 18 then 16 else if m = 19 then 8 else if m = 20 then 32 else if m = 21 then 8
  else if m = 22 then 8 else if m = 23 then 4 else if m = 24 then 4 else if m = 25 then 12 else if m < 64 then 0 else 4

/-! ## Ports (R27, R35-R37) -/

/-- Island that holds the target of an address. -/
def Hw.islandAt (h : Hw) (addr : Nat) : Nat := (h.region addr).island

/-- The port that a master's transaction would cross is isolated; traffic inside one island crosses none. -/
def Hw.portClosed (h : Hw) (master addr : Nat) : Bool :=
  h.islandAt addr != masterIsland master && h.bus.isolated.contains (h.islandAt addr)

/-- The record FABRIC_TIMEOUT with its parameter (R36, table of ch 01): kind 0 read, 1 write of unknown outcome, 2 write and 3
read to an isolated port. -/
def Hw.fabricRecord (h : Hw) (addr master dom kind : Nat) : Hw :=
  h.record 0x010 master dom (addr + h.islandAt addr * 2 ^ 40 + master * 2 ^ 45 + kind * 2 ^ 52)

/-- An error response with zero data. -/
def Hw.respErr (h : Hw) : Hw := { h with bus := { h.bus with resp := ⟨true, []⟩ } }

/-- A transaction to an isolated port (R37). -/
def Hw.closedPort (h : Hw) (addr master dom : Nat) (kind : TKind) : Hw :=
  (h.fabricRecord addr master dom (if kind = .write then 2 else 3)).respErr


/-- The port of an island that is being retired is isolated once none of its transactions is outstanding (R38). -/
def Hw.settlePorts (h : Hw) : Hw :=
  let busy := fun (i : Nat) => h.bus.outst.any fun t => h.islandAt t.txn.addr.toNat == i || masterIsland t.txn.master.val == i
  let free := h.bus.leaving.filter fun i => !busy i
  { h with bus := { h.bus with
      isolated := h.bus.isolated ++ free.filter fun i => !h.bus.isolated.contains i
      leaving := h.bus.leaving.filter busy } }

/-- The island of a retired engine is isolated once its outstanding transactions have ended, clock-gated and switched off (R38, R48). -/
def Hw.isolate (h : Hw) (i : Nat) : Hw :=
  let with_ := fun (l : List Nat) => if l.contains i then l else l ++ [i]
  ({ h with awake := h.awake.filter fun j => j != i
            bus := { h.bus with leaving := with_ h.bus.leaving, retired := with_ h.bus.retired } } : Hw).settlePorts

/-! ## Access tables -/

/-- A window of an access table. Row M4 is fixed: its window 0 grants R, W and X over the whole target to any domain and
its other windows are not in use (R374, log entry 11, DEDUCED). -/
def Hw.window (h : Hw) (t row w : Nat) : Window :=
  if row = 4 then (if w = 0 then ⟨7, 1 + 0xFFFFFFF * 4096⟩ else ⟨0, 0⟩)
  else Tab.getD h.windows (t * 2048 + row * 16 + w) ⟨0, 0⟩

def Window.valid (w : Window) : Bool := bitOf w.whi 0
def Window.base (w : Window) : Nat := bits w.wlo 12 28
def Window.limit (w : Window) : Nat := bits w.whi 12 28
def Window.domOk (w : Window) (dom : Nat) : Bool := !bitOf w.wlo 3 || bits w.wlo 4 8 == dom
def Window.grants (w : Window) : TKind → Bool
  | .read => bitOf w.wlo 0
  | .write => bitOf w.wlo 1
  | .fetch => bitOf w.wlo 2

/-- A window matches when it is VALID, covers the address and its domain match is met (R370). -/
def Window.hits (w : Window) (addr dom : Nat) : Bool :=
  w.valid && decide (w.base ≤ addr / 4096) && decide (addr / 4096 ≤ w.limit) && w.domOk dom

/-- What the access table of target `t` says of a transaction: `none` when it passes (R370; R371 for the image). The rows of
masters that are never issued grant nothing, whatever has been written into them (R31). -/
def Hw.tableCheck (h : Hw) (t master dom addr : Nat) (kind : TKind) : Option Cause :=
  if credits master = 0 then some .noWindow
  else if t = 3 then
    let w := h.window 3 master 0
    if kind = .fetch then some .targetRule
    else if !(w.valid && w.domOk dom) then some .noWindow
    else if w.grants kind then none else some .right
  else
    match (List.range 16).find? fun i => (h.window t master i).hits addr dom with
    | some i => if (h.window t master i).grants kind then none else some .right
    | none => some .noWindow

/-- What refuses a transaction before its target's own rules: UNMAPPED, the table, the RO attribute (R362, R370-R372). -/
def Hw.mapCheck (h : Hw) (master dom addr : Nat) (kind : TKind) : Option Cause :=
  let r := h.region addr
  if r = .unmapped then some .unmapped
  else match h.tableCheck r.target master dom addr kind with
    | some c => some c
    | none => if r.readOnly && kind == .write then some .targetRule else none

/-- The points of a range at which its pages begin. -/
def pageStarts (addr len : Nat) : List Nat :=
  addr :: ((List.range (len / 4096 + 2)).map fun i => (addr / 4096 + i) * 4096).filter fun a => addr < a && a < addr + len

/-- The first page of an access that refuses it. -/
def Hw.accessCheck (h : Hw) (master dom addr n : Nat) (kind : TKind) : Option Cause :=
  (pageStarts addr n).findSome? fun p => h.mapCheck master dom p kind

/-- Bytes of ROM, code flash, SRAM and DDR4 at an address. -/
def Hw.plainByte (h : Hw) (mem : List Host.Cell) (a : Nat) : Byte :=
  match h.region a with
  | .rom => Config.bootRom a
  | .flash => h.nvm.flashByte (a - 0x10000000)
  | _ => memGet mem a

/-! ## Memory banks (R45, R47) -/

/-- The bank of a Lantern's window that holds an offset (R111, R363): IN window, OUT staging, timers, counters, edge bits, local
words, markers to stacks, the two program banks. -/
def lanternBank (off : Nat) : Nat :=
  if off < 0x40000 then 0 else if off < 0x60000 then 1 else if off < 0x68000 then 2 else if off < 0x6C000 then 3
  else if off < 0x70000 then 4 else if off < 0x80000 then 5 else if off < 0xC0000 then 6 else if off < 0xE0000 then 7 else 8

/-- The bank that an access reaches, where its region has banks of its own (log entry 170, DESIGN CHOICE: but for general SRAM
the spec divides no memory into banks). -/
def Hw.bankAt (h : Hw) (a : Nat) : Option Bank :=
  match h.region a with
  | .sram => some (.sram ((a - 0x20000000) / 0x40000))
  | .image => some .image
  | .pool => some .pool
  | .lantern l => some (.lantern l (lanternBank (a % 0x100000)))
  | .loop m => some (.slot m (a % 0x100000 / 128))
  | .scratch => some (.scratch ((a - 0x26000000) / 0x40000))
  | _ => none

/-- A bank that is switched off wakes on its first access (R47). -/
def Hw.wakeBank (h : Hw) (b : Bank) : Hw := if h.banks.contains b then h else { h with banks := h.banks ++ [b] }

/-- The banks of a range of addresses wake: a slot of loop memory is 128 bytes, every other bank whole pages. -/
def Hw.wake (h : Hw) (addr len : Nat) : Hw :=
  (if len ≤ 512 then addr :: (List.range (len / 128 + 2)).map fun i => (addr / 128 + i) * 128 else pageStarts addr len).foldl (fun h a =>
    if addr ≤ a ∧ a < addr + len then (match h.bankAt a with
      | some b => h.wakeBank b
      | none => h) else h) h

/-- Why a block's own transaction completes with an error response: a check of its target, or an isolated port (R34, R37). -/
inductive Denied where
  | check (c : Cause) | port
  deriving DecidableEq, Repr

/-- What refuses a block's own transaction at one address. Blocks read and write ROM, flash, SRAM and DDR4 alone; another region
refuses by its rules (log entry 12, DEDUCED). -/
def Hw.denied (h : Hw) (master dom addr : Nat) (kind : TKind) : Option Denied :=
  if h.portClosed master addr then some .port
  else match h.mapCheck master dom addr kind with
    | some c => some (.check c)
    | none => if (h.region addr).cacheable then none else some (.check .targetRule)

/-- Why a range of addresses refuses a master with a domain: the first page that does. -/
def Hw.rangeCheck (h : Hw) (master dom addr len : Nat) (kind : TKind) : Option Denied :=
  (pageStarts addr len).findSome? fun p => h.denied master dom p kind

/-- What a block's own transactions over a range do beside their data: the banks wake (R47); what a target refuses is one access
violation, at the first page that refuses (R34, R377, R378), and at an isolated port one record (R37). -/
def Hw.noteRefused (h : Hw) (master dom addr len : Nat) (kind : TKind) : Hw :=
  match (pageStarts addr len).findSome? fun p => (h.denied master dom p kind).map fun d => (p, d) with
  | some (p, .check c) => h.violation p master dom (h.region p).target kind c
  | some (p, .port) => h.closedPort p master dom kind
  | none => h.wake addr len

/-- A block's read of `n` bytes as a master with a domain: the bytes, or why it was refused (R34). -/
def Hw.readAs (h : Hw) (mem : List Host.Cell) (master dom addr n : Nat) : Except Denied (List Byte) :=
  match h.rangeCheck master dom addr n .read with
  | some c => .error c
  | none => .ok ((List.range n).map fun i => h.plainByte mem (addr + i))

/-- Why a block may not write `n` bytes at an address as a master with a domain. -/
def Hw.writeAs (h : Hw) (master dom addr n : Nat) : Option Denied := h.rangeCheck master dom addr n .write

/-- A write that reaches a target outside general memory as a transaction of its own: an isolated port and the access table
refuse it (R34, R37), else the target's rules take it. -/
def Hw.asWrite (h : Hw) (src : Src) (addr n : Nat) (f : Hw → Hw) : Hw :=
  let m := src.master.val
  if h.portClosed m addr then
    let h := h.closedPort addr m src.dom.toNat .write
    if m < 4 then h.hostExc m .storeFault else h
  else match h.accessCheck m src.dom.toNat addr n .write with
    | some c => h.violation addr m src.dom.toNat (h.region addr).target .write c
    | none => f (h.wake addr n)

/-- Why a read of a target by its own rules as a transaction of a master is refused (R34, R37). -/
def Hw.rangeRefused (h : Hw) (master dom addr n : Nat) : Option Denied :=
  if h.portClosed master addr then some .port else (h.accessCheck master dom addr n .read).map .check

/-- What such a read does beside its data. -/
def Hw.noteRead (h : Hw) (master dom addr n : Nat) : Hw :=
  match h.rangeRefused master dom addr n with
  | some (.check c) => h.violation addr master dom (h.region addr).target .read c
  | some .port => h.closedPort addr master dom .read
  | none => h.wake addr n

/-! ## Errors that reads meet (R35, R368) -/

/-- Corrected errors of SRAM or DDR4. -/
def Hw.memCorrected (h : Hw) (ddr : Bool) (n : Nat) : Hw :=
  if ddr then h.countS MEM_DDRCE_COUNT MEM_DDRCE_SAT 217 n else h.countS MEM_SRAMCE_COUNT MEM_SRAMCE_SAT 221 n

def Hw.ueAddr (h : Hw) (a src : Nat) : Hw :=
  ((h.setFld MEM_UEADDR_ADDR a).setFld MEM_UEADDR_SRC src).setFlag MEM_UEADDR_VALID true

/-- An uncorrectable error of SRAM or DDR4 (R368). -/
def Hw.memUe (h : Hw) (ddr : Bool) (a : Nat) : Hw :=
  if ddr then ((h.ueAddr a 1).countS MEM_DDRUE_COUNT MEM_DDRUE_SAT 217 1).raise 216
  else ((h.ueAddr a 0).countS MEM_SRAMUE_COUNT MEM_SRAMUE_SAT 221 1).raise 219

/-- Corrected lines of the flash (R527), and an UNCORRECTABLE line of the flash read window (R483). -/
def Hw.flashCorrected (h : Hw) : Hw := h.countS NVM_CECNT_COUNT NVM_CECNT_SAT 175 1
def Hw.flashUe (h : Hw) (a : Nat) : Hw :=
  ((h.setFld NVM_UEADDR ((a - 0x10000000) / 16 * 16)).setFlag NVM_UEADDR_UEVALID true).countS NVM_LOSTCNT_COUNT NVM_LOSTCNT_SAT 175 1

/-- Regions whose reads report errors. -/
def Region.checked : Region → Bool
  | .sram | .ddr | .flash => true
  | _ => false

/-- A corrected error, and an uncorrectable one, that a read meets at an address. -/
def Hw.readCorrected (h : Hw) (a : Nat) : Hw :=
  if h.region a = .flash then h.flashCorrected else h.memCorrected (h.region a == .ddr) 1
def Hw.readUe (h : Hw) (a : Nat) : Hw := if h.region a = .flash then h.flashUe a else h.memUe (h.region a == .ddr) a

/-- A target port whose response does not come in 20 µs is isolated; the transaction ends with an error response, E6 and its record
(R35). -/
def Hw.timedOut (h : Hw) (addr master dom kind : Nat) : Hw :=
  let i := h.islandAt addr
  let h := if h.bus.isolated.contains i then h
    else { h with bus := { h.bus with isolated := h.bus.isolated ++ [i], isoAt := Tab.put h.bus.isoAt i h.tfree } }
  ((h.raise 6).fabricRecord addr master dom kind).respErr

/-- The offset at which a block's reads end with an error; traffic inside one island cannot time out, and SRAM, DDR4 and the flash
hold uncorrectable errors (R368, R483). -/
def Hw.failsAt (h : Hw) (master addr : Nat) (fate : ReadFate) : Option Nat :=
  match fate with
  | .answered => none
  | .silent o => if h.islandAt (addr + o) = masterIsland master then none else some o
  | .uncorrectable o => if (h.region (addr + o)).checked then some o else none

/-- What the error of a block's read does beside ending the block's operation. -/
def Hw.noteFate (h : Hw) (master dom addr : Nat) (fate : ReadFate) : Hw :=
  match fate with
  | .answered => h
  | .silent o => h.timedOut (addr + o) master dom 0
  | .uncorrectable o => (h.readUe (addr + o)).respErr

/-! ## The ACT block (R375, R376) -/

def actAddr (off : Nat) : Nat := 0x302E0000 + off

/-- A refused write of the ACT block (R375). -/
def Hw.actRefuse (h : Hw) : Hw := (h.setFlag ACT_STAT_WREF true).raise 209

/-- Who may write SEL, WLO, WHI, CMD and the W1C bits (R375): M4 always, M0-M3 under HOSTWR without LOCK in D0 (others of
M0-M3 are refused), any other master not at all. -/
def Hw.actWriter (h : Hw) (src : Src) (off : Nat) (f : Hw → Hw) : Hw :=
  if isKeeper src then f h
  else if src.master.val < 4 then
    if h.flag ACT_CTRL_HOSTWR && !h.flag ACT_CTRL_LOCK && isD0 src then f h else h.actRefuse
  else h.refuseReg src (actAddr off)

/-- ACT.CMD.RD loads WLO and WHI from the selected window (R376). -/
def actRead (h : Hw) : Hw :=
  let t := h.fld ACT_SEL_TGT
  if 10 ≤ t then h.actRefuse
  else
    let w := h.window t (h.fld ACT_SEL_ROW) (h.fld ACT_SEL_WIN)
    let h := (h.regStore (actAddr 0x10) w.wlo)
    h.regStore (actAddr 0x18) w.whi

/-- WLO and WHI as words. -/
def Hw.wlo (h : Hw) : Nat :=
  h.fld ACT_WLO_R + 2 * h.fld ACT_WLO_W + 4 * h.fld ACT_WLO_X + 8 * h.fld ACT_WLO_DMODE + 16 * h.fld ACT_WLO_DOM
    + 4096 * h.fld ACT_WLO_BASE
def Hw.whi (h : Hw) : Nat := h.fld ACT_WHI_VALID + 4096 * h.fld ACT_WHI_LIMIT

/-- ACT.CMD.WR writes the selected window whole (R376); row M4 cannot be written (R374). -/
def actWrite (h : Hw) : Hw :=
  let t := h.fld ACT_SEL_TGT
  let row := h.fld ACT_SEL_ROW
  if 10 ≤ t ∨ row = 4 then h.actRefuse
  else
    { h with windows := Tab.put h.windows (t * 2048 + row * 16 + h.fld ACT_SEL_WIN) ⟨h.wlo, h.whi⟩ }

/-- A write of ACT.CMD with both bits is refused, with neither does nothing (R376). -/
def actCmd (rd wr : Bool) (h : Hw) : Hw :=
  if rd && wr then h.actRefuse else if rd then actRead h else if wr then actWrite h else h

/-- A write of ACT.CTRL (R375): M4 writes HOSTWR and sets LOCK; M0-M3 in D0 set LOCK and change nothing else. -/
def actCtrl (src : Src) (hostwr : Option Bool) (lock : Bool) (h : Hw) : Hw :=
  if isKeeper src then
    let h := match hostwr with
      | some b => h.setFlag ACT_CTRL_HOSTWR b
      | none => h
    if lock then h.setFlag ACT_CTRL_LOCK true else h
  else if src.master.val < 4 then
    if isD0 src then (if lock then h.setFlag ACT_CTRL_LOCK true else h) else h.actRefuse
  else h.refuseReg src (actAddr 0)

/-! ## Meanings -/

def execActRd (src : Src) (s : State) : Host.Outcome State Fault Refusal :=
  .next (s.onHw fun h => h.actWriter src 0xC (actCmd true false))
def execActWr (src : Src) (s : State) : Host.Outcome State Fault Refusal :=
  .next (s.onHw fun h => h.actWriter src 0xC (actCmd false true))
def execHostwr (src : Src) (allow : Bool) (s : State) : Host.Outcome State Fault Refusal :=
  .next (s.onHw (actCtrl src (some allow) false))
def execActLock (src : Src) (s : State) : Host.Outcome State Fault Refusal :=
  .next (s.onHw (actCtrl src none true))

end Sys2Proof.Machine
end

