-- ==== Sys2Proof/Machine/Cache.lean ====
section
/-! DEFINITION. The caches of the host cores (09 R353, R355-R359): an instruction and a data cache for each core, the L2 they
share, what an access does in them, and what a write of another master does to them. Where the spec leaves the organisation of the
caches open, log entry 171, DESIGN CHOICE, says what the model takes. -/

namespace Sys2Proof.Machine

/-! ## Lines -/

/-- Lines that the caches hold: 32 KiB and 1 MiB in lines of 64 bytes (R355). -/
def l1Lines : Nat := 512
def l2Lines : Nat := 16384

def lineOf (a : Nat) : Nat := a / 64 * 64

/-- The cache lines of an access. -/
def linesOf (addr n : Nat) : List Nat :=
  ((List.range (n / 64 + 2)).map fun i => lineOf addr + 64 * i).filter fun la => la < addr + n

/-- Lines of every data cache at an address, with the core. -/
def Hw.linesAt (h : Hw) (la : Nat) : List (Nat × Line) :=
  (h.cores.map fun e => (e.2.lines.filter fun l => l.addr == la).map fun l => (e.1, l)).flatten

/-- The line of a core's data cache, of its instruction cache, of the L2. -/
def Hw.dLine (h : Hw) (k la : Nat) : Option Line := (h.core k).lines.find? fun l => l.addr == la
def Hw.iLine (h : Hw) (k la : Nat) : Option ILine := (h.core k).code.find? fun l => l.addr == la
def Hw.l2Line (h : Hw) (la : Nat) : Option Line := h.l2.find? fun l => l.addr == la

/-- A line leaves a data cache, an instruction cache, the L2; every line leaves an instruction cache (FENCE.I, R359). -/
def Hw.dropLine (h : Hw) (k la : Nat) : Hw :=
  h.setCore k { h.core k with lines := (h.core k).lines.filter fun l => l.addr != la }
def Hw.dropCode (h : Hw) (k la : Nat) : Hw :=
  h.setCore k { h.core k with code := (h.core k).code.filter fun l => l.addr != la }
def Hw.dropL2 (h : Hw) (la : Nat) : Hw := { h with l2 := h.l2.filter fun l => l.addr != la }
def Hw.fenceI (h : Hw) (k : Nat) : Hw := h.setCore k { h.core k with code := [] }

/-- The bytes beneath changed ones come back. -/
def restoreBytes (mem : List Host.Cell) (t : Tab Byte) : List Host.Cell := t.foldl (fun m e => memPut m e.1 e.2) mem

/-- What a line below an upper one holds once the upper line's changes have reached it: the bytes that it already changed keep what
lay beneath them. -/
def joinUnder (lower upper : Tab Byte) : Tab Byte :=
  upper.foldl (fun t e => if (Tab.get? t e.1).isSome then t else Tab.put t e.1 e.2) lower

/-- A line of the L2 takes over the changes of a data-cache line of its address. -/
def Line.absorb (q l : Line) : Line :=
  { q with under := joinUnder q.under l.under, writable := q.writable || l.writable, core := if l.under.isEmpty then q.core else l.core }

/-- The data-cache lines at an address hand their changes to the L2's line; they stay, unchanged, or leave. -/
def Hw.pullDown (h : Hw) (la : Nat) (leave : Nat → Bool) : Hw :=
  let ls := h.linesAt la
  let h := { h with l2 := h.l2.map fun q => if q.addr = la then ls.foldl (fun q e => q.absorb e.2) q else q }
  ls.foldl (fun h e =>
    if leave e.1 then h.dropLine e.1 la
    else h.setCore e.1 { h.core e.1 with lines := (h.core e.1).lines.map fun l => if l.addr = la then { l with under := [] } else l }) h

/-! ## Writebacks (R353, R358) -/

/-- A line with changes is written to its target with its own domain. One that the target refuses is dropped: its data are lost and
the violation is recorded, and no core takes an exception (R358, R377); an isolated port writes nothing (R37). A writeback that gets
no response in 20 µs isolates the port, and whether it was performed is not known: a free value says (R35, R36). -/
def State.lineOut (l : Line) (answered : Bool) (s : State) : State :=
  if l.under.isEmpty then s
  else match s.hw.denied l.core l.dom l.addr .write with
    | none =>
      if answered then s.onHw fun h => h.wake l.addr 64
      else
        let s := if s.hw.freeVal 1 = 1 then s else { s with mem := restoreBytes s.mem l.under }
        s.onHw fun h => h.useFree.timedOut l.addr l.core l.dom 1
    | some (.check c) =>
      { s with mem := restoreBytes s.mem l.under, hw := s.hw.recordRefused l.addr l.core l.dom (s.hw.region l.addr).target .write c }
    | some .port => { s with mem := restoreBytes s.mem l.under, hw := s.hw.fabricRecord l.addr l.core l.dom 2 }

/-- The lines at an address leave the data caches and the L2, written back when they hold changes; the writeback is answered or not. -/
def State.flushLineWith (answered : Bool) (la : Nat) (s : State) : State :=
  let s := s.onHw fun h => h.pullDown la fun _ => true
  match s.hw.l2Line la with
  | some l => (s.onHw fun h => h.dropL2 la).lineOut l answered
  | none => s
def State.flushLine (la : Nat) (s : State) : State := s.flushLineWith true la

/-- The line that leaves a full cache: a free value picks it. -/
def victimOf {α : Type} (h : Hw) (ls : List α) : Option α := ls[h.freeVal 32 % ls.length]?

/-! ## What an access finds (R356, R357) -/

/-- A line of the data caches or of the L2 at an address holds another domain. -/
def Hw.foreign (h : Hw) (dom la : Nat) : Bool :=
  (h.linesAt la).any (fun e => e.2.dom != dom) || (match h.l2Line la with
    | some l => l.dom != dom
    | none => false)

/-- A core's access hits its own cache: no transaction leaves it. -/
def Hw.l1Hit (h : Hw) (k dom la : Nat) (kind : TKind) : Bool :=
  match kind with
  | .fetch => match h.iLine k la with
    | some l => l.dom == dom
    | none => false
  | _ => match h.dLine k la with
    | some l => l.dom == dom && (kind != .write || l.writable)
    | none => false

/-- The L2 holds the line for the domain, with write permission where it is needed. -/
def Hw.l2Hit (h : Hw) (dom la : Nat) (kind : TKind) : Bool :=
  match h.l2Line la with
  | some l => l.dom == dom && (kind != .write || l.writable)
  | none => false

/-- No line of an access needs its target: a foreign line never serves it. -/
def Hw.served (h : Hw) (k dom : Nat) (kind : TKind) (addr n : Nat) : Bool :=
  (linesOf addr n).all fun la => h.l1Hit k dom la kind || (!h.foreign dom la && h.l2Hit dom la kind)

/-- Lines of another domain at an address are written back and invalidated; so is such a line of the core's instruction cache for a
fetch (R356). -/
def State.conform (k dom : Nat) (kind : TKind) (la : Nat) (s : State) : State :=
  let s := match s.hw.iLine k la with
    | some l => if kind = .fetch ∧ l.dom ≠ dom then s.onHw fun h => h.dropCode k la else s
    | none => s
  if kind = .fetch ∧ s.hw.l1Hit k dom la kind = true then s
  else if s.hw.foreign dom la then s.flushLine la else s

/-! ## Fills -/

/-- Bytes of a line as a fill reads them. -/
def Hw.lineBytes (h : Hw) (mem : List Host.Cell) (la : Nat) : List Byte := (List.range 64).map fun i => h.plainByte mem (la + i)

/-- The memory island keeps lines of this region coherent (R359). -/
def Hw.coherent (h : Hw) (la : Nat) : Bool :=
  match h.region la with
  | .sram | .ddr => true
  | _ => false

/-- The L2 takes a line from its target, or write permission for one it holds; a full L2 gives up a line. -/
def State.fillL2 (k dom la : Nat) (write : Bool) (s : State) : State :=
  match s.hw.l2Line la with
  | some _ => s.onHw fun h => { h with l2 := h.l2.map fun q => if q.addr = la then { q with writable := q.writable || write } else q }
  | none =>
    let s := if s.hw.l2.length < l2Lines then s
      else match victimOf s.hw s.hw.l2 with
        | some v => (s.onHw Hw.useFree).flushLine v.addr
        | none => s
    s.onHw fun h => { h with l2 := h.l2 ++ [⟨la, dom, k, write, [], if h.coherent la then [] else h.lineBytes s.mem la⟩] }

/-- The data cache of a core takes a line that the L2 holds. For a store the line leaves the other cores; for a load their changes
reach the L2. A full cache gives up a line to the L2. -/
def Hw.fillD (h : Hw) (k dom la : Nat) (write : Bool) : Hw :=
  let h := h.pullDown la fun j => write && j != k
  match h.dLine k la with
  | some _ => h.setCore k { h.core k with lines := (h.core k).lines.map fun l => if l.addr = la then { l with writable := l.writable || write } else l }
  | none =>
    let h := if (h.core k).lines.length < l1Lines then h
      else match victimOf h (h.core k).lines with
        | some v => h.useFree.pullDown v.addr fun j => j == k
        | none => h
    let q := (h.l2Line la).getD ⟨la, dom, k, write, [], []⟩
    h.setCore k { h.core k with lines := (h.core k).lines ++ [⟨la, dom, k, q.writable, [], q.copy⟩] }

/-- The instruction cache of a core takes a line as the L2 gives it: what the data caches hold changed is in it (R359). -/
def Hw.fillI (h : Hw) (mem : List Host.Cell) (k dom la : Nat) : Hw :=
  let h := h.dropCode k la
  let h := if (h.core k).code.length < l1Lines then h
    else match victimOf h (h.core k).code with
      | some v => h.useFree.dropCode k v.addr
      | none => h
  let bs := match h.l2Line la with
    | some q => if q.copy.isEmpty then h.lineBytes mem la else q.copy
    | none => h.lineBytes mem la
  h.setCore k { h.core k with code := (h.core k).code ++ [⟨la, dom, bs⟩] }

/-- A line comes into the core's cache for an access that its target has allowed. -/
def State.fill (k dom : Nat) (kind : TKind) (la : Nat) (s : State) : State :=
  let write := kind == .write
  if s.hw.l1Hit k dom la kind && !write then s
  else
    let s := s.fillL2 k dom la write
    s.onHw fun h => if kind = .fetch then h.fillI s.mem k dom la else h.fillD k dom la write

/-! ## Loads, fetches and stores in the cache -/

/-- A byte that a core's load or fetch finds in its cache. -/
def Hw.cachedByte (h : Hw) (mem : List Host.Cell) (k : Nat) (kind : TKind) (a : Nat) : Byte :=
  let la := lineOf a
  match kind with
  | .fetch => match h.iLine k la with
    | some l => l.data.getD (a - la) 0#8
    | none => h.plainByte mem a
  | _ => match h.dLine k la with
    | some l => if l.copy.isEmpty then h.plainByte mem a else l.copy.getD (a - la) 0#8
    | none => h.plainByte mem a

/-- A stored byte marks in its line what the byte was. -/
def Line.mark (l : Line) (mem : List Host.Cell) (k a : Nat) : Line :=
  if l.addr = lineOf a ∧ (Tab.get? l.under a).isNone = true then { l with core := k, under := Tab.put l.under a (memGet mem a) } else l

/-- A store marks what its bytes had been in the lines of the core's data cache. -/
def Hw.markStored (h : Hw) (mem : List Host.Cell) (k addr n : Nat) : Hw :=
  h.setCore k { h.core k with lines := (h.core k).lines.map fun l => (List.range n).foldl (fun l i => l.mark mem k (addr + i)) l }

/-- An access whose lines the core's cache holds. -/
def State.inCache (k : Nat) (kind : TKind) (addr n : Nat) (data : List Byte) (s : State) : State :=
  if kind = .write then
    { s with mem := memWrite s.mem addr data, hw := (s.hw.markStored s.mem k addr n).respond [] }
  else s.onHw fun h => h.respond ((List.range n).map fun i => h.cachedByte s.mem k kind (addr + i))

/-! ## Writes of other masters (R359) -/

/-- Every line that a write touches leaves the data caches and the L2. -/
def State.evictAll (addr n : Nat) (s : State) : State := (linesOf addr n).foldl (fun s la => s.flushLine la) s

/-- A block stores bytes in general memory: the caches stay coherent. The instruction caches do not follow (R359). -/
def State.blockWrite (addr : Nat) (data : List Byte) (s : State) : State :=
  let s := s.evictAll addr data.length
  { s with mem := memWrite s.mem addr data, hw := s.hw.wake addr data.length }

end Sys2Proof.Machine
end

