-- ==== Sys2Proof/Machine/Logbook.lean ====
section
/-! DEFINITION. Events raised by software and claimed, and the Logbook (15). -/

namespace Sys2Proof.Machine

def evtAddr (off : Nat) : Nat := 0x30020000 + off
def logAddr (off : Nat) : Nat := 0x30030000 + off

/-! ## Software events and claims -/

/-- R557. -/
def swRaise (src : Src) (n : Nat) (h : Hw) : Hw :=
  if isD0 src || src.dom.toNat == h.fld (EVT_SWDOM_DOM n) then h.raise (224 + n) else h.setFlag EVT_STAT_SWREF true

/-- The lowest-numbered pending event of context `c`. -/
def Hw.lowestPend (h : Hw) (c : Nat) : Option Nat := (List.range 256).find? fun n => h.fldBit (EVT_PEND c (n / 64)) (n % 64)

/-- A read of a context's CLAIM returns and clears its lowest pending event (R559). Only M4 reaches context 8. -/
def claim (src : Src) (c : Nat) (h : Hw) : Hw :=
  if c = 8 ∧ isKeeper src = false then
    h.violation (evtAddr 0x9000) src.master.val src.dom.toNat 8 .read .targetRule
  else
    match h.lowestPend c with
    | some n => (h.setFldBit (EVT_PEND c (n / 64)) (n % 64) false).respond (toBytes 4 (n + 256))
    | none => h.respond (toBytes 4 0)

/-! ## Writing records (R562-R570) -/

/-- Bytes 0-23 of a record (R562). -/
def LogRec.bytes (r : LogRec) : List Byte :=
  toBytes 2 r.code ++ toBytes 1 (r.sev + 8 * b2n r.sum) ++ toBytes 1 r.master ++ toBytes 1 r.dom ++ toBytes 3 r.pcyc
    ++ toBytes 8 r.param ++ toBytes 4 r.optime ++ toBytes 4 r.seq

/-- The 32 bytes of a record. -/
def LogRec.all (r : LogRec) : List Byte := r.bytes ++ toBytes 8 r.tag.toNat

/-- TAG of a record after the record before it; 0 while K4 is not loaded (R562, R564). Before the first record the chain
starts from 0 (log entry 13, DESIGN CHOICE). -/
def Hw.logTagOf (h : Hw) (r : LogRec) (prev : Option LogRec) : BitVec 64 :=
  if h.flag (KEY_ENG_STAT_LOADED 4) then
    Config.logTag r.bytes (match prev with
      | some p => p.tag
      | none => 0#64)
  else 0#64

/-- Records in a batch (R570). -/
def logBatchLen : Nat := 126

/-- 126 records that are in no batch form the next one (R570). -/
def Hw.formBatch (h : Hw) : Hw :=
  if h.log.fresh < logBatchLen then h
  else
    let recs := h.log.ring.drop (h.log.ring.length - logBatchLen)
    let h := h.submit 0x2001 (h.log.batch % 131) (recs.map LogRec.all).flatten .logBatch
    { h with log := { h.log with fresh := 0, batch := h.log.batch + 1 } }

/-- A record takes the next SEQ and enters the tail, or is lost while the tail is full (R563, R570). The ring keeps the
newest 16,384 (R571). -/
def Hw.logWriteRec (h : Hw) (r : LogRec) : Hw :=
  if h.fld LOG_TAIL = 768 then
    let h := (h.countS LOG_LOSTCNT_COUNT LOG_LOSTCNT_SAT 190 1).raise 189
    { h with log := { h.log with lost := h.log.lost + 1 } }
  else
    let h := h.countW LOG_SEQ 1
    let r := { r with seq := h.fld LOG_SEQ, pcyc := h.fld (NVM_CNT_VALUE 1) % 2 ^ 24, optime := h.fld (NVM_CNT_VALUE 0) % 2 ^ 32 }
    let r := { r with tag := h.logTagOf r h.log.ring.getLast? }
    let ring := h.log.ring ++ [r]
    let h := { h with log := { h.log with ring := ring.drop (ring.length - 16384), fresh := h.log.fresh + 1 } }
    let h := h.setFld LOG_TAIL (h.fld LOG_TAIL + 1)
    let h := (h.setFlag LOG_STAT_TAILFULL (h.fld LOG_TAIL == 768)).formBatch
    let h := if r.sev ≥ h.fld LOG_CTRL_NOTIFYSEV then h.raise 184 else h
    if r.sum then h.raise 185 else h

/-- The rate window of a code closes; suppressed occurrences are summed in one record (R567). -/
def closeWin (c : Nat) (h : Hw) : Hw :=
  match Tab.get? h.log.wins c with
  | none => h
  | some w =>
    let h := { h with log := { h.log with wins := Tab.del h.log.wins c } }
    if w.supp = 0 then h
    else
      let r : LogRec := ⟨h.tfree, 0x001, sevOf 0x001, true, w.master, 0, c + min w.supp (2 ^ 32 - 1) * 2 ^ 16, 0, 0, 0, 0#64⟩
      { h with log := { h.log with arriving := LogRec.insert r h.log.arriving } }

/-- The time of a window's close has come (R567). -/
def rateClose (c : Nat) (h : Hw) : Hw :=
  match Tab.get? h.log.wins c with
  | some w => if atOrAfter h.tfree w.close then closeWin c h else h
  | none => h

/-- The window of a code that holds for an occurrence now: a window past its close is closed first (R568), and one is
opened with the limit read now where none is open (R567). -/
def Hw.winFor (h : Hw) (c : Nat) : Hw × RateWin :=
  let h := rateClose c h
  match Tab.get? h.log.wins c with
  | some w => (h, w)
  | none =>
    let secs := if h.fld (LOG_RLIM_W c) = 0 then 1 else h.fld (LOG_RLIM_W c)
    (h, ⟨h.fld (LOG_RLIM_N c), (h.tfree + secs * 1000000000) % 2 ^ 64, 0, 0, 0⟩)

/-- A record at the Logbook's input is written or suppressed (R567-R569). -/
def Hw.logOccur (h : Hw) (r : LogRec) : Hw :=
  if r.sev = 5 then h.logWriteRec r
  else
    let (h, w) := h.winFor r.code
    if w.count < w.n then
      let h := { h with log := { h.log with wins := Tab.put h.log.wins r.code { w with count := w.count + 1 } } }
      h.logWriteRec r
    else
      let w := { w with count := w.count + 1, supp := w.supp + 1, master := r.master }
      let h := { h with log := { h.log with wins := Tab.put h.log.wins r.code w } }
      h.countS LOG_SUPCNT_COUNT LOG_SUPCNT_SAT 190 1

/-- The next record at the Logbook's input is taken (R563). -/
def logTake (h : Hw) : Hw :=
  match h.log.arriving with
  | [] => h
  | r :: rs => ({ h with log := { h.log with arriving := rs } } : Hw).logOccur r

/-- A batch has committed: its records leave the tail, and a loss is recorded once there is space (R570). -/
def Hw.logBatchDone (h : Hw) : Hw :=
  let h := (h.setFld LOG_TAIL (h.fld LOG_TAIL - logBatchLen)).setFlag LOG_STAT_TAILFULL false
  if h.log.lost = 0 then h
  else
    let n := h.log.lost
    let h := { h with log := { h.log with lost := 0 } }
    (h.record 0x002 h.noMaster 0 (n % 2 ^ 32)).useFree

/-- A host record (R566). -/
def logWrite (src : Src) (code sev : Nat) (h : Hw) : Hw :=
  if code < 512 ∨ 4 < sev then h.setFlag LOG_STAT_WREF true
  else h.present code sev src.master.val src.dom.toNat (h.fld LOG_WPARAM)

/-! ## Reader ports (R572, R573) -/

def logNext (src : Src) (p : Nat) (h : Hw) : Hw :=
  ({ h with log := { h.log with search := Tab.put h.log.search p ⟨src.dom.toNat⟩ } } : Hw).setFlag (LOG_RD_STAT_BUSY p) true

/-- The record before one in the ring, by SEQ. -/
def Hw.logPrev (h : Hw) (r : LogRec) : Option LogRec := h.log.ring.find? fun q => q.seq == (r.seq + 2 ^ 32 - 1) % 2 ^ 32

/-- VER of a record (R573). -/
def Hw.logVerify (h : Hw) (r : LogRec) : Nat :=
  match h.logPrev r with
  | none => 2
  | some q => if h.logTagOf r (some q) = r.tag then 0 else 1

/-- A search ends (R572, R573). -/
def readerDone (p : Nat) (h : Hw) : Hw :=
  match Tab.get? h.log.search p with
  | none => h
  | some q =>
    let cur := h.fld (LOG_RD_CUR p)
    let h := ({ h with log := { h.log with search := Tab.del h.log.search p } } : Hw).setFlag (LOG_RD_STAT_BUSY p) false
    match h.log.ring.find? fun r => !seqNewer cur r.seq && (q.dom == 0 || r.dom == q.dom) with
    | none => h.setFlag (LOG_RD_STAT_VALID p) false
    | some r =>
      let ver := h.logVerify r
      let h := (List.range 4).foldl (fun h i => h.setFld (LOG_RD_DATA p i) (ofBytes ((r.all.drop (8 * i)).take 8))) h
      let h := ((h.setFld (LOG_RD_CUR p) (r.seq + 1)).setFlag (LOG_RD_STAT_VALID p) true).setFld (LOG_RD_STAT_VER p) ver
      let h := h.setFlag (LOG_RD_STAT_GAP p) (q.dom == 0 && r.seq != cur)
      if ver = 1 then (h.countS LOG_INTCNT_COUNT LOG_INTCNT_SAT 190 1).raise 188 else h

/-! ## Clearing (R574, R575) -/

/-- A clear blob is submitted; one that comes while a clear is in progress is not taken (log entry 13, DESIGN CHOICE). -/
def logClear (src : Src) (addr : Nat) (h : Hw) : Hw :=
  if h.flag LOG_STAT_CLRBUSY then h
  else
    let h := (h.setFld LOG_CLRADDR addr).setFlag LOG_STAT_CLRBUSY true
    { h with log := { h.log with clear := some ⟨src.master.val, src.dom.toNat, addr⟩ } }

/-- Value of a PUBKEY node: the SHA-256 of its key, held in the key RAM (R534 table). -/
def Hw.pubkeyOf (h : Hw) (node : Nat) : List Byte := Tab.getD h.key.val node []

/-- Whether a node is a valid PUBKEY node of a domain with ECC in its mask. -/
def Hw.isPubkey (h : Hw) (node dom : Nat) : Bool :=
  h.fld (KEY_K_W0_STATE node) == 1 && h.fld (KEY_K_W0_KIND node) == 2 && h.fld (KEY_K_W0_DOM node) == dom
    && h.fldBit (KEY_K_W0_MASK node) 5

/-- Whether a clear blob is accepted (R574). -/
def Hw.clearBlobOk (h : Hw) (blob : List Byte) : Bool :=
  let node := ofBytes ((blob.drop 8).take 2)
  let alg := ofBytes ((blob.drop 10).take 1)
  let n := if alg = 0 then 64 else 96
  let key := (blob.drop 16).take n
  let body := blob.take (16 + n)
  ofBytes (blob.take 8) == h.fld LOG_NONCE && node == h.fld LOG_CLRKEY && h.isPubkey node 0
    && Config.sha256 key == h.pubkeyOf node && Config.ecdsaVerify (alg == 1) key body ((blob.drop (16 + n)).take n)

/-- An accepted clear: the records written so far are removed, batches that wait with them, and LOG_CLEARED remains in a batch that
commits in one transaction with its EPOCH record (R575); whether the transaction was committed. -/
def Hw.clearAll (h : Hw) (q : LogClearReq) (node : Nat) : Hw × Bool :=
  let h := h.log.arriving.foldl (fun (h : Hw) _ => logTake h) h
  let drop (l : List NvmReq) : List NvmReq := l.filter fun r => r.purpose != .logBatch
  let h := { h with
    nvm := { h.nvm with reqs := drop h.nvm.reqs, open_ := Tab.keep (Tab.mapVal h.nvm.open_ fun _ g => drop g) fun _ g => !g.isEmpty }
    log := { h.log with fresh := 0 } }
  let n := h.log.ring.length
  let h := (h.setFld LOG_TAIL 0).setFlag LOG_STAT_TAILFULL false
  let h := h.logWriteRec ⟨h.tfree, 0x000, 5, false, q.master, q.dom, n % 2 ^ 32 + node * 2 ^ 32, 0, 0, 0, 0#64⟩
  let h := { h with log := { h.log with ring := h.log.ring.drop (h.log.ring.length - 1) } }
  let (h, ok) := h.commitTx [(0x2002, 0, toBytes 4 (h.fld LOG_SEQ)), (0x2001, h.log.batch % 131, (h.log.ring.map LogRec.all).flatten)]
  let h := { h with log := { h.log with fresh := 0, batch := h.log.batch + 1 } }
  (((h.setFld LOG_EPOCH (h.fld LOG_SEQ)).setFld LOG_TAIL 0).raise 186, ok)

/-- The verdict on a clear blob: an accepted one clears, another is recorded as refused. Every attempt replaces the nonce (R574). An
accepted clear that the record store cannot take yet, for want of its key or of a sector, stays in progress. -/
def clearVerdict (mem : List Host.Cell) (h : Hw) : Hw :=
  if h.sys.down.isSome then h
  else match h.log.clear with
  | none => h
  | some q =>
    let blob := match h.readAs mem 4 0 q.addr 208 with
      | .ok b => b
      | .error _ => []
    let h := h.noteRefused 4 0 q.addr 208 .read
    let was := h
    let ok := h.clearBlobOk blob
    let h := ((h.setFld LOG_NONCE (h.freeVal 64)).useFree).setFlag LOG_STAT_CLRBUSY false
    let h := { h with log := { h.log with clear := none } }
    if ok then
      let (cleared, done) := h.clearAll q (ofBytes ((blob.drop 8).take 2))
      if done && h.cipherReady then cleared else was
    else
      ((h.setFlag LOG_STAT_CLRREF true).raise 187).recordFree 0x003 q.master q.dom

/-! ## Meanings -/

def execSwraise (src : Src) (n : Fin 32) (s : State) : Host.Outcome State Fault Refusal := .next (s.onHw (swRaise src n.val))
def execClaim (src : Src) (c : Fin 9) (s : State) : Host.Outcome State Fault Refusal := .next (s.onHw (claim src c.val))
def execLogRecord (s : State) : Host.Outcome State Fault Refusal := .next (s.onHw logTake)
def execRateWindowClose (code : Fin 1024) (s : State) : Host.Outcome State Fault Refusal := .next (s.onHw (rateClose code.val))
def execLogWrite (src : Src) (code : BitVec 10) (sev : BitVec 3) (s : State) : Host.Outcome State Fault Refusal :=
  .next (s.onHw (logWrite src code.toNat sev.toNat))
def execLogNext (src : Src) (p : Fin 8) (s : State) : Host.Outcome State Fault Refusal := .next (s.onHw (logNext src p.val))
def execReaderDone (p : Fin 8) (s : State) : Host.Outcome State Fault Refusal := .next (s.onHw (readerDone p.val))
def execLogClear (src : Src) (addr : BitVec 40) (s : State) : Host.Outcome State Fault Refusal :=
  .next (s.onHw (logClear src addr.toNat))
def execClearVerdict (s : State) : Host.Outcome State Fault Refusal := .next (s.onHw (clearVerdict s.mem))

end Sys2Proof.Machine
end

