-- ==== Sys2Proof/Machine/F32.lean ====
section
/-! DEFINITION. IEEE 754 binary32 as R140 has it: results rounded to nearest even, subnormal operands read as zeros,
results subnormal after rounding written as zeros, one quiet NaN. Values are computed exactly and rounded once. -/

namespace Sys2Proof.F32

/-- What a word holds: NaN, an infinity, a zero (a subnormal is read as one), or mant * 2^exp with 24 significant bits. -/
inductive Num where
  | nan
  | inf (neg : Bool)
  | zero (neg : Bool)
  | fin (neg : Bool) (mant : Nat) (exp : Int)
  deriving DecidableEq, Repr

def nanWord : Word := 0x7FC00000#32
def infWord (neg : Bool) : Word := if neg then 0xFF800000#32 else 0x7F800000#32
def zeroWord (neg : Bool) : Word := if neg then 0x80000000#32 else 0#32

def neg (w : Word) : Bool := w.getLsbD 31
def expo (w : Word) : Nat := (w.extractLsb' 23 8).toNat
def frac (w : Word) : Nat := (w.extractLsb' 0 23).toNat

/-- Reads a word (R140). -/
def read (w : Word) : Num :=
  if expo w = 255 then (if frac w = 0 then .inf (neg w) else .nan)
  else if expo w = 0 then .zero (neg w)
  else .fin (neg w) (2 ^ 23 + frac w) ((expo w : Int) - 150)

def isNan (w : Word) : Bool := expo w == 255 && frac w != 0
def isInf (w : Word) : Bool := expo w == 255 && frac w == 0
def isZero (w : Word) : Bool := expo w == 0

/-- Drops the lowest `k` bits, rounding to nearest, ties to even. -/
def roundShift (m k : Nat) : Nat :=
  if k = 0 then m
  else
    let q := m / 2 ^ k
    let r := m % 2 ^ k
    if r > 2 ^ (k - 1) ∨ (r = 2 ^ (k - 1) ∧ q % 2 = 1) then q + 1 else q

/-- Number of bits of a number. -/
def bitLen (m : Nat) : Nat := if m = 0 then 0 else Nat.log2 m + 1

/-- The word nearest to m * 2^e: 24 significant bits with unbounded exponent first, then below 2^-126 a zero and above the
range an infinity (R140). -/
def pack (s : Bool) (m : Nat) (e : Int) : Word :=
  if m = 0 then zeroWord s
  else
    let k := bitLen m - 24
    let q := roundShift (if bitLen m < 24 then m * 2 ^ (24 - bitLen m) else m) k
    let e := e + k - (24 - bitLen m : Nat)
    let (q, e) := if q = 2 ^ 24 then (2 ^ 23, e + 1) else (q, e)
    let b := e + 150
    if b ≥ 255 then infWord s
    else if b ≤ 0 then zeroWord s
    else BitVec.ofNat 32 (if s then 2 ^ 31 + b.toNat * 2 ^ 23 + (q - 2 ^ 23) else b.toNat * 2 ^ 23 + (q - 2 ^ 23))

/-- A sum of two finite values m1 * 2^e1 and m2 * 2^e2 with signs, exact, rounded once; an exact zero has sign `z`. -/
def packSum (z s1 : Bool) (m1 : Nat) (e1 : Int) (s2 : Bool) (m2 : Nat) (e2 : Int) : Word :=
  let e := min e1 e2
  let a : Int := m1 * 2 ^ (e1 - e).toNat
  let b : Int := m2 * 2 ^ (e2 - e).toNat
  let t := (if s1 then -a else a) + (if s2 then -b else b)
  if t = 0 then zeroWord z else pack (decide (t < 0)) t.natAbs e

def addNum : Num → Num → Word
  | .nan, _ => nanWord
  | _, .nan => nanWord
  | .inf s, .inf t => if s = t then infWord s else nanWord
  | .inf s, _ => infWord s
  | _, .inf t => infWord t
  | .zero s, .zero t => zeroWord (s && t)
  | .zero _, .fin t m e => pack t m e
  | .fin s m e, .zero _ => pack s m e
  | .fin s m e, .fin t n f => packSum false s m e t n f

def add (a b : Word) : Word := addNum (read a) (read b)
def negate (a : Word) : Word := a ^^^ 0x80000000#32
def sub (a b : Word) : Word := if isNan b then nanWord else add a (negate b)

def mulNum : Num → Num → Word
  | .nan, _ => nanWord
  | _, .nan => nanWord
  | .inf _, .zero _ => nanWord
  | .zero _, .inf _ => nanWord
  | .inf s, .inf t => infWord (s != t)
  | .inf s, .fin t _ _ => infWord (s != t)
  | .fin s _ _, .inf t => infWord (s != t)
  | .zero s, .zero t => zeroWord (s != t)
  | .zero s, .fin t _ _ => zeroWord (s != t)
  | .fin s _ _, .zero t => zeroWord (s != t)
  | .fin s m e, .fin t n f => pack (s != t) (m * n) (e + f)

def mul (a b : Word) : Word := mulNum (read a) (read b)

def divNum : Num → Num → Word
  | .nan, _ => nanWord
  | _, .nan => nanWord
  | .inf _, .inf _ => nanWord
  | .zero _, .zero _ => nanWord
  | .inf s, .zero t => infWord (s != t)
  | .inf s, .fin t _ _ => infWord (s != t)
  | .zero s, .inf t => zeroWord (s != t)
  | .zero s, .fin t _ _ => zeroWord (s != t)
  | .fin s _ _, .inf t => zeroWord (s != t)
  | .fin s _ _, .zero t => infWord (s != t)
  | .fin s m e, .fin t n f =>
    let q := m * 2 ^ 50 / n
    let sticky := if m * 2 ^ 50 % n = 0 then 0 else 1
    pack (s != t) (2 * q + sticky) (e - f - 51)

def div (a b : Word) : Word := divNum (read a) (read b)

/-- Largest r with r * r at most n, bit by bit from bit `k` down. -/
def sqrtFrom (n : Nat) : Nat → Nat → Nat
  | 0, r => if (r + 1) * (r + 1) ≤ n then r + 1 else r
  | k + 1, r => let t := r + 2 ^ (k + 1); sqrtFrom n k (if t * t ≤ n then t else r)

def sqrtNum : Num → Word
  | .nan => nanWord
  | .inf s => if s then nanWord else infWord false
  | .zero s => zeroWord s
  | .fin s m e =>
    if s then nanWord
    else
      let (m, e) := if e % 2 = 0 then (m * 2 ^ 40, e - 40) else (m * 2 ^ 41, e - 41)
      let r := sqrtFrom m 34 0
      pack false (2 * r + (if r * r = m then 0 else 1)) (e / 2 - 1)

def sqrt (a : Word) : Word := sqrtNum (read a)

/-- a * b + c with one rounding. -/
def fma (a b c : Word) : Word :=
  match read a, read b, read c with
  | .fin s m e, .fin t n f, .fin u p g => packSum false (s != t) (m * n) (e + f) u p g
  | .fin s m e, .fin t n f, .zero _ => pack (s != t) (m * n) (e + f)
  | .fin _ _ _, .fin _ _ _, _ => if isNan c then nanWord else c
  | x, y, _ => add (mulNum x y) c

/-- Order of two values that are no NaN, -0 below +0 when `z`. -/
def lessNum (z : Bool) (a b : Num) : Bool :=
  match a, b with
  | .nan, _ => false
  | _, .nan => false
  | .inf s, .inf t => s && !t
  | .inf s, _ => s
  | _, .inf t => !t
  | .zero s, .zero t => z && s && !t
  | .zero _, .fin t _ _ => !t
  | .fin s _ _, .zero _ => s
  | .fin s m e, .fin t n f =>
    let g := min e f
    let x : Int := m * 2 ^ (e - g).toNat
    let y : Int := n * 2 ^ (f - g).toNat
    decide ((if s then -x else x) < (if t then -y else y))

/-- a < b and a = b of R142; false for a NaN operand. -/
def lt (a b : Word) : Bool := lessNum false (read a) (read b)
def eq (a b : Word) : Bool := !isNan a && !isNan b && !lt a b && !lt b a

/-- A word read and written again: a subnormal becomes a zero, a NaN the quiet NaN. -/
def canon (a : Word) : Word :=
  match read a with
  | .nan => nanWord
  | .zero s => zeroWord s
  | _ => a

def fmin (a b : Word) : Word :=
  if isNan a then canon b else if isNan b then canon a
  else if lessNum true (read b) (read a) then canon b else canon a

def fmax (a b : Word) : Word :=
  if isNan a then canon b else if isNan b then canon a
  else if lessNum true (read a) (read b) then canon b else canon a

/-- An integer scaled by 2^e, rounded. -/
def ofInt (i : Int) (e : Int) : Word := pack (decide (i < 0)) i.natAbs e

/-- How a conversion to an integer rounds. -/
inductive Round where
  | trunc | even
  deriving DecidableEq, Repr

/-- The value of a finite word times 2^k as an integer. -/
def toInt (r : Round) (k : Int) : Num → Int
  | .fin s m e =>
    let e := e + k
    let q : Nat := if e ≥ 0 then m * 2 ^ e.toNat else
      match r with
      | .trunc => m / 2 ^ (-e).toNat
      | .even => roundShift m (-e).toNat
    if s then -(q : Int) else q
  | _ => 0

/-- Conversion to an integer in [lo, hi], saturating, NaN 0; whether it saturated or was NaN (R141). -/
def toRange (r : Round) (k lo hi : Int) (a : Word) : Int × Bool :=
  match read a with
  | .nan => (0, true)
  | .inf s => (if s then lo else hi, true)
  | x => let i := toInt r k x; if i < lo then (lo, true) else if hi < i then (hi, true) else (i, false)

end Sys2Proof.F32
end

