-- ==== Sys2Proof/Machine/Image.lean ====
section
/-! DEFINITION. The point image (02): points and their status, layout and zones, landings, the snapshot of the input
points. -/

namespace Sys2Proof.Machine

/-! ## Status bits (R17) -/

def stGood : Nat := 0
def stStale : Nat := 1
def stForced : Nat := 2
def stSubst : Nat := 3
def stCommFail : Nat := 4
def stNotDelivered : Nat := 5
def stOvr : Nat := 6
def stInit : Nat := 7
def stClamped : Nat := 8
def stOrphan : Nat := 9

/-- A status bit of a point. -/
def Point.has (p : Point) (i : Nat) : Bool := p.st.getLsbD i

/-- A point with a status bit written. -/
def Point.put (p : Point) (i : Nat) (b : Bool) : Point :=
  { p with st := if b then p.st ||| (1#16 <<< i) else p.st &&& ~~~(1#16 <<< i) }

/-- GOOD recomputed (R18). -/
def Point.good (p : Point) : Point :=
  p.put stGood (!(p.has stStale || p.has stCommFail || p.has stOvr || p.has stInit || p.has stOrphan))

/-- The age one frame later (R14, R19). -/
def Point.older (p : Point) : Point := { p with age := min (p.age + 1) 65535 }

/-- A point that enters the layout (R106). -/
def Point.initial (v : Word) : Point := ⟨v, 0x80#16, 0⟩

/-- A fresh value with its SUBST and CLAMPED: age 0, INIT clear (R64, R72). -/
def Point.fresh (p : Point) (v : Word) (subst clamped : Bool) : Point :=
  (((({ p with val := v, age := 0 } : Point).put stSubst subst).put stClamped clamped).put stInit false)

/-- The eight bytes of a point (R15). -/
def Point.bytes (p : Point) : List Byte := toBytes 4 p.val.toNat ++ toBytes 2 p.st.toNat ++ toBytes 2 p.age

/-! ## Layout and zones (R58, R78) -/

def zoneOf (p : Nat) : Nat := p / 128

/-- Zone word of a zone in the layout in force; 0, unused, before any load. -/
def Hw.zoneWord (h : Hw) (z : Nat) : Nat := Tab.getD h.img.zones z 0
def Hw.zoneDir (h : Hw) (z : Nat) : Nat := bits (h.zoneWord z) 0 2
def Hw.isInput (h : Hw) (p : Nat) : Bool := h.zoneDir (zoneOf p) == 1
def Hw.isOutput (h : Hw) (p : Nat) : Bool := h.zoneDir (zoneOf p) == 2
def Hw.isUnused (h : Hw) (p : Nat) : Bool := !h.isInput p && !h.isOutput p
/-- Source class of an input zone: 0 LANDING, 1 HOST, 2 METER, 3 MAILBOX. -/
def Hw.zoneSrc (h : Hw) (z : Nat) : Nat := bits (h.zoneWord z) 2 3

def Hw.pointType (h : Hw) (p : Nat) : Nat := Tab.getD h.img.types p 0

/-- A value as a point of its type holds it: a BIT point keeps bit 0 (R16). -/
def Hw.typed (h : Hw) (p : Nat) (v : Word) : Word := if h.pointType p = 0 then v &&& 1#32 else v

/-- The initial value of a point of the layout in force, as the point holds it. -/
def Hw.initVal (h : Hw) (p : Nat) : Word := h.typed p (BitVec.ofNat 32 (Tab.getD h.img.inits p 0))

/-- Owner domain of a zone (R78, R105). -/
def Hw.zoneOwner (h : Hw) (z : Nat) : Nat :=
  h.fld (if z % 4 = 0 then IMG_ZOWN_OWNER0 (z / 4) else if z % 4 = 1 then IMG_ZOWN_OWNER1 (z / 4)
    else if z % 4 = 2 then IMG_ZOWN_OWNER2 (z / 4) else IMG_ZOWN_OWNER3 (z / 4))

/-- A domain reaches a zone (R78). -/
def Hw.reaches (h : Hw) (dom z : Nat) : Bool := dom == 0 || h.zoneOwner z == dom

/-! ## The views (R57, R59) -/

/-- A point of the IN view. -/
def Hw.inPoint (h : Hw) (p : Nat) : Point :=
  if h.isUnused p then ⟨0#32, 0#16, 0⟩ else Tab.getD h.img.inp p (Point.initial (h.initVal p))

/-- A point of the published OUT image. -/
def Hw.outPoint (h : Hw) (p : Nat) : Point :=
  if h.isOutput p then Tab.getD h.img.out p (Point.initial (h.initVal p)) else ⟨0#32, 0#16, 0⟩

/-- A point of the NEXT view (R57). -/
def Hw.nextPoint (h : Hw) (p : Nat) : Point :=
  if h.isOutput p then h.outPoint p
  else
    match Tab.get? h.img.land p with
    | some l => (({ h.inPoint p with val := l.val } : Point).put stSubst l.subst).put stClamped l.clamped
    | none => h.inPoint p

/-! ## Writes to the NEXT view (R59-R61) -/

/-- A master is one of a zone's source class (R60); the mailbox lands over the dispatch port alone. -/
def classOk (src master : Nat) : Bool :=
  match src with
  | 0 => master == 20 || master == 21 || (decide (64 ≤ master) && decide (master < 128))
  | 1 => decide (master < 4)
  | 2 => master == 19
  | _ => false

/-- A point lands (R60, R63): the landing that completes last stands. -/
def Hw.landPoint (h : Hw) (p : Nat) (v : Word) (subst clamped : Bool) : Hw :=
  { h with img := { h.img with land := Tab.put h.img.land p ⟨h.typed p v, subst, clamped⟩ } }

/-- A dropped write is counted (R59). -/
def Hw.countDrop (h : Hw) : Hw := h.countS IMG_DROPCNT_COUNT IMG_DROPCNT_SAT 31 1

/-- A write of `size` bytes at offset `off` of the NEXT view by a master (R59-R61), after the zone rule. -/
def Hw.nextWrite (h : Hw) (master dom off size v : Nat) : Hw :=
  let p := off / 8
  let target : Nat := 3
  if size ≠ 4 ∧ size ≠ 8 then h.violation (0x21100000 + off) master dom target .write .width
  else if h.isUnused p then h.countDrop
  else if h.isInput p && classOk (h.zoneSrc (zoneOf p)) master && off % 8 == 0 then
    if size = 8 then h.landPoint p (BitVec.ofNat 32 v) (bitOf v (32 + stSubst)) (bitOf v (32 + stClamped))
    else h.landPoint p (BitVec.ofNat 32 v) false false
  else h.countDrop.raise 25

/-- The zone rule of R78, then the write. -/
def Hw.imageWrite (h : Hw) (master dom off size v : Nat) : Hw :=
  if h.reaches dom (zoneOf (off / 8)) then h.nextWrite master dom off size v
  else h.violation (0x21100000 + off) master dom 3 .write .zone

/-! ## The snapshot of the input points (R62-R66, R73) -/

/-- The force table as it stands is read for the frame (R177). -/
def Hw.readForces (h : Hw) : Hw :=
  let fs := ((List.range 4096).filter fun n => h.flag (FRC_ENT_ACTIVE n)).map fun n =>
    (⟨h.fld (FRC_ENT_POINT n), h.fld (FRC_ENT_SCOPE n), BitVec.ofNat 32 (h.fld (FRC_ENT_VALUE n))⟩ : Force)
  { h with img := { h.img with forces := fs } }

/-- The value a force of a scope (0 IN, 1 OUT) gives a point in this frame (R72, R73, R181). -/
def Hw.forced (h : Hw) (scope p : Nat) : Option Word :=
  (h.img.forces.find? fun f => f.point == p && f.scope == scope).map fun f => h.typed p f.val

/-- A range of a station's map holds a point. -/
def inRange (base cnt p : Nat) : Bool := decide (base ≤ p) && decide (p < base + cnt)

/-- Station states of RIO.SSTATn.STATE. -/
def stnOff : Nat := 0
def stnWait : Nat := 1
def stnGood : Nat := 2
def stnDegraded : Nat := 3
def stnLost : Nat := 4

/-- Points in the input ranges of stations in a state. -/
def Hw.inStation (h : Hw) (f : Nat → Bool) (p : Nat) : Bool :=
  (List.range 1536).any fun n => f n && inRange (h.fld (RIO_SMAP_IN_BASE n)) (h.fld (RIO_SMAP_IN_CNT n)) p

/-- The point lies in the input range of a LOST station (R196). -/
def Hw.isStale (h : Hw) (p : Nat) : Bool := h.inStation (fun n => h.fld (RIO_SSTAT_STATE n) == stnLost) p

/-- The island a point's values come from is missing (R44, R64): metering, or the transport of the point's station. What makes a source
island missing the spec does not define: the model takes an isolated port of the island, and a point of source LANDING has a source
island where an enabled station's input range holds it (log entry 177, DESIGN CHOICE). -/
def Hw.sourceGone (h : Hw) (p : Nat) : Bool :=
  (h.zoneSrc (zoneOf p) == 2 && h.bus.isolated.contains 13)
    || (h.zoneSrc (zoneOf p) == 0 && (h.bus.isolated.contains 14 || h.bus.isolated.contains 15)
      && h.inStation (fun n => h.flag (RIO_SCFG_EN n) && h.bus.isolated.contains (14 + h.fld (RIO_SCFG_TRANSPORT n))) p)

/-- One input point at the snapshot (R64), then the force of IN scope (R73). -/
def Hw.snapPoint (h : Hw) (p : Nat) (q : Point) : Point :=
  let q := match Tab.get? h.img.land p with
    | some l => (q.fresh l.val l.subst l.clamped).put stCommFail false
    | none => q.older
  let q := (q.put stStale (h.isStale p)).put stCommFail (q.has stCommFail || h.img.commFail.contains p || h.sourceGone p)
  let q := q.good
  match h.forced 0 p with
  | some v => ({ q with val := v } : Point).put stForced true
  | none => q.put stForced false

/-- The snapshot (R64, R65): input points from landings, output points from the published OUT. -/
def Hw.snapshot (h : Hw) : Hw :=
  let inp := Tab.mapVal h.img.inp fun p q => if h.isInput p then h.snapPoint p q else h.outPoint p
  { h with img := { h.img with inp := inp, land := [], commFail := [] } }

/-! ## Frame faults (R55) -/

/-- A frame fault: counted, recorded, E18 and its Logbook record. `engine` is 15 for causes 1 and 3, `extra` the bits of
PARAM above FFCAUSE. -/
def Hw.frameFault (h : Hw) (cause engine extra : Nat) : Hw :=
  let h := h.countS FRM_FFCNT_COUNT FRM_FFCNT_SAT 31 1
  let h := ((h.setFld FRM_FFCAUSE_CAUSE cause).setFld FRM_FFCAUSE_ENGINE engine).setFlag FRM_STAT_FFAULT true
  (h.raise 18).record 0x020 25 0 (cause + engine * 16 + extra)

/-- LANDING: the write reaches the image as a transaction of its master (R34) and the NEXT view takes it. -/
def execLanding (src : Src) (p : BitVec 17) (wide : Bool) (v : BitVec 64) (s : State) : Host.Outcome State Fault Refusal :=
  .next (s.onHw fun h => h.asWrite src (0x21100000 + 8 * p.toNat) (if wide then 8 else 4) fun h =>
    h.imageWrite src.master.val src.dom.toNat (8 * p.toNat) (if wide then 8 else 4) v.toNat)

end Sys2Proof.Machine
end

