-- ==== Sys2Proof/Machine/Operands.lean ====
section
/-! DEFINITION. Operand forms of Uscia Logic Code (R112-R121): a Lantern's spaces, effective indexes, reads and writes of
bits and words. -/

namespace Sys2Proof.Machine

/-- A Lantern before any program: its registers as a task starts with them, its memories 0. -/
def Lantern.reset : Lantern where
  ba := false
  wa := 0#32
  wb := 0#32
  z := false
  n := false
  ov := false
  enb := true
  ns := []
  cs := []
  loops := []
  pc := 0
  doing := .waiting
  due := []
  ticks := 0
  mrk := []
  lw := []
  tmr := []
  ctr := []
  edg := []
  cst := []
  outVal := []
  outNow := []
  ilk := []
  lsp := []
  tasOut := []
  tasIlk := []
  lrd := []
  ev := 0#256
  first := []
  shadow := []

/-- Lantern `l`. -/
def Hw.lan (h : Hw) (l : Nat) : Lantern := Tab.getD h.lnt l Lantern.reset
def Hw.setLan (h : Hw) (l : Nat) (x : Lantern) : Hw := { h with lnt := Tab.put h.lnt l x }

def Timer.reset : Timer := ⟨0, false, false, false, false⟩
def Counter.reset : Counter := ⟨0, false, false, false⟩

def Lantern.timer (x : Lantern) (i : Nat) : Timer := Tab.getD x.tmr i Timer.reset
def Lantern.counter (x : Lantern) (i : Nat) : Counter := Tab.getD x.ctr i Counter.reset
def Lantern.marker (x : Lantern) (i : Nat) : Bool := Tab.getD x.mrk i false
def Lantern.edge (x : Lantern) (i : Nat) : Bool := Tab.getD x.edg i false
def Lantern.local (x : Lantern) (i : Nat) : Word := Tab.getD x.lw i 0#32
def Lantern.const (x : Lantern) (i : Nat) : Word := Tab.getD x.cst i 0#32

/-- The program a Lantern runs. -/
def Lantern.prog (x : Lantern) : Nat :=
  match x.doing with
  | .running p _ _ => p
  | _ => 0

/-- Key of an ILK element in the staging of a program (R114). -/
def ilkKey (prog p : Nat) : Nat := prog * 2 ^ 17 + p

/-- Offset of a MOD field (R121): LCn times the stride it names. -/
def Lantern.modOff (x : Lantern) (m : Mod) : Nat :=
  match m.kind, x.loops[m.lc.val]? with
  | .none, _ => 0
  | .strideA, some c => c.lc * c.a
  | .strideB, some c => c.lc * c.b
  | .one, some c => c.lc
  | _, none => 0

/-- Effective index (R121). -/
def Lantern.index (x : Lantern) (m : Mod) (idx : BitVec 17) : Nat := idx.toNat + x.modOff m

/-- An OUT read (R113): the value last staged, in this frame or an earlier one, else the layout initial value. -/
def Hw.outRead (h : Hw) (x : Lantern) (p : Nat) : Word := (Tab.get? x.outNow p).getD (Tab.getD x.outVal p (h.initVal p))

/-- An ILK staging value of the running program (R114). -/
def Lantern.ilkRead (x : Lantern) (p : Nat) : Word := Tab.getD x.ilk (ilkKey x.prog p) 0#32

/-- The operand word of a read (R112, R116). -/
def Hw.readWord (h : Hw) (x : Lantern) (sp : Space) (i : Nat) : Word :=
  match sp with
  | .inp => (h.inPoint i).val
  | .out => h.outRead x i
  | .lw => x.local i
  | .tmr => BitVec.ofNat 32 (x.timer i).et
  | .ctr => BitVec.ofNat 32 (x.counter i).cv
  | .const => x.const i
  | .lrd => Tab.getD x.lrd i 0#32
  | .ilk | .mrk | .edg | .lsp => 0#32

/-- The operand bit of a read (R112, R120). -/
def Hw.readBit (h : Hw) (x : Lantern) (sp : Space) (bit : Fin 32) (i : Nat) : Bool :=
  match sp with
  | .inp | .out | .lw => (h.readWord x sp i).getLsbD bit.val
  | .mrk => x.marker i
  | .tmr => (x.timer i).q
  | .ctr => (x.counter i).q
  | .edg => x.edge i
  | .lrd => (h.readWord x .lrd i).getLsbD 0
  | .ilk | .const | .lsp => false

/-- Stages an OUT value (R113, R114). -/
def Lantern.stageOut (x : Lantern) (p : Nat) (v : Word) : Lantern :=
  { x with outNow := Tab.put x.outNow p v }

/-- Stages an ILK value of the running program (R114). -/
def Lantern.stageIlk (x : Lantern) (p : Nat) (v : Word) : Lantern := { x with ilk := Tab.put x.ilk (ilkKey x.prog p) v }

/-- Writes an operand word; nothing while ENB is 0 (R110, R112). -/
def Lantern.writeWord (x : Lantern) (sp : Space) (i : Nat) (v : Word) : Lantern :=
  if x.enb then
    match sp with
    | .out => x.stageOut i v
    | .ilk => x.stageIlk i v
    | .lw => { x with lw := Tab.put x.lw i v }
    | .lsp => { x with lsp := Tab.put x.lsp i v }
    | .inp | .mrk | .tmr | .ctr | .edg | .const | .lrd => x
  else x

/-- A word with one bit written. -/
def putBit (v : Word) (bit : Fin 32) (b : Bool) : Word :=
  if b then v ||| (1#32 <<< bit.val) else v &&& ~~~(1#32 <<< bit.val)

/-- Writes an operand bit; nothing while ENB is 0 (R110, R112, R114). -/
def Hw.writeBit (h : Hw) (x : Lantern) (sp : Space) (bit : Fin 32) (i : Nat) (b : Bool) : Lantern :=
  if x.enb then
    match sp with
    | .out => x.stageOut i (putBit (h.outRead x i) bit b)
    | .ilk => x.stageIlk i (putBit (x.ilkRead i) bit b)
    | .mrk => { x with mrk := Tab.put x.mrk i b }
    | .lw => { x with lw := Tab.put x.lw i (putBit (x.local i) bit b) }
    | .inp | .tmr | .ctr | .edg | .const | .lsp | .lrd => x
  else x

/-- Writes an edge bit, a timer, a counter; nothing while ENB is 0 (R110). -/
def Lantern.putEdge (x : Lantern) (i : Nat) (b : Bool) : Lantern := if x.enb then { x with edg := Tab.put x.edg i b } else x
def Lantern.putTimer (x : Lantern) (i : Nat) (t : Timer) : Lantern := if x.enb then { x with tmr := Tab.put x.tmr i t } else x
def Lantern.putCounter (x : Lantern) (i : Nat) (c : Counter) : Lantern :=
  if x.enb then { x with ctr := Tab.put x.ctr i c } else x

end Sys2Proof.Machine
end

