-- ==== Sys2Proof/Machine/Flags.lean ====
section
/-! DEFINITION. Flag computations of Uscia Logic Code (R124, R137-R143): the arithmetic functions with the overflow each
reports, and Z and N. -/

namespace Sys2Proof.Machine

/-- A result and whether it sets OV. -/
structure Res where
  val : Word
  ov : Bool
  deriving DecidableEq, Repr

/-- Saturation of R138. -/
def sat32 (i : Int) : Res :=
  if 2 ^ 31 - 1 < i then ⟨0x7FFFFFFF#32, true⟩
  else if i < -(2 ^ 31) then ⟨0x80000000#32, true⟩
  else ⟨BitVec.ofInt 32 i, false⟩

def plain (w : Word) : Res := ⟨w, false⟩

/-- Result of a division by zero (R138). -/
def divZero (a : Word) : Res := ⟨if a.msb then 0x80000000#32 else 0x7FFFFFFF#32, true⟩

/-- The functions of IOP (R137, R138). -/
def iop (f : IopFn) (a b : Word) : Res :=
  match f with
  | .add => sat32 (a.toInt + b.toInt)
  | .sub => sat32 (a.toInt - b.toInt)
  | .mul => sat32 (a.toInt * b.toInt)
  | .div => if b = 0#32 then divZero a else sat32 (a.toInt.tdiv b.toInt)
  | .rem => if b = 0#32 then ⟨0#32, true⟩ else plain (BitVec.ofInt 32 (a.toInt.tmod b.toInt))
  | .addw => plain (a + b)
  | .subw => plain (a - b)
  | .mulw => plain (a * b)
  | .neg => sat32 (-a.toInt)
  | .abs => sat32 a.toInt.natAbs
  | .min => plain (if a.toInt ≤ b.toInt then a else b)
  | .max => plain (if a.toInt ≤ b.toInt then b else a)
  | .and => plain (a &&& b)
  | .or => plain (a ||| b)
  | .xor => plain (a ^^^ b)
  | .not => plain (~~~a)
  | .shl => plain (a <<< (b.toNat % 32))
  | .shr => plain (a >>> (b.toNat % 32))
  | .sar => plain (a.sshiftRight (b.toNat % 32))
  | .qmul => sat32 (a.toInt * b.toInt / 2 ^ 16)
  | .qdiv => if b = 0#32 then divZero a else sat32 ((a.toInt * 2 ^ 16).tdiv b.toInt)

/-- Ticks of IOP (R137). -/
def IopFn.ticks : IopFn → Nat
  | .mul | .mulw | .qmul => 3
  | .div | .rem | .qdiv => 18
  | _ => 1

/-- OV of an F32 result: infinite or NaN, or an operand NaN (R140). -/
def ovF (nanIn : Bool) (r : Word) : Res := ⟨r, nanIn || F32.isNan r || F32.isInf r⟩

/-- The functions of FOP (R139, R140). -/
def fop (f : FopFn) (a b : Word) : Res :=
  let two := F32.isNan a || F32.isNan b
  match f with
  | .fadd => ovF two (F32.add a b)
  | .fsub => ovF two (F32.sub a b)
  | .fmul => ovF two (F32.mul a b)
  | .fdiv => ovF two (F32.div a b)
  | .fsqrt => ovF (F32.isNan a) (F32.sqrt a)
  | .fneg => ⟨a ^^^ 0x80000000#32, F32.isNan a⟩
  | .fabs => ⟨a &&& 0x7FFFFFFF#32, F32.isNan a⟩
  | .fmin => ovF two (F32.fmin a b)
  | .fmax => ovF two (F32.fmax a b)

/-- Ticks of FOP (R139). -/
def FopFn.ticks : FopFn → Nat
  | .fdiv => 12
  | .fsqrt => 14
  | .fneg | .fabs => 1
  | _ => 2

/-- The functions of CVT (R141). -/
def cvt (f : CvtFn) (a : Word) : Res :=
  let range (r : F32.Round) (k lo hi : Int) : Res :=
    let x := F32.toRange r k lo hi a
    ⟨BitVec.ofInt 32 x.1, x.2⟩
  match f with
  | .itof => plain (F32.ofInt a.toInt 0)
  | .utof => plain (F32.ofInt a.toNat 0)
  | .qtof => plain (F32.ofInt a.toInt (-16))
  | .ftoi => range .trunc 0 (-(2 ^ 31)) (2 ^ 31 - 1)
  | .ftou => range .trunc 0 0 (2 ^ 32 - 1)
  | .ftoq => range .even 16 (-(2 ^ 31)) (2 ^ 31 - 1)
  | .ftoir => range .even 0 (-(2 ^ 31)) (2 ^ 31 - 1)

/-- CVT functions whose result is F32. -/
def CvtFn.toF32 : CvtFn → Bool
  | .itof | .utof | .qtof => true
  | _ => false

/-- A word is zero for Z: for F32 +0 or -0 (R124). -/
def zeroI (w : Word) : Bool := w == 0#32
def zeroF (w : Word) : Bool := w &&& 0x7FFFFFFF#32 == 0#32

/-- WA takes a result; Z and N follow it, OV sticks (R108, R124). -/
def Lantern.result (x : Lantern) (f32 : Bool) (r : Res) : Lantern :=
  { x with wa := r.val, z := if f32 then zeroF r.val else zeroI r.val, n := r.val.msb, ov := x.ov || r.ov }

/-- Less than and equal in a compare type (R142). -/
def cmpLt (t : CmpType) (a b : Word) : Bool :=
  match t with
  | .i32 => decide (a.toInt < b.toInt)
  | .u32 => decide (a.toNat < b.toNat)
  | .f32 => F32.lt a b
def cmpEq (t : CmpType) (a b : Word) : Bool :=
  match t with
  | .i32 | .u32 => a == b
  | .f32 => F32.eq a b

/-- The relation of CMP (R142): with a NaN operand only NE holds. -/
def relOf (r : Rel) (lt eq nan : Bool) : Bool :=
  match r with
  | .eq => eq
  | .ne => !eq
  | .lt => lt
  | .le => lt || eq
  | .gt => !lt && !eq && !nan
  | .ge => !lt && !nan

/-- CMP (R142). -/
def Lantern.compare (x : Lantern) (t : CmpType) (r : Rel) : Lantern :=
  let nan := t == .f32 && (F32.isNan x.wa || F32.isNan x.wb)
  let lt := cmpLt t x.wa x.wb
  let eq := cmpEq t x.wa x.wb
  { x with ba := relOf r lt eq nan, z := eq, n := lt, ov := x.ov || nan }

/-- SCL (R143): a product and a sum, each with its own rounding or saturation. -/
def scale (t : SclType) (a k c : Word) : Res :=
  match t with
  | .f32 => let p := fop .fmul a k; let s := fop .fadd p.val c; ⟨s.val, p.ov || s.ov⟩
  | .q16 => let p := iop .qmul a k; let s := iop .add p.val c; ⟨s.val, p.ov || s.ov⟩

/-- LIM (R143): min(max(WA, lo), hi); a NaN gives lo and OV, also where lo exceeds hi, of which R143 says two things (log entry 182,
DESIGN CHOICE). -/
def limit (t : CmpType) (a lo hi : Word) : Res :=
  match t with
  | .i32 => plain (iop .min (iop .max a lo).val hi).val
  | .u32 => let m := if a.toNat ≤ lo.toNat then lo else a; plain (if m.toNat ≤ hi.toNat then m else hi)
  | .f32 => if F32.isNan a then ⟨lo, true⟩ else plain (F32.fmin (F32.fmax a lo) hi)

end Sys2Proof.Machine
end

