-- ==== Sys2Proof/Machine/Loops.lean ====
section
/-! DEFINITION. Loop engines (05): slot descriptors in loop memory, conversions, the law and its modes, injections and
captures, and the commands of the LPEn blocks. -/

namespace Sys2Proof.Machine

def lpeAddr (m off : Nat) : Nat := 0x30100000 + 0x10000 * m + off

/-! ## Descriptors (R207, R208) -/

def LoopEngine.reset : LoopEngine := ⟨[], [], [], 0, none, [], [], [], [], false, []⟩
def Hw.eng (h : Hw) (m : Nat) : LoopEngine := Tab.getD h.lpe m LoopEngine.reset
def Hw.setEng (h : Hw) (m : Nat) (e : LoopEngine) : Hw := { h with lpe := Tab.put h.lpe m e }

/-- Word `w` (byte offset / 4) of slot `s`. -/
def LoopEngine.word (e : LoopEngine) (s w : Nat) : Word := Tab.getD e.mem (s * 32 + w) 0#32
def LoopEngine.setWord (e : LoopEngine) (s w : Nat) (v : Word) : LoopEngine := { e with mem := Tab.put e.mem (s * 32 + w) v }

/-- A field of a descriptor: word, lowest bit, width. -/
structure SlotFld where
  word : Nat
  lo : Nat
  w : Nat
  deriving DecidableEq, Repr

def LoopEngine.get (e : LoopEngine) (s : Nat) (f : SlotFld) : Nat := bits (e.word s f.word).toNat f.lo f.w
/-- A signed field. -/
def LoopEngine.sget (e : LoopEngine) (s : Nat) (f : SlotFld) : Int := toSigned f.w (e.get s f)
def LoopEngine.set (e : LoopEngine) (s : Nat) (f : SlotFld) (v : Nat) : LoopEngine :=
  let old := (e.word s f.word).toNat
  e.setWord s f.word (BitVec.ofNat 32 (old - bits old f.lo f.w * 2 ^ f.lo + v % 2 ^ f.w * 2 ^ f.lo))
def LoopEngine.sset (e : LoopEngine) (s : Nat) (f : SlotFld) (i : Int) : LoopEngine := e.set s f (ofSigned f.w i)
def LoopEngine.flag (e : LoopEngine) (s : Nat) (f : SlotFld) : Bool := e.get s f != 0
def LoopEngine.setFlag (e : LoopEngine) (s : Nat) (f : SlotFld) (b : Bool) : LoopEngine := e.set s f (b2n b)

def dEn : SlotFld := ⟨0, 0, 1⟩
def dForm : SlotFld := ⟨0, 1, 1⟩
def dSpsrc : SlotFld := ⟨0, 2, 1⟩
def dFfen : SlotFld := ⟨0, 3, 1⟩
def dTrken : SlotFld := ⟨0, 4, 1⟩
def dPvact : SlotFld := ⟨0, 5, 1⟩
def dShift : SlotFld := ⟨0, 6, 3⟩
def dPeriod : SlotFld := ⟨0, 16, 16⟩
def dPhase : SlotFld := ⟨1, 0, 16⟩
def dMode0 : SlotFld := ⟨1, 16, 2⟩
def dDomain : SlotFld := ⟨1, 24, 8⟩
def dPvpt : SlotFld := ⟨2, 0, 17⟩
def dPvscale : SlotFld := ⟨3, 0, 32⟩
def dPvoff : SlotFld := ⟨4, 0, 32⟩
def dSppt : SlotFld := ⟨5, 0, 17⟩
def dFfpt : SlotFld := ⟨6, 0, 17⟩
def dFfscale : SlotFld := ⟨7, 0, 32⟩
def dOutpt : SlotFld := ⟨8, 0, 17⟩
def dOscale : SlotFld := ⟨9, 0, 32⟩
def dOoff : SlotFld := ⟨10, 0, 32⟩
def dTrkpt : SlotFld := ⟨11, 0, 17⟩
def dSp : SlotFld := ⟨12, 0, 16⟩
def dMan : SlotFld := ⟨12, 16, 16⟩
def dLlim : SlotFld := ⟨13, 0, 16⟩
def dUlim : SlotFld := ⟨13, 16, 16⟩
def dRamp : SlotFld := ⟨14, 0, 16⟩
def dB0 : SlotFld := ⟨15, 0, 16⟩
def dB1 : SlotFld := ⟨15, 16, 16⟩
def dB2 : SlotFld := ⟨16, 0, 16⟩
def dB3 : SlotFld := ⟨16, 16, 16⟩
def dA1 : SlotFld := ⟨17, 0, 16⟩
def dA2 : SlotFld := ⟨17, 16, 16⟩
def dA3 : SlotFld := ⟨18, 0, 16⟩
def dTscale : SlotFld := ⟨20, 0, 32⟩
def dToff : SlotFld := ⟨21, 0, 32⟩
def dE1 : SlotFld := ⟨24, 0, 16⟩
def dE2 : SlotFld := ⟨24, 16, 16⟩
def dE3 : SlotFld := ⟨25, 0, 16⟩
def dY1 : SlotFld := ⟨25, 16, 16⟩
def dY2 : SlotFld := ⟨26, 0, 16⟩
def dY3 : SlotFld := ⟨26, 16, 16⟩
def dWsp : SlotFld := ⟨27, 0, 16⟩
def dPvlast : SlotFld := ⟨27, 16, 16⟩
def dU : SlotFld := ⟨30, 0, 16⟩
def dTgt : SlotFld := ⟨31, 0, 16⟩
def dFflast : SlotFld := ⟨31, 16, 16⟩
/-- STATUS (word 0x70) and LASTOUT (word 0x74). -/
def wStatus : Nat := 28
def wLastout : Nat := 29
def sState : SlotFld := ⟨28, 0, 3⟩
def sRamping : SlotFld := ⟨28, 3, 1⟩
def sSath : SlotFld := ⟨28, 4, 1⟩
def sSatl : SlotFld := ⟨28, 5, 1⟩
def sPvbad : SlotFld := ⟨28, 6, 1⟩
def sPvsat : SlotFld := ⟨28, 7, 1⟩
def sSpbad : SlotFld := ⟨28, 8, 1⟩
def sFfbad : SlotFld := ⟨28, 9, 1⟩
def sOvr : SlotFld := ⟨28, 10, 1⟩
def sInj : SlotFld := ⟨28, 11, 1⟩
def sCap : SlotFld := ⟨28, 12, 1⟩
def sSeq : SlotFld := ⟨28, 16, 16⟩

/-- States of a slot (R223). -/
def slOff : Nat := 0
def slManual : Nat := 1
def slAuto : Nat := 2
def slHold : Nat := 3
def slTrack : Nat := 4
def slFault : Nat := 5

def LoopEngine.st (e : LoopEngine) (s : Nat) : Nat := e.get s sState
def LoopEngine.setSt (e : LoopEngine) (s v : Nat) : LoopEngine := e.set s sState v

/-- Enabled slots of an engine, in ascending order. -/
def LoopEngine.enabled (e : LoopEngine) : List Nat :=
  (e.mem.filter fun w => w.1 % 32 == 0 && w.2.getLsbD 0).map fun w => w.1 / 32

/-- Cycles of a slot (R88). -/
def LoopEngine.cost (e : LoopEngine) (s : Nat) : Nat := if e.flag s dForm then 32 else 24

/-- Counts of enabled slots in LPEn.ENCNT. -/
def Hw.showEnabled (h : Hw) (m : Nat) : Hw :=
  let e := h.eng m
  let n3 := (e.enabled.filter fun s => e.flag s dForm).length
  (h.setFld (LPE_ENCNT_N3P m) n3).setFld (LPE_ENCNT_N2P m) (e.enabled.length - n3)

/-! ## Conversions (R213-R215) -/

def sat16 (i : Int) : Int := if i < -32768 then -32768 else if 32767 < i then 32767 else i
def satWord (i : Int) : Int := if i < -(2 ^ 31) then -(2 ^ 31) else if 2 ^ 31 - 1 < i then 2 ^ 31 - 1 else i
def clampTo (lo hi v : Int) : Int := if hi < v then hi else if v < lo then lo else v

/-- A point value as a Q16.16 number, none for an F32 NaN (R213). -/
def toQ16 (ty : Nat) (v : Word) : Option Int :=
  if ty = 0 then some (if v.getLsbD 0 then 0x10000 else 0)
  else if ty = 1 then some (satWord (v.toInt * 65536))
  else if ty = 2 then some (satWord ((v.toNat : Int) * 65536))
  else if ty = 3 then some v.toInt
  else if F32.isNan v then none
  else some (F32.toRange .even 16 (-(2 ^ 31)) (2 ^ 31 - 1) v).1

/-- CONV before its saturation, and CONV (R214). -/
def convRaw (x s o : Int) : Int := (x * s / 65536 + o) / 2
def conv (x s o : Int) : Int := sat16 (convRaw x s o)

/-- A read point of the IN image when usable (R213, R216). -/
def Hw.usable (h : Hw) (p : Nat) : Option Int :=
  let q := h.inPoint p
  if q.has stGood then toQ16 (h.pointType p) q.val else none

/-- The output u as the point's value (R215). -/
def outWord (ty : Nat) (u os oo : Int) : Word :=
  let r := satWord (2 * u * os / 65536 + oo)
  if ty = 3 then BitVec.ofInt 32 r
  else if ty = 4 then F32.ofInt r (-16)
  else if ty = 1 then BitVec.ofInt 32 ((r + 0x8000) / 65536)
  else if ty = 2 then BitVec.ofInt 32 (max 0 ((r + 0x8000) / 65536))
  else if 0x8000 ≤ r then 1#32 else 0#32

/-! ## Injection (R226-R228) -/

/-- pi * 10^49, for the sine table. -/
def piDigits : Nat := 31415926535897932384626433832795028841971693993751

/-- The sine of q / 4096 of a turn for q up to a quarter, times 2^64, by its series. -/
def sineSeries (x2 : Nat) : Nat → Nat → Int → Nat → Int
  | 0, _, acc, _ => acc
  | n + 1, k, acc, t =>
    let t : Nat := t * x2 / 2 ^ 64 / ((2 * k) * (2 * k + 1))
    sineSeries x2 n (k + 1) (if k % 2 = 1 then acc - (t : Int) else acc + (t : Int)) t

/-- T[i] = round(32,767 sin(2 pi i / 4,096)) (R227). -/
def sineTable (i : Nat) : Int :=
  let q := i % 2048
  let q := if q ≤ 1024 then q else 2048 - q
  let x := 2 * piDigits * q * 2 ^ 64 / (4096 * 10 ^ 49)
  let v := (2 * 32767 * sineSeries (x * x / 2 ^ 64) 11 1 x x + 2 ^ 64) / 2 ^ 65
  if i % 4096 < 2048 then v else -v

def InjGen.reset : InjGen := ⟨false, 0, 0, 0, false, false⟩
def LoopEngine.gen (e : LoopEngine) (k : Nat) : InjGen := Tab.getD e.inj k InjGen.reset
def LoopEngine.setGen (e : LoopEngine) (k : Nat) (g : InjGen) : LoopEngine := { e with inj := Tab.put e.inj k g }

/-- A generator as its first sample is about to be formed (R227). -/
def Hw.genStart (h : Hw) (m k : Nat) : InjGen :=
  let seed := h.fld (LPE_INJ_SEED m k)
  ⟨true, 0, h.fld (LPE_INJ_F0 m k), if seed = 0 then 1 else seed, false, false⟩

/-- The next sample of a generator and the generator after it (R227). -/
def Hw.genSample (h : Hw) (m k : Nat) (g : InjGen) : Int × InjGen :=
  let amp := toSigned 16 (h.fld (LPE_INJ_AMPHOLD_AMP m k))
  let sine := (amp * sineTable (g.phase / 2 ^ 20) + 2 ^ 14) / 2 ^ 15
  let wave := h.fld (LPE_INJ_CTRL_WAVE m k)
  if wave = 0 then (amp, g)
  else if wave = 1 then
    let hold := max 1 (h.fld (LPE_INJ_AMPHOLD_HOLD m k))
    let g := if h.fld (LPE_INJ_COUNT m k) % hold = 0 then
        let b := g.prbs.testBit 14 != g.prbs.testBit 13
        { g with prbs := (g.prbs * 2 + b2n b) % 2 ^ 15, bit := b }
      else g
    (if g.bit then amp else -amp, g)
  else
    let g' := { g with phase := (g.phase + g.inc) % 2 ^ 32 }
    let g' := if wave = 3 then
        let i := (g.inc : Int) + h.sfld (LPE_INJ_DF m k)
        { g' with inc := (clampTo 0 0x7FFFFFFF i).toNat }
      else g'
    (sine, g')

/-- INJ and CAP in STATUS of a slot: a generator is active on it, a capture is armed or records (R223). -/
def Hw.showSlot (h : Hw) (m s : Nat) : Hw :=
  let inj := (List.range 4).any fun k => h.flag (LPE_INJ_CTRL_ACTIVE m k) && h.fld (LPE_INJ_CTRL_SLOT m k) == s
  let cap := (List.range 4).any fun k =>
    (h.flag (LPE_CAP_CTRL_ARM m k) || h.flag (LPE_CAP_CTRL_ACTIVE m k)) && h.fld (LPE_CAP_CTRL_SLOT m k) == s
  h.setEng m (((h.eng m).setFlag s sInj inj).setFlag s sCap cap)

/-- A generator ends: DONE and INJ_DONE (R228). -/
def Hw.genEnd (h : Hw) (m k : Nat) : Hw :=
  let h := h.setEng m ((h.eng m).setGen k InjGen.reset)
  let h := ((h.setFlag (LPE_INJ_CTRL_ACTIVE m k) false).setFlag (LPE_INJ_CTRL_ARM m k) false).showSlot m (h.fld (LPE_INJ_CTRL_SLOT m k))
  (h.setFlag (LPE_INJ_CTRL_DONE m k) true).raise (65 + 4 * m)

/-- A generator is armed, ready or generating. -/
def Hw.genLive (h : Hw) (m k : Nat) : Bool :=
  h.flag (LPE_INJ_CTRL_ARM m k) || h.flag (LPE_INJ_CTRL_ACTIVE m k) || ((h.eng m).gen k).ready

/-- A generator is ended by what R230 names, with its record. -/
def Hw.genAbort (h : Hw) (m k : Nat) : Hw :=
  (h.genEnd m k).record 0x042 (16 + m) 0 (m + k * 2 + h.fld (LPE_INJ_CTRL_SLOT m k) * 8)

/-- Every generator of an engine that satisfies `on` ends (R230). -/
def Hw.endGens (h : Hw) (m : Nat) (on : Nat → Bool) : Hw :=
  ((List.range 4).filter fun k => h.genLive m k && on k).foldl (fun h k => h.genAbort m k) h

/-- Generators of a slot that are ready or generating. -/
def Hw.gensOf (h : Hw) (m s : Nat) : List Nat :=
  (List.range 4).filter fun k => ((h.eng m).gen k).ready && h.fld (LPE_INJ_CTRL_SLOT m k) == s

/-- Every generator of the slot gives its sample: the sums for set-point and output, whether each first sample was given
(for captures), and the engine after it (R226, R228). -/
def Hw.inject (h : Hw) (m s : Nat) : Hw × Int × Int × List Nat :=
  (h.gensOf m s).foldl (fun (a : Hw × Int × Int × List Nat) k =>
    let (h, sp, out, firsts) := a
    let first := !h.flag (LPE_INJ_CTRL_ACTIVE m k)
    let g := if first then h.genStart m k else (h.eng m).gen k
    let (v, g) := h.genSample m k g
    let h := (h.setFlag (LPE_INJ_CTRL_ACTIVE m k) true).setFlag (LPE_INJ_CTRL_ARM m k) false
    let h := (h.setEng m ((h.eng m).setGen k g)).countW (LPE_INJ_COUNT m k) 1
    let h := if h.fld (LPE_INJ_LEN m k) ≠ 0 ∧ h.fld (LPE_INJ_COUNT m k) = h.fld (LPE_INJ_LEN m k) then h.genEnd m k else h
    let firsts := if first then k :: firsts else firsts
    if h.flag (LPE_INJ_CTRL_POINT m k) then (h, sp, sat16 (out + v), firsts) else (h, sat16 (sp + v), out, firsts))
    (h, 0, 0, [])

/-! ## Capture (R229) -/

def CapBuf.reset : CapBuf := ⟨false, false, [], none⟩
def LoopEngine.buf (e : LoopEngine) (k : Nat) : CapBuf := Tab.getD e.cap k CapBuf.reset
def LoopEngine.setBuf (e : LoopEngine) (k : Nat) (b : CapBuf) : LoopEngine := { e with cap := Tab.put e.cap k b }

/-- A capture stops: DONE and CAP_DONE. -/
def Hw.capStop (h : Hw) (m k : Nat) : Hw :=
  let b := (h.eng m).buf k
  let h := h.setEng m ((h.eng m).setBuf k { b with capturing := false, seen := false })
  let h := ((h.setFlag (LPE_CAP_CTRL_ACTIVE m k) false).setFlag (LPE_CAP_CTRL_ARM m k) false).showSlot m (h.fld (LPE_CAP_CTRL_SLOT m k))
  (h.setFlag (LPE_CAP_CTRL_DONE m k) true).raise (66 + 4 * m)

/-- Every capture of an engine that is armed or records and satisfies `on` stops with FILL as it stands (R230). -/
def Hw.endCaps (h : Hw) (m : Nat) (on : Nat → Bool) : Hw :=
  ((List.range 4).filter fun k => (h.flag (LPE_CAP_CTRL_ARM m k) || h.flag (LPE_CAP_CTRL_ACTIVE m k)) && on k).foldl
    (fun h k => h.capStop m k) h

/-- A buffer records one sample of its slot (R229); `firsts` are the generators whose first sample it is. -/
def Hw.capSample (h : Hw) (m k : Nat) (x : CapSample) (firsts : List Nat) : Hw :=
  let b := (h.eng m).buf k
  let trig := h.fld (LPE_CAP_CTRL_TRIG m k)
  let now := if trig = 0 then decide (0 ≤ toSigned 32 (h.fld FRM_FNUM + 2 ^ 32 - h.fld (LPE_CAP_TRIGF m k)))
    else if trig = 1 then b.seen else firsts.contains (h.fld (LPE_CAP_CTRL_INJ m k))
  let after := match b.after with
    | some n => some (n + 1)
    | none => if now then some 0 else none
  let samples := (b.samples ++ [x])
  let samples := samples.drop (samples.length - 4096)
  let h := h.setEng m ((h.eng m).setBuf k { b with samples := samples, after := after })
  let h := h.setFld (LPE_CAP_FILL m k) samples.length
  match after with
  | some n =>
    let h := h.setFld (LPE_CAP_FILL_TIDX m k) (samples.length - 1 - n)
    if n = 4096 - h.fld (LPE_CAP_PRE m k) then h.capStop m k else h
  | none => h

/-- Buffers that record a slot. -/
def Hw.capsOf (h : Hw) (m s : Nat) : List Nat :=
  (List.range 4).filter fun k => ((h.eng m).buf k).capturing && h.fld (LPE_CAP_CTRL_SLOT m k) == s

/-! ## The law (R217-R220) -/

/-- ramp(WSP, tgt, RAMP): the new WSP and RAMPING (R219). -/
def ramp (wsp tgt r : Int) : Int × Bool :=
  if r = 0 ∨ (tgt - wsp).natAbs ≤ r then (tgt, false) else (if wsp < tgt then wsp + r else wsp - r, true)

/-- The limits of a slot on an output, with SATH and SATL in STATUS (R218). -/
def LoopEngine.clampOut (e : LoopEngine) (s : Nat) (v : Int) : Int × LoopEngine :=
  let lo := e.sget s dLlim
  let hi := e.sget s dUlim
  (clampTo lo hi v, (e.setFlag s sSath (decide (hi < v))).setFlag s sSatl (decide (v < lo)))

/-- The feed-forward term of a computation: FFLAST with FFBAD when FFPT is unusable, 0 when FFEN is 0 (R217). -/
def Hw.feedForward (h : Hw) (e : LoopEngine) (s : Nat) : Int × LoopEngine :=
  if e.flag s dFfen then
    match h.usable (e.get s dFfpt) with
    | some x => (conv x (e.sget s dFfscale) 0, e)
    | none => (e.sget s dFflast, e.setFlag s sFfbad true)
  else (0, e)

/-- Writes u: U, LASTOUT and the staged output (R215, R216). -/
def Hw.writeOut (h : Hw) (e : LoopEngine) (s : Nat) (u : Int) : LoopEngine :=
  let p := e.get s dOutpt
  let w := outWord (h.pointType p) u (e.sget s dOscale) (e.sget s dOoff)
  let e := (e.sset s dU u).setWord s wLastout w
  { e with outs := Tab.put e.outs p (w, e.flag s sSath || e.flag s sSatl) }

/-- MANUAL, TRACK and the fallback: Y1-Y3 from u less ff, E1-E3 0 (R220). -/
def LoopEngine.holdY (e : LoopEngine) (s : Nat) (u ff : Int) : LoopEngine :=
  let y := sat16 (u - ff)
  let e := ((e.sset s dY1 y).sset s dY2 y).sset s dY3 y
  ((e.set s dE1 0).set s dE2 0).set s dE3 0

/-- The multiply-accumulate of the law (R217). -/
def LoopEngine.acc (e : LoopEngine) (s : Nat) (e0 : Int) : Int :=
  let g := e.sget s
  let a := g dB0 * e0 + g dB1 * g dE1 + g dB2 * g dE2 - g dA1 * g dY1 - g dA2 * g dY2
  if e.flag s dForm then a + g dB3 * g dE3 - g dA3 * g dY3 else a

/-- The law of R217 with a usable PV; the engine after it, e0 and r. `skip` sets WSP to tgt first, `init` to pv. -/
def Hw.law (h : Hw) (e : LoopEngine) (s : Nat) (pv injSp injOut : Int) : LoopEngine × CapSample :=
  let (tgt, e) := if e.flag s dSpsrc then
      match h.usable (e.get s dSppt) with
      | some x => (conv x (e.sget s dPvscale) (e.sget s dPvoff), e)
      | none => (e.sget s dTgt, e.setFlag s sSpbad true)
    else (e.sget s dSp, e)
  let wsp := match Tab.get? e.wspNext s with
    | some true => tgt
    | some false => pv
    | none => e.sget s dWsp
  let e := { e with wspNext := Tab.del e.wspNext s }
  let (wsp, ramping) := ramp wsp tgt (e.get s dRamp)
  let r := sat16 (wsp + injSp)
  let e0 := sat16 (r - pv)
  let shift := e.get s dShift
  let v := (e.acc s e0 + 2 ^ (14 - shift)) / 2 ^ (15 - shift)
  let (ff, e) := h.feedForward e s
  let (u, e) := e.clampOut s (v + ff + injOut)
  let y0 := sat16 (u - ff - injOut)
  let e := ((e.set s dE3 (e.get s dE2)).set s dE2 (e.get s dE1)).sset s dE1 e0
  let e := ((e.set s dY3 (e.get s dY2)).set s dY2 (e.get s dY1)).sset s dY1 y0
  let e := (((e.sset s dWsp wsp).setFlag s sRamping ramping).sset s dTgt tgt).sset s dFflast ff
  (h.writeOut (e.setSt s slAuto) s u, ⟨r, pv, e0, u⟩)

/-- A sample of a computation without the law (R229). -/
def LoopEngine.noLaw (e : LoopEngine) (s : Nat) : CapSample := ⟨e.sget s dWsp, e.sget s dPvlast, 0, e.sget s dU⟩

/-- MANUAL and TRACK with an output: u clamped, states kept ready for a bumpless AUTO, WSP at pv (R220). -/
def Hw.follow (h : Hw) (e : LoopEngine) (s : Nat) (v : Int) (pv : Option Int) : LoopEngine :=
  let (ff, e) := h.feedForward e s
  let (u, e) := e.clampOut s v
  let e := e.holdY s u ff
  let e := match pv with
    | some p => e.sset s dWsp p
    | none => e
  h.writeOut e s u

/-- The bits of STATUS that speak of one computation, clear before the next (R223). -/
def LoopEngine.clearFlags (e : LoopEngine) (s : Nat) : LoopEngine :=
  (((((((e.setFlag s sSath false).setFlag s sSatl false).setFlag s sPvbad false).setFlag s sPvsat false).setFlag s sSpbad false).setFlag s sFfbad
    false)).setFlag s sOvr false

/-- One due computation of a slot with what its injections give (R217, R220): the engine after it, the sample to capture,
and whether it fell back to MANUAL. -/
def Hw.compute (h : Hw) (e : LoopEngine) (s : Nat) (injSp injOut : Int) : LoopEngine × CapSample × Bool :=
  let pvRaw := (h.usable (e.get s dPvpt)).map fun x => convRaw x (e.sget s dPvscale) (e.sget s dPvoff)
  let pv := pvRaw.map sat16
  let sat := match pvRaw with
    | some r => sat16 r != r
    | none => false
  let e := ((e.clearFlags s).setFlag s sPvsat sat).setFlag s sPvbad pv.isNone
  let e := e.set s sSeq (e.get s sSeq + 1)
  let e := match pv with
    | some p => e.sset s dPvlast p
    | none => e
  if e.st s = slManual then
    let e := h.follow e s (e.sget s dMan + injOut) pv
    (e, e.noLaw s, false)
  else if e.st s = slTrack then
    match h.usable (e.get s dTrkpt) with
    | some x =>
      let e := h.follow e s (conv x (e.sget s dTscale) (e.sget s dToff)) pv
      (e, e.noLaw s, false)
    | none => (e, e.noLaw s, false)
  else
    match pv with
    | some p =>
      let e := if e.st s = slHold then { e with wspNext := Tab.put e.wspNext s false } else e
      let (e, x) := h.law e s p injSp injOut
      (e, x, false)
    | none =>
      if e.st s = slAuto ∧ e.flag s dPvact = true then
        let (ff, e) := h.feedForward e s
        let (u, e) := e.clampOut s (e.sget s dMan)
        let e := h.writeOut ((e.holdY s u ff).setSt s slManual) s u
        (e, e.noLaw s, true)
      else
        let e := e.setSt s slHold
        (e, e.noLaw s, false)

/-- The slot's computation on the engine: injections first, the law, captures, and the record of a fallback (R217, R220,
R226, R229). -/
def Hw.slotCompute (h : Hw) (m s : Nat) : Hw :=
  let auto := (h.eng m).st s = slAuto
  let man := (h.eng m).st s = slManual
  let (h, sp, out, firsts) := h.inject m s
  let (e, x, fell) := h.compute (h.eng m) s (if auto then sp else 0) (if auto ∨ man then out else 0)
  let e := { e with cycles := e.cycles + e.cost s, left := e.left.filter fun t => t != s }
  let h := h.setEng m e
  let h := (h.capsOf m s).foldl (fun h k => h.capSample m k x firsts) h
  let h := h.showSlot m s
  if fell then
    (h.raise (67 + 4 * m)).record 0x041 (16 + m) 0 (s + m * 2 ^ 13 + ((h.eng m).word s wStatus).toNat * 2 ^ 32)
  else h

/-! ## Changes at F+0 (R221-R226) -/

/-- A mode request on a slot (R220); `manToo`: the same F+0 writes MAN. -/
def LoopEngine.request (e : LoopEngine) (s mode : Nat) (rampSkip manToo : Bool) : LoopEngine :=
  let st := e.st s
  if mode = 0 then
    if st = slAuto ∨ st = slHold ∨ st = slTrack then
      let e := if manToo then e else e.set s dMan (e.get s dU)
      { (e.setSt s slManual) with wspNext := Tab.del e.wspNext s }
    else e
  else if mode = 1 then
    if st = slManual ∨ st = slTrack then { (e.setSt s slAuto) with wspNext := Tab.put e.wspNext s rampSkip } else e
  else if mode = 2 then
    if (st = slManual ∨ st = slAuto ∨ st = slHold) ∧ e.flag s dTrken = true then
      { (e.setSt s slTrack) with wspNext := Tab.del e.wspNext s }
    else e
  else e

/-- A dropped LSP write (R222). -/
def Hw.lspDrop (h : Hw) (m : Nat) : Hw := h.countS (LPE_LSPDROP_COUNT m) (LPE_LSPDROP_SAT m) (67 + 4 * m) 1

/-- An LSP write takes effect, or is dropped (R221, R222). -/
def Hw.lspApply (h : Hw) (m : Nat) (manToo : Nat → Bool) (w : LspWrite) : Hw :=
  let s := bits w.idx 0 13
  let item := bits w.idx 14 3
  let e := h.eng m
  if !e.flag s dEn || e.st s == slFault then h.lspDrop m
  else if item = 0 then h.setEng m (e.sset s dSp (conv w.val.toInt (e.sget s dPvscale) (e.sget s dPvoff)))
  else if item = 2 then h.setEng m (e.set s dMan w.val.toNat)
  else
    let mode := bits w.val.toNat 0 2
    if mode = 2 ∧ e.flag s dTrken = false then h.lspDrop m
    else h.setEng m (e.request s mode (w.val.getLsbD 2) (manToo s))

/-- An LSP write reaches the loop port: the loop engine checks it against its access table as a write of the Lantern's master, and
keeps it for the next F+0 (R41, R225). The address it checks and records is the first byte of the slot's descriptor: the spec names
none (log entry 176, DESIGN CHOICE). -/
def Hw.lspArrive (h : Hw) (m : Nat) (w : LspWrite) : Hw :=
  let addr := 0x25000000 + m * 0x100000 + 128 * bits w.idx 0 13
  match h.tableCheck 6 w.master w.dom addr .write with
  | some c => h.violation addr w.master w.dom 6 .write c
  | none => h.setEng m { h.eng m with lsp := (h.eng m).lsp ++ [w] }

/-- A staged change takes effect on an engine: its words, then its mode request (R224, R225). -/
def LoopEngine.takeStaged (e : LoopEngine) (c : StagedChange) (manToo : Bool) : LoopEngine :=
  let e := (List.range 7).foldl (fun (e : LoopEngine) j => if bitOf c.mask j then e.setWord c.slot (12 + j) (c.words.getD j 0#32) else e) e
  let e := if c.resetSt then
      let u := e.get c.slot dU
      ((((((e.set c.slot dE1 0).set c.slot dE2 0).set c.slot dE3 0).set c.slot dY1 u).set c.slot dY2 u).set c.slot dY3 u)
    else e
  if e.flag c.slot dEn && e.st c.slot != slFault then e.request c.slot c.mode c.rampSkip manToo else e

/-- A waiting LSP write of the engine writes MAN of a slot. -/
def LoopEngine.lspMan (e : LoopEngine) (s : Nat) : Bool := e.lsp.any fun w => bits w.idx 0 13 == s && bits w.idx 14 3 == 2

/-- Everything staged for an engine takes effect at F+0: the staged words and mode request, then LSP writes by item:
set-point, manual output, mode (R224, R225). -/
def Hw.stagedApply (h : Hw) (m : Nat) : Hw :=
  let e := h.eng m
  let writesMan (s : Nat) : Bool :=
    e.lspMan s || (match e.staged with
      | some c => c.slot == s && bitOf c.mask 0
      | none => false)
  let h := match e.staged with
    | none => h
    | some c => (h.setEng m { e.takeStaged c (writesMan c.slot) with staged := none }).setFlag (LPE_STAT_STGBUSY m) false
  let lsp := (h.eng m).lsp
  let h := [0, 2, 1].foldl (fun h item =>
    (lsp.filter fun (w : LspWrite) => bits w.idx 14 3 == item).foldl (fun h w => h.lspApply m writesMan w) h) h
  h.setEng m { h.eng m with lsp := [] }

/-- At F+0: generators end on ABORT or start when their start F+0 has come; captures begin; the events raised for the
engine are used up (R226, R228, R229). -/
def Hw.injFrame (h : Hw) (m : Nat) : Hw :=
  let evs := Tab.getD h.evtLoop m []
  let h := { h with evtLoop := Tab.del h.evtLoop m }
  let h := if (h.eng m).injStop then (h.setEng m { h.eng m with injStop := false }).endGens m fun _ => true else h
  let h := (List.range 4).foldl (fun h k =>
    let g := (h.eng m).gen k
    if g.abort && (g.ready || h.flag (LPE_INJ_CTRL_ARM m k)) then h.genEnd m k
    else if h.flag (LPE_INJ_CTRL_ARM m k) && !g.ready && h.flag (LPE_CTRL_INJEN m)
        && (!h.flag (LPE_INJ_CTRL_TRIG m k) || evs.contains (h.fld (LPE_INJ_CTRL_EVT m k))) then
      h.setEng m ((h.eng m).setGen k { g with ready := true })
    else h) h
  (List.range 4).foldl (fun h k =>
    let b := (h.eng m).buf k
    let b := { b with seen := b.seen || (b.capturing && evs.contains (h.fld (LPE_CAP_CTRL_EVT m k))) }
    if h.flag (LPE_CAP_CTRL_ARM m k) && h.flag (LPE_CTRL_CAPEN m) && !b.capturing then
      let h := h.setEng m ((h.eng m).setBuf k ⟨true, evs.contains (h.fld (LPE_CAP_CTRL_EVT m k)), [], none⟩)
      let h := (h.setFlag (LPE_CAP_CTRL_ACTIVE m k) true).setFlag (LPE_CAP_CTRL_ARM m k) false
      (h.setFld (LPE_CAP_FILL m k) 0).setFld (LPE_CAP_FILL_TIDX m k) 0
    else h.setEng m ((h.eng m).setBuf k b)) h

/-- Generators on a slot end, each with its record; captures on it stop (R230). -/
def Hw.endOnSlot (h : Hw) (m s : Nat) : Hw :=
  (h.endGens m fun k => h.fld (LPE_INJ_CTRL_SLOT m k) == s).endCaps m fun k => h.fld (LPE_CAP_CTRL_SLOT m k) == s

/-- A slot is due in the frame FNUM (R161, R232). -/
def LoopEngine.due (e : LoopEngine) (fnum s : Nat) : Bool := e.get s dPeriod != 0 && fnum % e.get s dPeriod == e.get s dPhase

/-- An engine's loop window: due slots in ascending order are computed; those from `stall` on, where a hardware cause holds
the engine, are left (R232, R235). FAULT slots are skipped (R236). -/
def Hw.loopFrame (h : Hw) (m : Nat) (stall : Option Nat) : Hw :=
  let e := h.eng m
  let due := e.enabled.filter fun s => e.due (h.fld FRM_FNUM) s && e.st s != slFault
  let h := h.setEng m { e with left := due, outs := [], cycles := 0 }
  let run := match stall with
    | some t => due.filter fun s => decide (s < t)
    | none => due
  run.foldl (fun h s => h.slotCompute m s) h

/-- The tuning words of a slot as LOOP_ENABLE gave them are kept, or come back (R238). -/
def LoopEngine.keepImage (e : LoopEngine) (s : Nat) : LoopEngine :=
  { e with image := (List.range 7).foldl (fun t j => Tab.put t (s * 32 + 12 + j) (e.word s (12 + j))) e.image }
def LoopEngine.fromImage (e : LoopEngine) (s : Nat) : LoopEngine :=
  (List.range 7).foldl (fun (e : LoopEngine) j => match Tab.get? e.image (s * 32 + 12 + j) with
    | some w => e.setWord s (12 + j) w
    | none => e) e

/-- Puts a slot in the state its MODE0 gives at enable (R220). -/
def LoopEngine.enter (e : LoopEngine) (s : Nat) : LoopEngine :=
  let e := (List.range 8).foldl (fun e w => e.setWord s (24 + w) 0#32) e
  let man := e.get s dMan
  let e := (((e.set s dY1 man).set s dY2 man).set s dY3 man).setFlag s dEn true
  let mode := e.get s dMode0
  if mode = 1 then { (e.setSt s slAuto) with wspNext := Tab.put e.wspNext s false }
  else { (e.setSt s (if mode = 2 then slTrack else slManual)) with wspNext := Tab.del e.wspNext s }

/-- A slot stops (R212): EN and state OFF. -/
def Hw.slotOff (h : Hw) (m s : Nat) : Hw :=
  let h := h.endOnSlot m s
  let e := ((h.eng m).setFlag s dEn false).setSt s slOff
  h.setEng m { e with wspNext := Tab.del e.wspNext s, left := e.left.filter fun t => t != s }

/-! ## Commands of the LPEn blocks -/

/-- A write to a word of loop memory (R209): refused for an enabled slot. -/
def Hw.loopWrite (h : Hw) (master dom m off : Nat) (v : Word) : Hw :=
  let s := off / 128
  if (h.eng m).flag s dEn then h.violation (0x25000000 + m * 0x100000 + off) master dom 6 .write .targetRule
  else h.setEng m ((h.eng m).setWord s (off % 128 / 4) (if off % 128 / 4 = 0 then v &&& 0xFFFFFFFE#32 else v))

/-- STGCMD with GO (R224). -/
def stgGo (src : Src) (m : Nat) (cmd : Nat) (h : Hw) : Hw :=
  let e := h.eng m
  let slot := bits cmd 0 13
  let mask := bits cmd 16 7
  let w (j : Nat) : Word := BitVec.ofNat 32 (h.fld (LPE_STG_WORD m j))
  let word (j : Nat) : Nat := if bitOf mask j then (w j).toNat else (e.word slot (12 + j)).toNat
  let lims := word 1
  let own := isD0 src || src.dom.toNat == e.get slot dDomain
  if e.staged.isSome || !e.flag slot dEn || !own
      || decide (toSigned 16 (bits lims 16 16) < toSigned 16 (bits lims 0 16)) || decide (32767 < bits (word 2) 0 16) then
    h.setFlag (LPE_STAT_STGREF m) true
  else
    let h := ((h.setFld (LPE_STGCMD_SLOT m) slot).setFld (LPE_STGCMD_MODE m) (bits cmd 13 2)).setFlag
      (LPE_STGCMD_RAMPSKIP m) (bitOf cmd 15)
    let h := (h.setFld (LPE_STGCMD_MASK m) mask).setFlag (LPE_STGCMD_RESETST m) (bitOf cmd 23)
    (h.setEng m { e with staged := some ⟨slot, bits cmd 13 2, bitOf cmd 15, mask, bitOf cmd 23, (List.range 7).map w⟩ }).setFlag
      (LPE_STAT_STGBUSY m) true

/-- INJk_CTRL.ARM (R226, R228): ignored while the generator is ACTIVE. -/
def injArm (m k : Nat) (h : Hw) : Hw :=
  if h.flag (LPE_INJ_CTRL_ACTIVE m k) then h
  else
    let h := (h.setFlag (LPE_INJ_CTRL_ARM m k) true).setFld (LPE_INJ_COUNT m k) 0
    h.setEng m ((h.eng m).setGen k InjGen.reset)

/-- INJk_CTRL.ABORT (R228). -/
def injAbort (m k : Nat) (h : Hw) : Hw := h.setEng m ((h.eng m).setGen k { (h.eng m).gen k with abort := true })

/-- A write of LPEn.CTRL.INJEN: 0 ends every generator of the engine at the next F+0 (R230). -/
def injEn (m : Nat) (on : Bool) (h : Hw) : Hw :=
  let h := h.setFlag (LPE_CTRL_INJEN m) on
  if on then h else h.setEng m { h.eng m with injStop := true }

/-- CAPk_CTRL.ARM (R229): ignored while the buffer records. -/
def capArm (m k : Nat) (h : Hw) : Hw :=
  if h.flag (LPE_CAP_CTRL_ACTIVE m k) then h
  else
    (h.setFlag (LPE_CAP_CTRL_ARM m k) true).showSlot m (h.fld (LPE_CAP_CTRL_SLOT m k))

/-! ## Meanings -/

def execLoopDescriptorWrite (src : Src) (m : Fin 2) (off : Fin 262144) (v : Word) (s : State) :
    Host.Outcome State Fault Refusal :=
  .next (s.onHw fun h => h.asWrite src (0x25000000 + m.val * 0x100000 + 4 * off.val) 4 fun h =>
    h.loopWrite src.master.val src.dom.toNat m.val (4 * off.val) v)
def execStgcmdGo (src : Src) (m : Fin 2) (cmd : BitVec 32) (s : State) : Host.Outcome State Fault Refusal :=
  .next (s.onHw (stgGo src m.val cmd.toNat))
def execInjArm (m : Fin 2) (k : Fin 4) (s : State) : Host.Outcome State Fault Refusal := .next (s.onHw (injArm m.val k.val))
def execInjAbort (m : Fin 2) (k : Fin 4) (s : State) : Host.Outcome State Fault Refusal := .next (s.onHw (injAbort m.val k.val))
def execInjen (m : Fin 2) (on : Bool) (s : State) : Host.Outcome State Fault Refusal := .next (s.onHw (injEn m.val on))
def execCapArm (m : Fin 2) (k : Fin 4) (s : State) : Host.Outcome State Fault Refusal := .next (s.onHw (capArm m.val k.val))
def execCapsel (m : Fin 2) (buf : Fin 4) (s : State) : Host.Outcome State Fault Refusal :=
  .next (s.onHw fun h => h.setFld (LPE_CAPSEL_BUF m.val) buf.val)

end Sys2Proof.Machine
end

