-- ==== Sys2Proof/Machine/Ulc.lean ====
section
/-! DEFINITION. The instructions of Uscia Logic Code (03) but END: what each does to the registers and local memory of the
Lantern that executes it. A command of a Lantern that runs no task does nothing (log entry 16, DEDUCED). -/

namespace Sys2Proof.Machine

/-- A Lantern executes an instruction of `cost` ticks and `len` words (R85, R108, R123). -/
def Hw.ulcLen (h : Hw) (l : Fin 8) (cost len : Nat) (f : Lantern → Lantern) : Hw :=
  match (h.lan l.val).doing with
  | .running _ _ _ =>
    let x := f (h.lan l.val)
    h.setLan l.val { x with ticks := x.ticks + cost, pc := (x.pc + len) % 2 ^ 15 }
  | _ => h

/-- An instruction of one word. -/
def Hw.ulc (h : Hw) (l : Fin 8) (cost : Nat) (f : Lantern → Lantern) : Hw := h.ulcLen l cost 1 f

/-! ## Bit logic (R125-R127) -/

/-- The LD group: BA takes a function of BA and the operand bit. -/
def Hw.bitOp (h : Hw) (l : Fin 8) (sp : Space) (bit : Fin 32) (idx : BitVec 17) (f : Bool → Bool → Bool) : Hw :=
  h.ulc l 1 fun x => { x with ba := f x.ba (h.readBit x sp bit idx.toNat) }

/-- The ST group: the operand bit takes a value where there is one. -/
def Hw.stOp (h : Hw) (l : Fin 8) (sp : Space) (bit : Fin 32) (idx : BitVec 17) (f : Bool → Option Bool) : Hw :=
  h.ulc l 1 fun x =>
    match f x.ba with
    | some b => h.writeBit x sp bit idx.toNat b
    | none => x

/-- A bracket opens: BA is pushed with its function and takes `start`. -/
def Hw.bracket (h : Hw) (l : Fin 8) (f : NsFn) (start : Bool) : Hw :=
  h.ulc l 1 fun x => { x with ns := .bracket x.ba f :: x.ns, ba := start }

/-- The closing bracket: BA takes b f BA of the entry it pops. -/
def Lantern.closeBracket (x : Lantern) : Lantern :=
  match x.ns with
  | .bracket b .and :: t => { x with ns := t, ba := b && x.ba }
  | .bracket b .or :: t => { x with ns := t, ba := b || x.ba }
  | .bracket b .xor :: t => { x with ns := t, ba := b != x.ba }
  | _ => x

/-- RE and FE: BA takes the edge, the edge bit takes BA. -/
def Hw.edgeOp (h : Hw) (l : Fin 8) (m : Mod) (idx : BitVec 17) (f : Bool → Bool → Bool) : Hw :=
  h.ulc l 1 fun x =>
    let i := x.index m idx
    { x.putEdge i x.ba with ba := f x.ba (x.edge i) }

def Lantern.bop (x : Lantern) : BopFn → Lantern
  | .not => { x with ba := !x.ba }
  | .clr => { x with ba := false }
  | .set => { x with ba := true }
  | .clrov => { x with ov := false }

/-- IF: a block entry, ENB and BA (R127). -/
def Lantern.ifBlock (x : Lantern) : Lantern := { x with ns := .block x.enb x.ba false :: x.ns, enb := x.enb && x.ba }

/-- ELSE: with top (block, e, c, 0), ENB takes e AND NOT c (R127). -/
def Lantern.elseBlock (x : Lantern) : Lantern :=
  match x.ns with
  | .block e c false :: t => { x with ns := .block e c true :: t, enb := e && !c }
  | _ => x

/-- ENDIF: pops the block and restores ENB (R127). -/
def Lantern.endBlock (x : Lantern) : Lantern :=
  match x.ns with
  | .block e _ _ :: t => { x with ns := t, enb := e }
  | _ => x

/-! ## Timers and counters (R128-R134) -/

/-- The program of a Lantern whose declared range of a space (2 TMR, 3 CTR) holds an entry. -/
def Hw.entryProg (h : Hw) (l s i : Nat) : Nat :=
  match (h.progs.find? fun e => e.2.lnt == l &&
      (match e.2.prog.spaces[s]? with
        | some r => decide (r.base ≤ i) && decide (i < r.base + r.size)
        | none => false)) with
  | some e => e.1
  | none => 0

/-- A timer or counter of Lantern `l` reaches its limit (R132): limit capture and LIMIT. -/
def Hw.limitEvent (h : Hw) (l space i : Nat) : Hw :=
  let h := (h.setFld (LNT_LIMCAP_SPACE l) space).setFld (LNT_LIMCAP_INDEX l) i
  let h := (h.setFld (LNT_LIMCAP_PROG l) (h.entryProg l (space - 3) i)).setFlag (LNT_LIMCAP_VALID l) true
  h.raise (33 + 4 * l)

def timerMax : Nat := 2 ^ 32 - 1

/-- TON (R129, R131). -/
def Timer.ton (t : Timer) (inp : Bool) (pt : Nat) : Timer :=
  let t := if !inp then { t with run := false, et := 0, sat := false }
    else if !t.inp then { t with et := 0, run := true } else t
  { t with q := inp && decide (pt ≤ t.et), inp := inp }

/-- TOF (R129). -/
def Timer.tof (t : Timer) (inp : Bool) (pt : Nat) : Timer :=
  if inp then { t with run := false, et := 0, sat := false, q := true, inp := true }
  else
    let t := if t.inp then { t with et := 0, run := true } else t
    let t := if t.run then { t with q := decide (t.et < pt), run := decide (t.et < pt) } else t
    { t with inp := false }

/-- TP (R129, R131). -/
def Timer.tp (t : Timer) (inp : Bool) (pt : Nat) : Timer :=
  let t := if inp && !t.inp && !t.run then { t with et := 0, run := true, sat := false } else t
  let t := if t.run then { t with q := decide (t.et < pt), run := decide (t.et < pt) } else t
  let t := if !t.run && !inp then { t with et := 0 } else t
  { t with inp := inp }

/-- A timer instruction: IN = BA, PT = WA; then BA takes Q and WA takes ET (R129). -/
def Hw.timerOp (h : Hw) (l : Fin 8) (m : Mod) (idx : BitVec 17) (f : Timer → Bool → Nat → Timer) : Hw :=
  h.ulc l 4 fun x =>
    let i := x.index m idx
    let t := f (x.timer i) x.ba x.wa.toNat
    { x.putTimer i t with ba := t.q, wa := BitVec.ofNat 32 t.et }

/-- CTU, CTD, CTW and CLD (R129, R132, R133). -/
def Counter.ctu (c : Counter) (inp : Bool) (v : Nat) : Counter :=
  let c := if inp && !c.inp && decide (c.cv < timerMax) then
      { c with cv := c.cv + 1, sat := c.sat || c.cv + 1 == timerMax } else c
  { c with q := decide (v ≤ c.cv), inp := inp }
def Counter.ctd (c : Counter) (inp : Bool) (_ : Nat) : Counter :=
  let c := if inp && !c.inp && decide (0 < c.cv) then { c with cv := c.cv - 1, sat := c.sat || c.cv == 1 } else c
  { c with q := c.cv == 0, inp := inp }
def Counter.ctw (c : Counter) (inp : Bool) (_ : Nat) : Counter :=
  if inp && !c.inp then { c with cv := (c.cv + 1) % 2 ^ 32, q := c.cv == timerMax, inp := inp } else { c with q := false, inp := inp }
def Counter.cld (_ : Counter) (inp : Bool) (v : Nat) : Counter := ⟨v, false, inp, false⟩

/-- A counter instruction: then BA takes Q and WA takes CV; a count that reaches the limit sets SAT and raises LIMIT, where
the entry changes (R110, R132). -/
def Hw.counterOp (h : Hw) (l : Fin 8) (m : Mod) (idx : BitVec 17) (f : Counter → Bool → Nat → Counter) : Hw :=
  let x := h.lan l.val
  let i := x.index m idx
  let c := f (x.counter i) x.ba x.wa.toNat
  let hit := x.enb && c.sat && !(x.counter i).sat && (match x.doing with
    | .running _ _ _ => true
    | _ => false)
  let h := h.ulc l 4 fun x => { x.putCounter i c with ba := c.q, wa := BitVec.ofNat 32 c.cv }
  if hit then h.limitEvent l.val 6 i else h

/-! ## Moves and arithmetic (R135-R143) -/

/-- Stages SUBST and CLAMPED for an OUT or ILK point (R136). -/
def Lantern.stageTas (x : Lantern) (sp : Space) (i : Nat) : Lantern :=
  let b := (x.wa.getLsbD 3, x.wa.getLsbD 8)
  if x.enb then
    match sp with
    | .out => { x with tasOut := Tab.put x.tasOut i b }
    | .ilk => { x with tasIlk := Tab.put x.tasIlk (ilkKey x.prog i) b }
    | _ => x
  else x

def Lantern.wmv (x : Lantern) : WmvFn → Lantern
  | .xab => { x with wa := x.wb, wb := x.wa }
  | .cab => { x with wb := x.wa }
  | .cba => { x with wa := x.wb }
  | .wba => { x with wa := if x.ba then 1#32 else 0#32 }

/-- Ticks of CMP (R142). -/
def CmpType.ticks : CmpType → Nat
  | .f32 => 2
  | _ => 1

/-- LIM on a Lantern: BA reports the change (R143). -/
def Lantern.lim (x : Lantern) (t : CmpType) (i : Nat) : Lantern :=
  let r := limit t x.wa (x.const i) (x.const (i + 1))
  { x.result (t == .f32) r with ba := r.ov || r.val != x.wa }

/-! ## Control flow (R144-R146) -/

/-- The JMP condition (R145). -/
def Lantern.cond (x : Lantern) : JCond → Bool
  | .always => true
  | .ba => x.ba
  | .nba => !x.ba
  | .z => x.z
  | .nz => !x.z
  | .n => x.n
  | .nn => !x.n
  | .ov => x.ov
  | .nov => !x.ov

/-- LOOP opens a loop at the level of the LOOPs that enclose it (R146); its body begins at the next instruction. -/
def Lantern.openLoop (x : Lantern) (count a b : Nat) : Lantern :=
  { x with loops := x.loops ++ [⟨x.pc + 1, count, a, b, 0⟩] }

/-- ENDL: the next iteration, or the loop closes (R144). The PC is one before the place it goes to, which the instruction's
own step adds. -/
def Lantern.endLoop (x : Lantern) : Lantern :=
  match x.loops.getLast? with
  | none => x
  | some c =>
    if c.lc + 1 < c.count then
      { x with loops := x.loops.dropLast ++ [{ c with lc := c.lc + 1 }], pc := c.body - 1 }
    else { x with loops := x.loops.dropLast }

/-- Start of a block of the running program, in the bank (R157). -/
def Hw.blockStart (h : Hw) (prog blk : Nat) : Nat :=
  match Tab.get? h.progs prog with
  | some p => p.base + p.prog.blocks.getD blk 0
  | none => 0

/-! ## System bits and words (R147) -/

def Hw.sysBit (x : Lantern) (sel : Nat) : Bool :=
  if sel < 256 then x.ev.getLsbD sel
  else if sel = 256 then (match x.doing with
    | .running _ _ f => f
    | _ => false)
  else if sel = 257 then x.ov
  else if sel = 258 then x.z
  else x.n

def Hw.sysWord (h : Hw) (l : Nat) (x : Lantern) (sel : Nat) : Word :=
  let fnum := h.fld FRM_FNUM
  BitVec.ofNat 32 (if sel = 0 then fnum else if sel = 1 then fnum / 2 ^ 32
    else if sel = 2 then (match x.doing with
      | .running _ t _ => t
      | _ => 0)
    else if sel = 3 then l else x.prog)

/-! ## Meanings -/

def execUlcLd (l : Fin 8) (sp : Space) (bit : Fin 32) (idx : BitVec 17) (s : State) : Host.Outcome State Fault Refusal :=
  .next (s.onHw fun h => h.bitOp l sp bit idx fun _ op => op)
def execUlcLdn (l : Fin 8) (sp : Space) (bit : Fin 32) (idx : BitVec 17) (s : State) : Host.Outcome State Fault Refusal :=
  .next (s.onHw fun h => h.bitOp l sp bit idx fun _ op => !op)
def execUlcAnd (l : Fin 8) (sp : Space) (bit : Fin 32) (idx : BitVec 17) (s : State) : Host.Outcome State Fault Refusal :=
  .next (s.onHw fun h => h.bitOp l sp bit idx fun ba op => ba && op)
def execUlcAndn (l : Fin 8) (sp : Space) (bit : Fin 32) (idx : BitVec 17) (s : State) : Host.Outcome State Fault Refusal :=
  .next (s.onHw fun h => h.bitOp l sp bit idx fun ba op => ba && !op)
def execUlcOr (l : Fin 8) (sp : Space) (bit : Fin 32) (idx : BitVec 17) (s : State) : Host.Outcome State Fault Refusal :=
  .next (s.onHw fun h => h.bitOp l sp bit idx fun ba op => ba || op)
def execUlcOrn (l : Fin 8) (sp : Space) (bit : Fin 32) (idx : BitVec 17) (s : State) : Host.Outcome State Fault Refusal :=
  .next (s.onHw fun h => h.bitOp l sp bit idx fun ba op => ba || !op)
def execUlcXor (l : Fin 8) (sp : Space) (bit : Fin 32) (idx : BitVec 17) (s : State) : Host.Outcome State Fault Refusal :=
  .next (s.onHw fun h => h.bitOp l sp bit idx fun ba op => ba != op)
def execUlcXorn (l : Fin 8) (sp : Space) (bit : Fin 32) (idx : BitVec 17) (s : State) : Host.Outcome State Fault Refusal :=
  .next (s.onHw fun h => h.bitOp l sp bit idx fun ba op => ba != !op)
def execUlcAndBracket (l : Fin 8) (s : State) : Host.Outcome State Fault Refusal :=
  .next (s.onHw fun h => h.bracket l .and true)
def execUlcOrBracket (l : Fin 8) (s : State) : Host.Outcome State Fault Refusal :=
  .next (s.onHw fun h => h.bracket l .or false)
def execUlcXorBracket (l : Fin 8) (s : State) : Host.Outcome State Fault Refusal :=
  .next (s.onHw fun h => h.bracket l .xor false)
def execUlcCloseBracket (l : Fin 8) (s : State) : Host.Outcome State Fault Refusal :=
  .next (s.onHw fun h => h.ulc l 1 Lantern.closeBracket)
def execUlcSt (l : Fin 8) (sp : Space) (bit : Fin 32) (idx : BitVec 17) (s : State) : Host.Outcome State Fault Refusal :=
  .next (s.onHw fun h => h.stOp l sp bit idx fun ba => some ba)
def execUlcStn (l : Fin 8) (sp : Space) (bit : Fin 32) (idx : BitVec 17) (s : State) : Host.Outcome State Fault Refusal :=
  .next (s.onHw fun h => h.stOp l sp bit idx fun ba => some !ba)
def execUlcS (l : Fin 8) (sp : Space) (bit : Fin 32) (idx : BitVec 17) (s : State) : Host.Outcome State Fault Refusal :=
  .next (s.onHw fun h => h.stOp l sp bit idx fun ba => if ba then some true else none)
def execUlcR (l : Fin 8) (sp : Space) (bit : Fin 32) (idx : BitVec 17) (s : State) : Host.Outcome State Fault Refusal :=
  .next (s.onHw fun h => h.stOp l sp bit idx fun ba => if ba then some false else none)
def execUlcRe (l : Fin 8) (m : Mod) (idx : BitVec 17) (s : State) : Host.Outcome State Fault Refusal :=
  .next (s.onHw fun h => h.edgeOp l m idx fun ba op => ba && !op)
def execUlcFe (l : Fin 8) (m : Mod) (idx : BitVec 17) (s : State) : Host.Outcome State Fault Refusal :=
  .next (s.onHw fun h => h.edgeOp l m idx fun ba op => op && !ba)
def execUlcBop (l : Fin 8) (f : BopFn) (s : State) : Host.Outcome State Fault Refusal :=
  .next (s.onHw fun h => h.ulc l 1 fun x => x.bop f)
def execUlcIf (l : Fin 8) (s : State) : Host.Outcome State Fault Refusal := .next (s.onHw fun h => h.ulc l 1 Lantern.ifBlock)
def execUlcElse (l : Fin 8) (s : State) : Host.Outcome State Fault Refusal := .next (s.onHw fun h => h.ulc l 1 Lantern.elseBlock)
def execUlcEndif (l : Fin 8) (s : State) : Host.Outcome State Fault Refusal := .next (s.onHw fun h => h.ulc l 1 Lantern.endBlock)
def execUlcTon (l : Fin 8) (m : Mod) (idx : BitVec 17) (s : State) : Host.Outcome State Fault Refusal :=
  .next (s.onHw fun h => h.timerOp l m idx Timer.ton)
def execUlcTof (l : Fin 8) (m : Mod) (idx : BitVec 17) (s : State) : Host.Outcome State Fault Refusal :=
  .next (s.onHw fun h => h.timerOp l m idx Timer.tof)
def execUlcTp (l : Fin 8) (m : Mod) (idx : BitVec 17) (s : State) : Host.Outcome State Fault Refusal :=
  .next (s.onHw fun h => h.timerOp l m idx Timer.tp)
def execUlcTrs (l : Fin 8) (m : Mod) (idx : BitVec 17) (s : State) : Host.Outcome State Fault Refusal :=
  .next (s.onHw fun h => h.timerOp l m idx fun _ _ _ => Timer.reset)
def execUlcCtu (l : Fin 8) (m : Mod) (idx : BitVec 17) (s : State) : Host.Outcome State Fault Refusal :=
  .next (s.onHw fun h => h.counterOp l m idx Counter.ctu)
def execUlcCtd (l : Fin 8) (m : Mod) (idx : BitVec 17) (s : State) : Host.Outcome State Fault Refusal :=
  .next (s.onHw fun h => h.counterOp l m idx Counter.ctd)
def execUlcCtw (l : Fin 8) (m : Mod) (idx : BitVec 17) (s : State) : Host.Outcome State Fault Refusal :=
  .next (s.onHw fun h => h.counterOp l m idx Counter.ctw)
def execUlcCld (l : Fin 8) (m : Mod) (idx : BitVec 17) (s : State) : Host.Outcome State Fault Refusal :=
  .next (s.onHw fun h => h.counterOp l m idx Counter.cld)
def execUlcLa (l : Fin 8) (sp : Space) (m : Mod) (idx : BitVec 17) (s : State) : Host.Outcome State Fault Refusal :=
  .next (s.onHw fun h => h.ulc l 1 fun x => { x with wa := h.readWord x sp (x.index m idx) })
def execUlcLb (l : Fin 8) (sp : Space) (m : Mod) (idx : BitVec 17) (s : State) : Host.Outcome State Fault Refusal :=
  .next (s.onHw fun h => h.ulc l 1 fun x => { x with wb := h.readWord x sp (x.index m idx) })
def execUlcLas (l : Fin 8) (m : Mod) (idx : BitVec 17) (s : State) : Host.Outcome State Fault Refusal :=
  .next (s.onHw fun h => h.ulc l 1 fun x => { x with wa := (h.inPoint (x.index m idx)).st.setWidth 32 })
def execUlcLag (l : Fin 8) (m : Mod) (idx : BitVec 17) (s : State) : Host.Outcome State Fault Refusal :=
  .next (s.onHw fun h => h.ulc l 1 fun x => { x with wa := BitVec.ofNat 32 (h.inPoint (x.index m idx)).age })
def execUlcTa (l : Fin 8) (sp : Space) (m : Mod) (idx : BitVec 17) (s : State) : Host.Outcome State Fault Refusal :=
  .next (s.onHw fun h => h.ulc l 1 fun x => x.writeWord sp (x.index m idx) x.wa)
def execUlcTas (l : Fin 8) (sp : Space) (m : Mod) (idx : BitVec 17) (s : State) : Host.Outcome State Fault Refusal :=
  .next (s.onHw fun h => h.ulc l 1 fun x => x.stageTas sp (x.index m idx))
def execUlcLai (l : Fin 8) (imm : BitVec 22) (s : State) : Host.Outcome State Fault Refusal :=
  .next (s.onHw fun h => h.ulc l 1 fun x => { x with wa := imm.signExtend 32 })
def execUlcLbi (l : Fin 8) (imm : BitVec 22) (s : State) : Host.Outcome State Fault Refusal :=
  .next (s.onHw fun h => h.ulc l 1 fun x => { x with wb := imm.signExtend 32 })
def execUlcLak (l : Fin 8) (lit : Word) (s : State) : Host.Outcome State Fault Refusal :=
  .next (s.onHw fun h => h.ulcLen l 2 2 fun x => { x with wa := lit })
def execUlcLbk (l : Fin 8) (lit : Word) (s : State) : Host.Outcome State Fault Refusal :=
  .next (s.onHw fun h => h.ulcLen l 2 2 fun x => { x with wb := lit })
def execUlcWmv (l : Fin 8) (f : WmvFn) (s : State) : Host.Outcome State Fault Refusal :=
  .next (s.onHw fun h => h.ulc l 1 fun x => x.wmv f)
def execUlcIop (l : Fin 8) (f : IopFn) (s : State) : Host.Outcome State Fault Refusal :=
  .next (s.onHw fun h => h.ulc l (IopFn.ticks f) fun x => x.result false (iop f x.wa x.wb))
def execUlcFop (l : Fin 8) (f : FopFn) (s : State) : Host.Outcome State Fault Refusal :=
  .next (s.onHw fun h => h.ulc l (FopFn.ticks f) fun x => x.result true (fop f x.wa x.wb))
def execUlcCvt (l : Fin 8) (f : CvtFn) (s : State) : Host.Outcome State Fault Refusal :=
  .next (s.onHw fun h => h.ulc l 2 fun x => x.result (CvtFn.toF32 f) (cvt f x.wa))
def execUlcCmp (l : Fin 8) (ty : CmpType) (r : Rel) (s : State) : Host.Outcome State Fault Refusal :=
  .next (s.onHw fun h => h.ulc l (CmpType.ticks ty) fun x => x.compare ty r)
def execUlcScl (l : Fin 8) (ty : SclType) (m : Mod) (i : BitVec 12) (s : State) : Host.Outcome State Fault Refusal :=
  .next (s.onHw fun h => h.ulc l 4 fun x =>
    let k := i.toNat + x.modOff m
    x.result (ty == .f32) (scale ty x.wa (x.const k) (x.const (k + 1))))
def execUlcLim (l : Fin 8) (ty : CmpType) (m : Mod) (i : BitVec 12) (s : State) : Host.Outcome State Fault Refusal :=
  .next (s.onHw fun h => h.ulc l 2 fun x => x.lim ty (i.toNat + x.modOff m))
def execUlcJmp (l : Fin 8) (c : JCond) (dist : BitVec 15) (s : State) : Host.Outcome State Fault Refusal :=
  .next (s.onHw fun h => h.ulcLen l 1 (if (h.lan l.val).cond c then dist.toNat else 1) id)
def execUlcLoop (l : Fin 8) (count : BitVec 9) (a : BitVec 7) (b : BitVec 6) (s : State) : Host.Outcome State Fault Refusal :=
  .next (s.onHw fun h => h.ulc l 1 fun x => x.openLoop count.toNat a.toNat b.toNat)
def execUlcEndl (l : Fin 8) (s : State) : Host.Outcome State Fault Refusal := .next (s.onHw fun h => h.ulc l 1 Lantern.endLoop)
def execUlcCall (l : Fin 8) (blk : BitVec 8) (s : State) : Host.Outcome State Fault Refusal :=
  .next (s.onHw fun h => h.ulcLen l 4 0 fun x =>
    { x with cs := (x.pc + 1) :: x.cs, pc := h.blockStart x.prog blk.toNat })
def execUlcRet (l : Fin 8) (s : State) : Host.Outcome State Fault Refusal :=
  .next (s.onHw fun h => h.ulcLen l 3 0 fun x =>
    match x.cs with
    | r :: t => { x with cs := t, pc := r }
    | [] => x)
def execUlcNop (l : Fin 8) (s : State) : Host.Outcome State Fault Refusal := .next (s.onHw fun h => h.ulc l 1 id)
def execUlcLsm (l : Fin 8) (mode : BitVec 5) (idx : BitVec 17) (s : State) : Host.Outcome State Fault Refusal :=
  .next (s.onHw fun h => h.ulc l 1 fun x => x.writeWord .lsp idx.toNat (mode.setWidth 32))
def execUlcLdsb (l : Fin 8) (sel : Fin 260) (s : State) : Host.Outcome State Fault Refusal :=
  .next (s.onHw fun h => h.ulc l 1 fun x => { x with ba := Hw.sysBit x sel.val })
def execUlcLdsw (l : Fin 8) (sel : Fin 5) (s : State) : Host.Outcome State Fault Refusal :=
  .next (s.onHw fun h => h.ulc l 1 fun x => { x with wa := h.sysWord l.val x sel.val })

end Sys2Proof.Machine
end

