-- ==== Sys2Proof/Machine/UlcCode.lean ====
section
/-! DEFINITION. The instruction words of Uscia Logic Code (R112, R115, R119-R122, R148): the decoder, the encoder, and
what admission needs of an instruction: its cost, its length, its operand. -/

namespace Sys2Proof.Machine

/-! ## Fields of a word (R119, R121) -/

def Space.ofCode (c : BitVec 4) : Option Space :=
  match c.toNat with
  | 0 => some .inp | 1 => some .out | 2 => some .ilk | 3 => some .mrk | 4 => some .lw | 5 => some .tmr | 6 => some .ctr
  | 7 => some .edg | 8 => some .const | 9 => some .lsp | 10 => some .lrd
  | _ => none

def Space.code : Space → BitVec 4
  | .inp => 0 | .out => 1 | .ilk => 2 | .mrk => 3 | .lw => 4 | .tmr => 5 | .ctr => 6 | .edg => 7 | .const => 8 | .lsp => 9
  | .lrd => 10

def ModKind.ofCode (c : BitVec 2) : ModKind :=
  match c.toNat with
  | 0 => .none | 1 => .strideA | 2 => .strideB
  | _ => .one

def ModKind.code : ModKind → BitVec 2
  | .none => 0 | .strideA => 1 | .strideB => 2 | .one => 3

/-- A MOD field: bit 17 is 0, and LC is 0 with no offset (R121, R122). -/
def Mod.ofCode (c : BitVec 5) : Option Mod :=
  let k := ModKind.ofCode (c.extractLsb' 3 2)
  let lc := c.extractLsb' 1 2
  if c.getLsbD 0 || (k == .none && lc != 0) then none else some ⟨k, lc.toFin⟩

def Mod.code (m : Mod) : BitVec 5 := ModKind.code m.kind ++ (BitVec.ofFin m.lc : BitVec 2) ++ 0#1

/-- Functions of BOP, WMV, IOP, FOP and CVT by code. -/
def BopFn.ofCode : Nat → Option BopFn
  | 0 => some .not | 1 => some .clr | 2 => some .set | 3 => some .clrov
  | _ => none
def BopFn.code : BopFn → BitVec 5
  | .not => 0 | .clr => 1 | .set => 2 | .clrov => 3
def WmvFn.ofCode : Nat → Option WmvFn
  | 0 => some .xab | 1 => some .cab | 2 => some .cba | 3 => some .wba
  | _ => none
def WmvFn.code : WmvFn → BitVec 5
  | .xab => 0 | .cab => 1 | .cba => 2 | .wba => 3
def IopFn.ofCode : Nat → Option IopFn
  | 0 => some .add | 1 => some .sub | 2 => some .mul | 3 => some .div | 4 => some .rem | 5 => some .addw | 6 => some .subw
  | 7 => some .mulw | 8 => some .neg | 9 => some .abs | 10 => some .min | 11 => some .max | 12 => some .and | 13 => some .or
  | 14 => some .xor | 15 => some .not | 16 => some .shl | 17 => some .shr | 18 => some .sar | 19 => some .qmul
  | 20 => some .qdiv
  | _ => none
def IopFn.code : IopFn → BitVec 5
  | .add => 0 | .sub => 1 | .mul => 2 | .div => 3 | .rem => 4 | .addw => 5 | .subw => 6 | .mulw => 7 | .neg => 8 | .abs => 9
  | .min => 10 | .max => 11 | .and => 12 | .or => 13 | .xor => 14 | .not => 15 | .shl => 16 | .shr => 17 | .sar => 18
  | .qmul => 19 | .qdiv => 20
def FopFn.ofCode : Nat → Option FopFn
  | 0 => some .fadd | 1 => some .fsub | 2 => some .fmul | 3 => some .fdiv | 4 => some .fsqrt | 5 => some .fneg
  | 6 => some .fabs | 7 => some .fmin | 8 => some .fmax
  | _ => none
def FopFn.code : FopFn → BitVec 5
  | .fadd => 0 | .fsub => 1 | .fmul => 2 | .fdiv => 3 | .fsqrt => 4 | .fneg => 5 | .fabs => 6 | .fmin => 7 | .fmax => 8
def CvtFn.ofCode : Nat → Option CvtFn
  | 0 => some .itof | 1 => some .utof | 2 => some .qtof | 3 => some .ftoi | 4 => some .ftou | 5 => some .ftoq
  | 6 => some .ftoir
  | _ => none
def CvtFn.code : CvtFn → BitVec 5
  | .itof => 0 | .utof => 1 | .qtof => 2 | .ftoi => 3 | .ftou => 4 | .ftoq => 5 | .ftoir => 6
def Rel.ofCode : Nat → Option Rel
  | 0 => some .eq | 1 => some .ne | 2 => some .lt | 3 => some .le | 4 => some .gt | 5 => some .ge
  | _ => none
def Rel.code : Rel → BitVec 3
  | .eq => 0 | .ne => 1 | .lt => 2 | .le => 3 | .gt => 4 | .ge => 5
def CmpType.ofCode : Nat → Option CmpType
  | 0 => some .i32 | 1 => some .u32 | 2 => some .f32
  | _ => none
def CmpType.code : CmpType → BitVec 2
  | .i32 => 0 | .u32 => 1 | .f32 => 2
def SclType.ofCode : Nat → Option SclType
  | 0 => some .f32 | 1 => some .q16
  | _ => none
def SclType.code : SclType → BitVec 2
  | .f32 => 0 | .q16 => 1
def JCond.ofCode : Nat → Option JCond
  | 0 => some .always | 1 => some .ba | 2 => some .nba | 3 => some .z | 4 => some .nz | 5 => some .n | 6 => some .nn
  | 7 => some .ov | 8 => some .nov
  | _ => none
def JCond.code : JCond → BitVec 4
  | .always => 0 | .ba => 1 | .nba => 2 | .z => 3 | .nz => 4 | .n => 5 | .nn => 6 | .ov => 7 | .nov => 8

/-! ## Which spaces an instruction takes (R112, R115, R120) -/

/-- Operands of the LD group. -/
def Space.bitRead : Space → Bool
  | .inp | .out | .mrk | .lw | .tmr | .ctr | .edg | .lrd => true
  | .ilk | .const | .lsp => false
/-- Operands of the ST group. -/
def Space.bitWrite : Space → Bool
  | .out | .ilk | .mrk | .lw => true
  | .inp | .tmr | .ctr | .edg | .const | .lsp | .lrd => false
/-- Operands of LA and LB. -/
def Space.wordRead : Space → Bool
  | .inp | .out | .lw | .tmr | .ctr | .const | .lrd => true
  | .ilk | .mrk | .edg | .lsp => false
/-- Operands of TA. -/
def Space.wordWrite : Space → Bool
  | .out | .ilk | .lw | .lsp => true
  | .inp | .mrk | .tmr | .ctr | .edg | .const | .lrd => false
/-- Spaces whose bit number is 0 (R120). -/
def Space.oneBit : Space → Bool
  | .mrk | .edg | .tmr | .ctr | .lrd => true
  | .inp | .out | .ilk | .lw | .const | .lsp => false

/-- The ITEM of an LSP or LRD index is in its table (R115). -/
def Space.itemOk (sp : Space) (idx : BitVec 17) : Bool :=
  match sp with
  | .lsp => decide ((idx.extractLsb' 14 3).toNat ≤ 2)
  | .lrd => decide ((idx.extractLsb' 14 3).toNat ≤ 1)
  | _ => true

/-! ## The decoder -/

/-- Bit-operand form. -/
def bitForm (w : Word) (ok : Space → Bool) (f : Space → Fin 32 → BitVec 17 → Instr) : Option Instr :=
  let idx := w.extractLsb' 0 17
  let bit := w.extractLsb' 17 5
  match Space.ofCode (w.extractLsb' 22 4) with
  | some sp => if ok sp && (!Space.oneBit sp || bit == 0) && Space.itemOk sp idx then some (f sp bit.toFin idx) else none
  | none => none

/-- Word-operand form. -/
def wordForm (w : Word) (ok : Space → Bool) (f : Space → Mod → BitVec 17 → Instr) : Option Instr :=
  let idx := w.extractLsb' 0 17
  match Space.ofCode (w.extractLsb' 22 4), Mod.ofCode (w.extractLsb' 17 5) with
  | some sp, some m => if ok sp && Space.itemOk sp idx then some (f sp m idx) else none
  | _, _ => none

/-- Word-operand form of one space. -/
def oneForm (w : Word) (sp : Space) (f : Mod → BitVec 17 → Instr) : Option Instr :=
  wordForm w (fun s => s == sp) fun _ m idx => f m idx

/-- Function form. -/
def fnForm {α : Type} (w : Word) (of : Nat → Option α) (f : α → Instr) : Option Instr :=
  if w.extractLsb' 5 21 = 0#21 then (of (w.extractLsb' 0 5).toNat).map f else none

/-- Plain form. -/
def plainForm (w : Word) (i : Instr) : Option Instr := if w.extractLsb' 0 26 = 0#26 then some i else none

/-- SCL and LIM: space CONST, MOD, TYPE, a zero field and I (R143). -/
def constForm {α : Type} (w : Word) (of : Nat → Option α) (f : α → Mod → BitVec 12 → Instr) : Option Instr :=
  if w.extractLsb' 22 4 = Space.code .const ∧ w.extractLsb' 12 3 = 0#3 then
    match Mod.ofCode (w.extractLsb' 17 5), of (w.extractLsb' 15 2).toNat with
    | some m, some t => some (f t m (w.extractLsb' 0 12))
    | _, _ => none
  else none

/-- The instruction an instruction word (and, for LAK and LBK, the literal word after it) stands for on a Lantern; `none`
where R112, R115, R120, R122 or R148 refuses it with OPCODE. -/
def ulcDecode (l : Fin 8) (w lit : Word) : Option Instr :=
  let imm := w.extractLsb' 0 22
  match (w.extractLsb' 26 6).toNat with
  | 0x01 => bitForm w Space.bitRead (.ulcLd l)
  | 0x02 => bitForm w Space.bitRead (.ulcLdn l)
  | 0x03 => bitForm w Space.bitRead (.ulcAnd l)
  | 0x04 => bitForm w Space.bitRead (.ulcAndn l)
  | 0x05 => bitForm w Space.bitRead (.ulcOr l)
  | 0x06 => bitForm w Space.bitRead (.ulcOrn l)
  | 0x07 => bitForm w Space.bitRead (.ulcXor l)
  | 0x08 => bitForm w Space.bitRead (.ulcXorn l)
  | 0x09 => plainForm w (.ulcAndBracket l)
  | 0x0A => plainForm w (.ulcOrBracket l)
  | 0x0B => plainForm w (.ulcXorBracket l)
  | 0x0C => plainForm w (.ulcCloseBracket l)
  | 0x0D => bitForm w Space.bitWrite (.ulcSt l)
  | 0x0E => bitForm w Space.bitWrite (.ulcStn l)
  | 0x0F => bitForm w Space.bitWrite (.ulcS l)
  | 0x10 => bitForm w Space.bitWrite (.ulcR l)
  | 0x11 => oneForm w .edg (.ulcRe l)
  | 0x12 => oneForm w .edg (.ulcFe l)
  | 0x13 => fnForm w BopFn.ofCode (.ulcBop l)
  | 0x14 => plainForm w (.ulcIf l)
  | 0x15 => plainForm w (.ulcElse l)
  | 0x16 => plainForm w (.ulcEndif l)
  | 0x17 => oneForm w .tmr (.ulcTon l)
  | 0x18 => oneForm w .tmr (.ulcTof l)
  | 0x19 => oneForm w .tmr (.ulcTp l)
  | 0x1A => oneForm w .tmr (.ulcTrs l)
  | 0x1B => oneForm w .ctr (.ulcCtu l)
  | 0x1C => oneForm w .ctr (.ulcCtd l)
  | 0x1D => oneForm w .ctr (.ulcCtw l)
  | 0x1E => oneForm w .ctr (.ulcCld l)
  | 0x20 => wordForm w Space.wordRead (.ulcLa l)
  | 0x21 => wordForm w Space.wordRead (.ulcLb l)
  | 0x22 => oneForm w .inp (.ulcLas l)
  | 0x23 => oneForm w .inp (.ulcLag l)
  | 0x24 => wordForm w Space.wordWrite (.ulcTa l)
  | 0x25 => wordForm w (fun s => s == .out || s == .ilk) (.ulcTas l)
  | 0x26 => if w.extractLsb' 22 4 = 0#4 then some (.ulcLai l imm) else none
  | 0x27 => if w.extractLsb' 22 4 = 0#4 then some (.ulcLbi l imm) else none
  | 0x28 => plainForm w (.ulcLak l lit)
  | 0x29 => plainForm w (.ulcLbk l lit)
  | 0x2A => fnForm w WmvFn.ofCode (.ulcWmv l)
  | 0x2B => fnForm w IopFn.ofCode (.ulcIop l)
  | 0x2C => fnForm w FopFn.ofCode (.ulcFop l)
  | 0x2D => fnForm w CvtFn.ofCode (.ulcCvt l)
  | 0x2E =>
    if w.extractLsb' 5 21 = 0#21 then
      match CmpType.ofCode (w.extractLsb' 3 2).toNat, Rel.ofCode (w.extractLsb' 0 3).toNat with
      | some t, some r => some (.ulcCmp l t r)
      | _, _ => none
    else none
  | 0x2F => constForm w SclType.ofCode (.ulcScl l)
  | 0x30 => constForm w CmpType.ofCode (.ulcLim l)
  | 0x31 =>
    if w.extractLsb' 15 7 = 0#7 then
      (JCond.ofCode (w.extractLsb' 22 4).toNat).map fun c => .ulcJmp l c (w.extractLsb' 0 15)
    else none
  | 0x32 =>
    if w.extractLsb' 22 4 = 0#4 then some (.ulcLoop l (w.extractLsb' 0 9) (w.extractLsb' 9 7) (w.extractLsb' 16 6)) else none
  | 0x33 => plainForm w (.ulcEndl l)
  | 0x34 => if w.extractLsb' 8 18 = 0#18 then some (.ulcCall l (w.extractLsb' 0 8)) else none
  | 0x35 => plainForm w (.ulcRet l)
  | 0x36 => plainForm w (.ulcEnd l)
  | 0x37 =>
    if w.extractLsb' 22 4 = Space.code .lsp ∧ w.extractLsb' 14 3 = 1#3 then
      some (.ulcLsm l (w.extractLsb' 17 5) (w.extractLsb' 0 17))
    else none
  | 0x38 =>
    let sel := (w.extractLsb' 0 9).toNat
    if h : w.extractLsb' 9 17 = 0#17 ∧ sel < 260 then some (.ulcLdsb l ⟨sel, h.2⟩) else none
  | 0x39 =>
    let sel := (w.extractLsb' 0 9).toNat
    if h : w.extractLsb' 9 17 = 0#17 ∧ sel < 5 then some (.ulcLdsw l ⟨sel, h.2⟩) else none
  | 0x3F => plainForm w (.ulcNop l)
  | _ => none

/-! ## The encoder -/

/-- The forms of R119 from their fields. -/
def packBit (op : BitVec 6) (sp : Space) (bit : Fin 32) (idx : BitVec 17) : Word :=
  op ++ Space.code sp ++ (BitVec.ofFin bit : BitVec 5) ++ idx
def packWord (op : BitVec 6) (sp : Space) (m : Mod) (idx : BitVec 17) : Word := op ++ Space.code sp ++ Mod.code m ++ idx
def packImm (op : BitVec 6) (imm : BitVec 22) : Word := op ++ 0#4 ++ imm
def packFn (op : BitVec 6) (fn : BitVec 5) : Word := op ++ 0#21 ++ fn
def packPlain (op : BitVec 6) : Word := op ++ 0#26

/-- The words of an instruction of Uscia Logic Code: its word and, for LAK and LBK, its literal word. -/
def ulcEncode : Instr → Option (Word × Option Word)
  | .ulcLd _ sp b i => some (packBit 0x01 sp b i, none)
  | .ulcLdn _ sp b i => some (packBit 0x02 sp b i, none)
  | .ulcAnd _ sp b i => some (packBit 0x03 sp b i, none)
  | .ulcAndn _ sp b i => some (packBit 0x04 sp b i, none)
  | .ulcOr _ sp b i => some (packBit 0x05 sp b i, none)
  | .ulcOrn _ sp b i => some (packBit 0x06 sp b i, none)
  | .ulcXor _ sp b i => some (packBit 0x07 sp b i, none)
  | .ulcXorn _ sp b i => some (packBit 0x08 sp b i, none)
  | .ulcAndBracket _ => some (packPlain 0x09, none)
  | .ulcOrBracket _ => some (packPlain 0x0A, none)
  | .ulcXorBracket _ => some (packPlain 0x0B, none)
  | .ulcCloseBracket _ => some (packPlain 0x0C, none)
  | .ulcSt _ sp b i => some (packBit 0x0D sp b i, none)
  | .ulcStn _ sp b i => some (packBit 0x0E sp b i, none)
  | .ulcS _ sp b i => some (packBit 0x0F sp b i, none)
  | .ulcR _ sp b i => some (packBit 0x10 sp b i, none)
  | .ulcRe _ m i => some (packWord 0x11 .edg m i, none)
  | .ulcFe _ m i => some (packWord 0x12 .edg m i, none)
  | .ulcBop _ f => some (packFn 0x13 (BopFn.code f), none)
  | .ulcIf _ => some (packPlain 0x14, none)
  | .ulcElse _ => some (packPlain 0x15, none)
  | .ulcEndif _ => some (packPlain 0x16, none)
  | .ulcTon _ m i => some (packWord 0x17 .tmr m i, none)
  | .ulcTof _ m i => some (packWord 0x18 .tmr m i, none)
  | .ulcTp _ m i => some (packWord 0x19 .tmr m i, none)
  | .ulcTrs _ m i => some (packWord 0x1A .tmr m i, none)
  | .ulcCtu _ m i => some (packWord 0x1B .ctr m i, none)
  | .ulcCtd _ m i => some (packWord 0x1C .ctr m i, none)
  | .ulcCtw _ m i => some (packWord 0x1D .ctr m i, none)
  | .ulcCld _ m i => some (packWord 0x1E .ctr m i, none)
  | .ulcLa _ sp m i => some (packWord 0x20 sp m i, none)
  | .ulcLb _ sp m i => some (packWord 0x21 sp m i, none)
  | .ulcLas _ m i => some (packWord 0x22 .inp m i, none)
  | .ulcLag _ m i => some (packWord 0x23 .inp m i, none)
  | .ulcTa _ sp m i => some (packWord 0x24 sp m i, none)
  | .ulcTas _ sp m i => some (packWord 0x25 sp m i, none)
  | .ulcLai _ imm => some (packImm 0x26 imm, none)
  | .ulcLbi _ imm => some (packImm 0x27 imm, none)
  | .ulcLak _ lit => some (packPlain 0x28, some lit)
  | .ulcLbk _ lit => some (packPlain 0x29, some lit)
  | .ulcWmv _ f => some (packFn 0x2A (WmvFn.code f), none)
  | .ulcIop _ f => some (packFn 0x2B (IopFn.code f), none)
  | .ulcFop _ f => some (packFn 0x2C (FopFn.code f), none)
  | .ulcCvt _ f => some (packFn 0x2D (CvtFn.code f), none)
  | .ulcCmp _ t r => some (packFn 0x2E (CmpType.code t ++ Rel.code r), none)
  | .ulcScl _ t m i => some (packWord 0x2F .const m (SclType.code t ++ 0#3 ++ i), none)
  | .ulcLim _ t m i => some (packWord 0x30 .const m (CmpType.code t ++ 0#3 ++ i), none)
  | .ulcJmp _ c d => some ((0x31#6 ++ JCond.code c ++ 0#7 ++ d : Word), none)
  | .ulcLoop _ n a b => some (packImm 0x32 (b ++ a ++ n), none)
  | .ulcEndl _ => some (packPlain 0x33, none)
  | .ulcCall _ b => some ((0x34#6 ++ 0#18 ++ b : Word), none)
  | .ulcRet _ => some (packPlain 0x35, none)
  | .ulcEnd _ => some (packPlain 0x36, none)
  | .ulcLsm _ v i => some ((0x37#6 ++ Space.code .lsp ++ v ++ i : Word), none)
  | .ulcLdsb _ s => some ((0x38#6 ++ 0#17 ++ BitVec.ofNat 9 s.val : Word), none)
  | .ulcLdsw _ s => some ((0x39#6 ++ 0#17 ++ BitVec.ofNat 9 s.val : Word), none)
  | .ulcNop _ => some (packPlain 0x3F, none)
  | _ => none

/-! ## What admission asks of an instruction -/

/-- Ticks of an instruction (R123): the tables of R125-R147. -/
def ulcTicks : Instr → Nat
  | .ulcTon .. | .ulcTof .. | .ulcTp .. | .ulcTrs .. | .ulcCtu .. | .ulcCtd .. | .ulcCtw .. | .ulcCld .. => 4
  | .ulcLak .. | .ulcLbk .. => 2
  | .ulcIop _ f => IopFn.ticks f
  | .ulcFop _ f => FopFn.ticks f
  | .ulcCvt .. => 2
  | .ulcCmp _ t _ => CmpType.ticks t
  | .ulcScl .. => 4
  | .ulcLim .. => 2
  | .ulcCall .. => 4
  | .ulcRet .. => 3
  | _ => 1

/-- The operand of an instruction in a space: the space, whether it is written, index and MOD; SCL and LIM take `two`
elements. -/
structure UlcUse where
  sp : Space
  idx : Nat
  mod : Mod
  two : Bool
  deriving DecidableEq, Repr

def noMod : Mod := ⟨.none, 0⟩

def ulcUse : Instr → Option UlcUse
  | .ulcLd _ sp _ i | .ulcLdn _ sp _ i | .ulcAnd _ sp _ i | .ulcAndn _ sp _ i | .ulcOr _ sp _ i | .ulcOrn _ sp _ i
  | .ulcXor _ sp _ i | .ulcXorn _ sp _ i | .ulcSt _ sp _ i | .ulcStn _ sp _ i | .ulcS _ sp _ i | .ulcR _ sp _ i =>
    some ⟨sp, i.toNat, noMod, false⟩
  | .ulcRe _ m i | .ulcFe _ m i => some ⟨.edg, i.toNat, m, false⟩
  | .ulcTon _ m i | .ulcTof _ m i | .ulcTp _ m i | .ulcTrs _ m i => some ⟨.tmr, i.toNat, m, false⟩
  | .ulcCtu _ m i | .ulcCtd _ m i | .ulcCtw _ m i | .ulcCld _ m i => some ⟨.ctr, i.toNat, m, false⟩
  | .ulcLa _ sp m i | .ulcLb _ sp m i | .ulcTa _ sp m i | .ulcTas _ sp m i => some ⟨sp, i.toNat, m, false⟩
  | .ulcLas _ m i | .ulcLag _ m i => some ⟨.inp, i.toNat, m, false⟩
  | .ulcScl _ _ m i | .ulcLim _ _ m i => some ⟨.const, i.toNat, m, true⟩
  | .ulcLsm _ _ i => some ⟨.lsp, i.toNat, noMod, false⟩
  | _ => none

/-- An instruction that is followed by a literal word. -/
def ulcLong : Instr → Bool
  | .ulcLak .. | .ulcLbk .. => true
  | _ => false

end Sys2Proof.Machine
end

