-- ==== Sys2Proof/Machine/UlcCheck.lean ====
section
/-! DEFINITION. The static rules of a program (R149-R156, R680) and its worst case (R85, R86). A finding is a reason code of
R84 with the instruction index it concerns. -/

namespace Sys2Proof.Machine

/-- Reason codes of R84. -/
inductive Reason where
  | none | format | signature | opcode | index | notOwned | ownerConflict | direction | zoneDomain | nsDepth | callGraph
  | backJump | loopBound | budget | distCost | capacity | exclGroup | noSlack | noReloc | busy | retired | cancelled
  deriving DecidableEq, Repr

def Reason.code : Reason → Nat
  | .none => 0 | .format => 1 | .signature => 2 | .opcode => 3 | .index => 4 | .notOwned => 5 | .ownerConflict => 6
  | .direction => 7 | .zoneDomain => 8 | .nsDepth => 9 | .callGraph => 10 | .backJump => 11 | .loopBound => 12
  | .budget => 13 | .distCost => 14 | .capacity => 15 | .exclGroup => 16 | .noSlack => 17 | .noReloc => 18 | .busy => 19
  | .retired => 20 | .cancelled => 21

/-- A finding: its reason and the instruction or point it names (R104 DETAIL); none where it names neither. -/
structure Finding where
  why : Reason
  at_ : Option Nat
  deriving DecidableEq, Repr

/-- A word of the code section: an instruction, a word R122 refuses, a literal. -/
inductive CodeWord where
  | inst (i : Instr)
  | bad
  | lit
  deriving DecidableEq, Repr

/-- The words of a code section in order; `skip` when the first is a literal. A word with the opcode of LAK or LBK that R122 refuses has
no literal: the word after it is an instruction (log entry 180, DESIGN CHOICE). -/
def codeWords : Bool → List Word → List CodeWord
  | _, [] => []
  | true, _ :: ws => .lit :: codeWords false ws
  | false, w :: ws =>
    match ulcDecode 0 w (ws.headD 0#32) with
    | some i => .inst i :: codeWords (ulcLong i) ws
    | none => .bad :: codeWords false ws

/-- Start and end of block `b` (R157). -/
def Program.blockSpan (p : Program) (b : Nat) : Nat × Nat :=
  (p.blocks.getD b 0, p.blocks.getD (b + 1) p.code.length)

/-- The words of block `b` with their indexes. -/
def blockWords (cw : List CodeWord) (span : Nat × Nat) : List (Nat × CodeWord) :=
  (List.range (span.2 - span.1)).zip ((cw.drop span.1).take (span.2 - span.1)) |>.map fun e => (span.1 + e.1, e.2)

/-! ## Operands (R149, R151) -/

/-- Declared range of a space: MRK 0, LW 1, TMR 2, CTR 3, EDG 4, CONST 5 (R158). -/
def rangeNo : Space → Option Nat
  | .mrk => some 0 | .lw => some 1 | .tmr => some 2 | .ctr => some 3 | .edg => some 4 | .const => some 5
  | .inp | .out | .ilk | .lsp | .lrd => none

/-- A point lies in one of a list of ranges (first, count). -/
def inRanges (rs : List (Nat × Nat)) (p : Nat) : Bool := rs.any fun r => decide (r.1 ≤ p) && decide (p < r.1 + r.2)

/-- What is wrong with an effective index. -/
def Program.indexWhy (p : Program) (sp : Space) (i : Nat) : Option Reason :=
  match rangeNo sp with
  | some n =>
    match p.spaces[n]? with
    | some r => if r.base ≤ i ∧ i < r.base + r.size then none else some .index
    | none => some .index
  | none =>
    match sp with
    | .inp => if inRanges p.ranges i then none else some .index
    | .out => if p.owned.contains i then none else some .notOwned
    | .ilk => if p.ilk.contains i then none else some .index
    | .lsp => if p.lsp.contains i then none else some .index
    | _ => if p.lrd.contains (i % 2 ^ 14) && decide (i / 2 ^ 14 ≤ 1) then none else some .index

/-- An enclosing LOOP as a path sees it: COUNT and strides. -/
structure LoopSpan where
  count : Nat
  a : Nat
  b : Nat
  deriving DecidableEq, Repr

/-- The effective indexes of an operand under the LOOPs that enclose it, outermost first (R149); none where R151 fails. -/
def UlcUse.indexes (u : UlcUse) (loops : List LoopSpan) : Option (List Nat) :=
  let base : Option (List Nat) :=
    match u.mod.kind, loops[u.mod.lc.val]? with
    | .none, _ => some [u.idx]
    | _, none => none
    | .strideA, some l => some ((List.range l.count).map fun k => u.idx + k * l.a)
    | .strideB, some l => some ((List.range l.count).map fun k => u.idx + k * l.b)
    | .one, some l => some ((List.range l.count).map fun k => u.idx + k)
  base.map fun is => if u.two then (is.map fun i => [i, i + 1]).flatten else is

/-- The findings on the operand of the instruction at index `at_`. -/
def Program.useFindings (p : Program) (loops : List LoopSpan) (at_ : Nat) (i : Instr) : List Finding :=
  match ulcUse i with
  | none => []
  | some u =>
    match u.indexes loops with
    | none => [⟨.loopBound, some at_⟩]
    | some is => (is.filterMap fun j => p.indexWhy u.sp j).map fun w => ⟨w, some at_⟩

/-! ## Control flow (R152-R156, R680) -/

/-- An NS entry on a path: the index that pushed it, whether it is a block, whether its ELSE has come. -/
structure NsTag where
  at_ : Nat
  blk : Bool
  els : Bool
  deriving DecidableEq, Repr

/-- NS on a path, the newest entry first. -/
abbrev NsPath := List NsTag

/-- The entries themselves (R154). -/
def nsIds (l : NsPath) : List Nat := l.map NsTag.at_

/-- A LOOP open in a block: its index, NS at it on every path, its span. -/
structure OpenLoop where
  at_ : Nat
  ns : List NsPath
  span : LoopSpan
  deriving DecidableEq, Repr

/-- A jump whose target is still to come, with NS at it on every path. -/
structure JumpTag where
  at_ : Nat
  target : Nat
  ns : List NsPath
  body : Option Nat
  deriving DecidableEq, Repr

/-- How a block is reached: LOOPs that enclose it, NS, the blocks on the way (R680). -/
structure Reach where
  loops : List LoopSpan
  ns : NsPath
  path : List Nat
  deriving DecidableEq, Repr

/-- A scan of a block in the order of its words: NS on every path to the word, none where no path reaches it; NS at each ENDL that a
path takes back, by its LOOP; NS on every path to a RET. -/
structure Scan where
  ns : List NsPath
  loops : List OpenLoop
  jumps : List JumpTag
  back : Tab (List NsPath)
  rets : List NsPath
  out : List Finding
  deriving DecidableEq, Repr

def Scan.find (s : Scan) (w : Reason) (i : Nat) : Scan := { s with out := ⟨w, some i⟩ :: s.out }

/-- A finding unless a condition holds. -/
def Scan.must (s : Scan) (ok : Bool) (w : Reason) (i : Nat) : Scan := if ok then s else s.find w i

/-- Paths joined, each state of NS once. -/
def joinPaths (a b : List NsPath) : List NsPath := b.foldl (fun l x => if l.contains x then l else l ++ [x]) a

/-- Two sets of paths hold the same entries (R154). -/
def sameEntries (a b : List NsPath) : Bool :=
  (a.all fun x => (b.map nsIds).contains (nsIds x)) && b.all fun x => (a.map nsIds).contains (nsIds x)

/-- Jumps that end at index `i`: the same entries, the same innermost LOOP body (R154). -/
def Scan.arrive (s : Scan) (i : Nat) : Scan :=
  let js := s.jumps.filter fun j => j.target == i
  let s := { s with ns := js.foldl (fun a j => joinPaths a j.ns) s.ns }
  js.foldl (fun s j =>
    (s.must (j.ns.isEmpty || sameEntries j.ns s.ns) .nsDepth j.at_).must (j.body == (s.loops.head?.map OpenLoop.at_)) .backJump j.at_) s

/-- Every path pushes an NS entry; depth at most 16, counted through calls (R152). -/
def Scan.push (s : Scan) (i : Nat) (blk : Bool) : Scan :=
  let ns := s.ns.map fun x => (⟨i, blk, false⟩ : NsTag) :: x
  ({ s with ns := ns } : Scan).must (ns.all fun x => decide (x.length ≤ 16)) .nsDepth i

/-- Every path changes its newest NS entry, where `f` allows it. -/
def Scan.onTop (s : Scan) (i : Nat) (f : NsTag → Option NsPath) : Scan :=
  let step := fun (x : NsPath) => match x with
    | t :: ts => (f t).map fun u => u ++ ts
    | [] => none
  ({ s with ns := s.ns.foldl (fun a x => joinPaths a [(step x).getD x]) [] } : Scan).must (s.ns.all fun x => (step x).isSome) .nsDepth i

/-- A closing bracket or ENDIF; ELSE. -/
def Scan.pop (s : Scan) (i : Nat) (blk : Bool) : Scan := s.onTop i fun t => if t.blk == blk then some [] else none
def Scan.else_ (s : Scan) (i : Nat) : Scan := s.onTop i fun t => if t.blk && !t.els then some [{ t with els := true }] else none

/-- The LOOPs open at a place, outermost first. -/
def Scan.spans (s : Scan) (r : Reach) : List LoopSpan := r.loops ++ (s.loops.map OpenLoop.span).reverse

/-- LOOP and ENDL (R153). What a path holds at an ENDL that it takes back it holds at the body's next pass: `prev` gives it. -/
def Scan.loop (s : Scan) (r : Reach) (prev : Tab (List NsPath)) (i : Nat) (sp : LoopSpan) : Scan :=
  let s := s.must (decide (0 < sp.count) && decide (sp.count ≤ 256)) .loopBound i
  let ns := joinPaths s.ns (Tab.getD prev i [])
  let s := { s with ns := ns, loops := ⟨i, s.ns, sp⟩ :: s.loops }
  s.must (decide (r.loops.length + s.loops.length ≤ 4)) .loopBound i
def Scan.endl (s : Scan) (i : Nat) : Scan :=
  match s.loops with
  | l :: ls =>
    let s := { s with loops := ls, back := if 1 < l.span.count then Tab.put s.back l.at_ (joinPaths (Tab.getD s.back l.at_ []) s.ns) else s.back }
    s.must (s.ns.all fun x => l.ns.all fun y => x.length == y.length) .loopBound i
  | [] => s.find .loopBound i

/-- END and RET: not inside a LOOP of the block, NS as deep as the block found it, END with NS empty, each in its kind of block
(R152, R153, R155). -/
def Scan.finish (s : Scan) (r : Reach) (i : Nat) (kindOk isEnd : Bool) : Scan :=
  let s := (s.must kindOk .callGraph i).must s.loops.isEmpty .loopBound i
  let s := s.must (s.ns.all fun x => x.length == r.ns.length && (!isEnd || x.isEmpty)) .nsDepth i
  { s with ns := [], rets := joinPaths s.rets s.ns }

/-- A called block as the caller's scan sees it: NS on the paths that return, findings. -/
abbrev CallScan := Nat → Reach → List NsPath × List Finding

/-- A CALL (R155, R680): the called block is checked on every path that reaches it, past the limits of R155 too but for a cycle. A CALL
that no path reaches enters its block with NS as its own block found it (log entry 183, DESIGN CHOICE). -/
def Program.scanCall (p : Program) (callee : CallScan) (r : Reach) (s : Scan) (i b : Nat) : Scan :=
  let s := s.must (decide (b < p.blocks.length) && !r.path.contains b && decide (r.path.length ≤ 8)) .callGraph i
  if p.blocks.length ≤ b ∨ r.path.contains b = true then s
  else
    let go := fun (x : NsPath) => callee b ⟨s.spans r, x, b :: r.path⟩
    if s.ns.isEmpty then { s with out := (go r.ns).2 ++ s.out }
    else s.ns.foldl (fun (a : Scan) x => { a with ns := joinPaths a.ns (go x).1, out := (go x).2 ++ a.out }) { s with ns := [] }

/-- One word of a block. What no path reaches is checked but for NS (log entry 183, DESIGN CHOICE). -/
def Program.scanWord (p : Program) (callee : CallScan) (r : Reach) (prev : Tab (List NsPath)) (last : Nat) (entry : Bool) (s : Scan)
    (e : Nat × CodeWord) : Scan :=
  let i := e.1
  match e.2 with
  | .lit => (s.jumps.filter fun j => j.target == i).foldl (fun s j => s.find .backJump j.at_) s
  | .bad => (s.arrive i).find .opcode i
  | .inst x =>
    let s := s.arrive i
    let s := { s with out := p.useFindings (s.spans r) i x ++ s.out }
    match x with
    | .ulcAndBracket _ | .ulcOrBracket _ | .ulcXorBracket _ => s.push i false
    | .ulcCloseBracket _ => s.pop i false
    | .ulcIf _ => s.push i true
    | .ulcElse _ => s.else_ i
    | .ulcEndif _ => s.pop i true
    | .ulcLoop _ n a b => s.loop r prev i ⟨n.toNat, a.toNat, b.toNat⟩
    | .ulcEndl _ => s.endl i
    | .ulcJmp _ c d =>
      let s := if d = 0#15 ∨ last < i + d.toNat then s.find .backJump i
        else { s with jumps := ⟨i, i + d.toNat, s.ns, s.loops.head?.map OpenLoop.at_⟩ :: s.jumps }
      if c == .always then { s with ns := [] } else s
    | .ulcCall _ b => p.scanCall callee r s i b.toNat
    | .ulcRet _ => s.finish r i (!entry) false
    | .ulcEnd _ => s.finish r i entry true
    | _ => s

/-- The last word of a block ends it (R156). -/
def endsBlock : CodeWord → Bool
  | .inst (.ulcEnd _) => true
  | .inst (.ulcRet _) => true
  | .inst (.ulcJmp _ .always _) => true
  | _ => false

def Program.isEntry (p : Program) (b : Nat) : Bool := p.tasks.any fun t => t.entry == b

/-- Passes over a block: each takes what the ENDLs of the pass before take back, until nothing new comes. -/
def scanPasses (run : Tab (List NsPath) → Scan) : Nat → Tab (List NsPath) → Scan
  | 0, prev => run prev
  | n + 1, prev =>
    let s := run prev
    if s.back == prev then s else scanPasses run n s.back

/-- The scan of a block reached in a way. Each level of calls takes one of `fuel`, of which the blocks of a path without a cycle never run
out; 17 passes settle LOOPs that change at most 16 entries. -/
def Program.scanBlock (p : Program) (cw : List CodeWord) : Nat → CallScan
  | 0, _, r => ([r.ns], [])
  | n + 1, b, r =>
    let ws := blockWords cw (p.blockSpan b)
    let last := (p.blockSpan b).2 - 1
    let s := scanPasses (fun prev => ws.foldl (p.scanWord (p.scanBlock cw n) r prev last (p.isEntry b)) ⟨[r.ns], [], [], [], [], []⟩) 17 []
    let s := s.must s.loops.isEmpty .loopBound last
    let s := s.must (s.ns.isEmpty && endsBlock ((ws.getLast?.map (·.2)).getD .bad)) .format last
    (s.rets, s.out)

/-- The findings of a block reached in a way. -/
def Program.blockFindings (p : Program) (cw : List CodeWord) (b : Nat) (r : Reach) : List Finding :=
  (p.scanBlock cw (p.blocks.length + 1) b r).2

/-- Blocks that the instructions of a block call. -/
def Program.callees (p : Program) (cw : List CodeWord) (b : Nat) : List Nat :=
  (blockWords cw (p.blockSpan b)).filterMap fun e =>
    match e.2 with
    | .inst (.ulcCall _ c) => some c.toNat
    | _ => none

/-- Blocks that tasks reach. -/
def Program.reached (p : Program) (cw : List CodeWord) : List Nat :=
  (List.range (p.blocks.length + 1)).foldl (fun seen _ =>
    (seen.map (p.callees cw)).flatten.foldl (fun s b => if s.contains b then s else b :: s) seen) (p.tasks.map Task.entry)

/-- The findings of R149-R156 on a program: every block a task reaches from its entries, every other block as if entered by
itself (R680). -/
def Program.codeFindings (p : Program) (cw : List CodeWord) : List Finding :=
  let hit := p.reached cw
  let roots := p.tasks.map Task.entry ++ (List.range p.blocks.length).filter fun b => !hit.contains b
  (roots.map fun b => p.blockFindings cw b ⟨[], [], [b]⟩).flatten

/-! ## Worst cases (R85, R86) -/

/-- A scan for the longest path: arrival cost on the path from the start of the innermost LOOP body or the block, open LOOPs
(COUNT, cost at the LOOP), jumps to come (target, cost), the greatest cost at an END or RET. -/
structure PathScan where
  cur : Option Nat
  loops : List (Nat × Nat)
  jumps : List (Nat × Nat)
  best : Nat
  deriving DecidableEq, Repr

/-- One word on the longest path; `callee` gives the worst case of a block. -/
def pathWord (callee : Nat → Nat) (s : PathScan) (e : Nat × CodeWord) : PathScan :=
  match e.2 with
  | .lit | .bad => s
  | .inst x =>
    let arr := (s.jumps.filter fun j => j.1 == e.1).map (·.2) ++ s.cur.toList
    match arr with
    | [] => { s with cur := none, loops := match x with
        | .ulcLoop .. => (0, 0) :: s.loops
        | .ulcEndl _ => s.loops.tail
        | _ => s.loops }
    | a :: as =>
      let c := as.foldl max a + ulcTicks x
      match x with
      | .ulcLoop _ n _ _ => { s with cur := some 0, loops := (n.toNat, c) :: s.loops }
      | .ulcEndl _ =>
        match s.loops with
        | (n, c0) :: ls => { s with cur := some (c0 + n * c), loops := ls }
        | [] => { s with cur := some c }
      | .ulcJmp _ k d =>
        { s with cur := if k == .always then none else some c, jumps := (e.1 + d.toNat, c) :: s.jumps }
      | .ulcCall _ b => { s with cur := some (c + callee b.toNat) }
      | .ulcRet _ | .ulcEnd _ => { s with cur := none, best := max s.best c }
      | _ => { s with cur := some c }

/-- Worst case of every block: after k rounds, of the blocks whose calls nest less than k deep. -/
def Program.blockCosts (p : Program) (cw : List CodeWord) : Nat → List Nat
  | 0 => []
  | k + 1 =>
    let c := p.blockCosts cw k
    (List.range p.blocks.length).map fun b =>
      ((blockWords cw (p.blockSpan b)).foldl (pathWord fun d => c.getD d 0) ⟨some 0, [], [], 0⟩).best

/-- Worst case of a task: 4 ticks and the longest path of its entry block (R85). -/
def taskCost (costs : List Nat) (t : Task) : Nat := 4 + costs.getD t.entry 0

/-- Worst case of a program: tasks outside groups, and the largest task of each group (R86). -/
def Program.worst (p : Program) (cw : List CodeWord) : Nat :=
  let costs := p.blockCosts cw 10
  ((p.tasks.filter fun t => t.group == 0).map (taskCost costs)).sum
    + ((List.range 15).map fun g => ((p.tasks.filter fun t => t.group == g + 1).map (taskCost costs)).foldl max 0).sum

/-- The first finding: the lowest reason code, then the lowest place (R84). -/
def firstFinding : List Finding → Option Finding
  | [] => none
  | f :: fs => match firstFinding fs with
    | some g => if g.why.code < f.why.code ∨ (g.why.code = f.why.code ∧ g.at_.getD 0 < f.at_.getD 0) then some g else some f
    | none => some f

end Sys2Proof.Machine
end

