-- ==== Sys2Proof/Machine/ProgImage.lean ====
section
/-! DEFINITION. A Lantern program image (R82, R83, R157-R160, R167): its sections, what they hold, and what is wrong with
them. -/

namespace Sys2Proof.Machine

/-! ## Sections (R82) -/

/-- Word `i` of a list of words, as a number. -/
def wordAt (ws : List Word) (i : Nat) : Nat := (ws.getD i 0#32).toNat

/-- The words that bytes spell. -/
def wordsOf : List Byte → List Word
  | a :: b :: c :: d :: t => (d ++ c ++ b ++ a) :: wordsOf t
  | _ => []

def progMagic : Nat := 0x554C4331

/-- A section of the header: offset in bytes, length in words. -/
structure Sect where
  off : Nat
  len : Nat
  deriving DecidableEq, Repr

/-- Section `s` (0-10) as the header gives it. -/
def sectOf (hd : List Word) (s : Nat) : Sect := ⟨wordAt hd (4 + 2 * s), wordAt hd (5 + 2 * s)⟩

def sectEnd (s : Sect) : Nat := s.off + 4 * s.len

/-- Two sections have a byte in common. -/
def sectsMeet (a b : Sect) : Bool := decide (a.off < sectEnd b) && decide (b.off < sectEnd a)

/-- Every pair of a list is free of a relation. -/
def pairwiseFree {α : Type} (r : α → α → Bool) : List α → Bool
  | [] => true
  | a :: t => t.all (fun b => !r a b) && pairwiseFree r t

/-- The header's rules (R82). -/
def headerOk (prog : Nat) (hd : List Word) : Bool :=
  let len := wordAt hd 2
  let ss := ((List.range 11).map (sectOf hd)).filter fun s => s.len != 0
  wordAt hd 0 == progMagic && bits (wordAt hd 1) 0 5 == prog && bits (wordAt hd 1) 5 3 == 0 && wordAt hd 3 == 0
    && (List.range 6).all (fun i => wordAt hd (26 + i) == 0)
    && ss.all (fun s => s.off % 4 == 0 && decide (128 ≤ s.off) && decide (sectEnd s ≤ len))
    && pairwiseFree sectsMeet ss && (ss.map sectEnd).foldl max 0 == len
    && [0, 1, 3, 4].all fun i => (sectOf hd i).len != 0

/-- The words of a section. -/
def sectWords (ws : List Word) (s : Nat) : List Word :=
  let x := sectOf ws s
  (ws.drop (x.off / 4)).take x.len

/-! ## Contents (R83, R157-R160, R167) -/

/-- A list rises strictly. -/
def risesStrictly : List Nat → Bool
  | a :: b :: t => decide (a < b) && risesStrictly (b :: t)
  | _ => true

/-- A list section: a count word and its entries of one word; the limit, the bits an entry uses, what an entry must be. -/
def parseList (ws : List Word) (limit entryBits : Nat) (ok : Nat → Bool) : Option (List Nat) :=
  match ws with
  | [] => some []
  | c :: es =>
    let l := es.map BitVec.toNat
    if c.toNat = l.length ∧ l.length ≤ limit ∧ l.all (fun e => decide (e < 2 ^ entryBits) && ok e) = true
        ∧ risesStrictly l = true then some l else none

/-- Pairs of words. -/
def pairsOf : List Word → Option (List (Nat × Nat))
  | [] => some []
  | a :: b :: t => (pairsOf t).map fun l => (a.toNat, b.toNat) :: l
  | [_] => none

/-- The RANGES section: ranges rise and neither overlap nor touch (R83). -/
def rangesApart : List (Nat × Nat) → Bool
  | a :: b :: t => decide (a.1 + a.2 < b.1) && rangesApart (b :: t)
  | _ => true
def parseRanges (ws : List Word) : Option (List (Nat × Nat)) :=
  match ws with
  | [] => none
  | c :: es =>
    match pairsOf es with
    | none => none
    | some l =>
      if c.toNat = l.length ∧ l.length ≤ 256 ∧ (l.map (·.2)).sum ≤ 32768 ∧ rangesApart l = true
          ∧ l.all (fun r => decide (r.1 < 2 ^ 17) && decide (1 ≤ r.2) && decide (r.2 ≤ 32768)) = true then some l else none

/-- The CODE section: instruction count, block starts, words (R157). -/
def parseCode (ws : List Word) : Option (List Word × List Nat) :=
  let c := wordAt ws 0
  let n := bits c 0 16
  let b := bits c 16 9
  let starts := ((ws.drop 1).take b).map BitVec.toNat
  let code := ws.drop (1 + b)
  let cw := codeWords false code
  if bits c 25 7 = 0 ∧ 1 ≤ n ∧ n ≤ 32768 ∧ 1 ≤ b ∧ b ≤ 256 ∧ ws.length = 1 + b + n ∧ starts.head? = some 0
      ∧ risesStrictly starts = true ∧ starts.all (fun s => decide (s < n) && cw.getD s .bad != .lit) = true
      ∧ (match cw.getLast? with
        | some (.inst i) => !ulcLong i
        | _ => true) = true then some (code, starts) else none

/-- The SPACES section: MRK, LW, TMR, CTR, EDG and CONST (R158). -/
def parseSpaces (ws : List Word) : Option (List SpaceRange) :=
  if ws.length = 6 then some (ws.map fun w => ⟨bits w.toNat 0 16, bits w.toNat 16 16⟩) else none

/-- The TASKS section (R160), for a code section of `blocks` blocks. -/
def parseTasks (blocks : Nat) (ws : List Word) : Option (List Task) :=
  match ws with
  | [] => none
  | c :: es =>
    match pairsOf es with
    | none => none
    | some l =>
      let ts : List Task := l.map fun e => ⟨bits e.1 0 8, bits e.1 8 4, bits e.1 16 16, bits e.2 0 16⟩
      if c.toNat = l.length ∧ 1 ≤ l.length ∧ l.length ≤ 16
          ∧ l.all (fun e => bits e.1 12 4 == 0 && bits e.2 16 16 == 0) = true
          ∧ ts.all (fun t => decide (t.phase < t.period) && decide (t.entry < blocks)) = true
          ∧ pairwiseFree (fun a b : Task => a.entry == b.entry) ts = true then some ts else none

/-- The RETAIN section (R167): entries and the default words of their LW elements. -/
def parseRetain (ws : List Word) : Option (List Retain × List Word) :=
  match ws with
  | [] => some ([], [])
  | c :: es =>
    let n := c.toNat
    match pairsOf (es.take (2 * n)) with
    | none => none
    | some l =>
      let rs : List Retain := l.map fun e => ⟨bits e.1 0 16, bits e.1 16 4, bits e.2 0 16, bits e.2 16 16⟩
      let words := ((rs.filter fun r => r.space == 4).map Retain.count).sum
      let defs := es.drop (2 * n)
      if n ≤ 1024 ∧ l.length = n ∧ defs.length = words
          ∧ l.all (fun e => bits e.1 20 12 == 0) = true
          ∧ rs.all (fun r => r.name != 0 && [1, 3, 4, 5, 6, 7].contains r.space && decide (1 ≤ r.count)
            && decide (r.count ≤ 16384)) = true
          ∧ pairwiseFree (fun a b : Retain => a.name == b.name) rs = true then some (rs, defs) else none

/-- The RELOC section (R159): every entry names an instruction with an operand in one of the six spaces. Entries that repeat or stand
out of order are taken as they stand, and one that names a word without an instruction is left to the check of OPCODE: R159 says
nothing of them (log entry 181, DESIGN CHOICE). -/
def parseReloc (code : List Word) (ws : List Word) : Option (Option (List Nat)) :=
  match ws with
  | [] => some none
  | _ =>
    let cw := codeWords false code
    let l := ws.map BitVec.toNat
    if l.all (fun i => decide (i < 2 ^ 15) && (match cw.getD i .lit with
        | .inst x => (match ulcUse x with
          | some u => (rangeNo u.sp).isSome
          | none => false)
        | .bad => true
        | .lit => false)) then some (some l) else none

/-- The program of an image whose header is valid; `none` where a section is refused with FORMAT. -/
def parseProgram (ws : List Word) : Option Program := do
  let (code, blocks) ← parseCode (sectWords ws 0)
  let spaces ← parseSpaces (sectWords ws 1)
  let consts := sectWords ws 2
  let tasks ← parseTasks blocks.length (sectWords ws 3)
  let ranges ← parseRanges (sectWords ws 4)
  let owned ← parseList (sectWords ws 5) 16384 17 fun _ => true
  let ilk ← parseList (sectWords ws 6) 16384 17 fun _ => true
  let lsp ← parseList (sectWords ws 7) 16384 17 fun e => decide (bits e 14 3 ≤ 2)
  let lrd ← parseList (sectWords ws 8) 2048 14 fun _ => true
  let (retain, defaults) ← parseRetain (sectWords ws 9)
  let reloc ← parseReloc code (sectWords ws 10)
  if consts.length = (spaces.getD 5 ⟨0, 0⟩).size then
    some ⟨bits (wordAt ws 1) 8 8, bits (wordAt ws 1) 16 16, code, blocks, spaces, consts, tasks, ranges, owned, ilk, lsp, lrd,
      retain, defaults, reloc, 0⟩
  else none

/-! ## Sizes (R164, R168) -/

/-- Bytes of a program bank: code words and constants (R164). -/
def Program.bankBytes (p : Program) : Nat := 4 * p.code.length + 4 * p.consts.length

/-- Bytes of a retentive entry (R168). -/
def Retain.bytes (r : Retain) : Nat :=
  match r.space with
  | 3 | 7 => (r.count + 7) / 8
  | 5 | 6 => 8 * r.count
  | _ => 4 * r.count

def Program.retainBytes (p : Program) : Nat := (p.retain.map Retain.bytes).sum

/-- Sizes of MRK, LW, TMR, CTR, EDG and CONST (R112). -/
def spaceSizes : List Nat := [8192, 16384, 4096, 2048, 8192, 4096]

/-- The declared ranges lie in their spaces (R112). -/
def Program.spacesFit (p : Program) : Bool :=
  (List.range 6).all fun i => let r := p.spaces.getD i ⟨0, 0⟩; decide (r.size = 0) || decide (r.base + r.size ≤ spaceSizes.getD i 0)

/-- Two programs declare a common element of a space (R150). -/
def Program.collides (p q : Program) : Bool :=
  (List.range 6).any fun i =>
    let a := p.spaces.getD i ⟨0, 0⟩
    let b := q.spaces.getD i ⟨0, 0⟩
    decide (0 < a.size) && decide (0 < b.size) && decide (a.base < b.base + b.size) && decide (b.base < a.base + a.size)

/-- Declared range number of a retentive space; OUT has none. -/
def retainRange : Nat → Option Nat
  | 3 => some 0 | 4 => some 1 | 5 => some 2 | 6 => some 3 | 7 => some 4
  | _ => none

/-- A retentive entry lies in its range or list (R167). -/
def Program.retainOk (p : Program) (r : Retain) : Bool :=
  decide (r.off + r.count ≤ (match retainRange r.space with
    | some i => (p.spaces.getD i ⟨0, 0⟩).size
    | none => p.owned.length))

/-! ## Relocation (R96, R159) -/

/-- The index field of a word moved by a distance. -/
def moveIndex (w : Word) (d : Int) : Word :=
  w.extractLsb' 17 15 ++ BitVec.ofInt 17 ((w.extractLsb' 0 17).toNat + d)

/-- A program with its six spaces at new bases: relocated code, ranges. -/
def Program.relocate (p : Program) (bases : List Nat) : Program :=
  let cw := codeWords false p.code
  let shift (i : Nat) : Int := match cw.getD i .lit with
    | .inst x => (match ulcUse x with
      | some u => (match rangeNo u.sp with
        | some n => (bases.getD n 0 : Int) - (p.spaces.getD n ⟨0, 0⟩).base
        | none => 0)
      | none => 0)
    | _ => 0
  let code := (p.reloc.getD []).foldl (fun c i => c.set i (moveIndex (c.getD i 0#32) (shift i))) p.code
  { p with code := code, spaces := (List.range 6).map fun n => ⟨bases.getD n 0, (p.spaces.getD n ⟨0, 0⟩).size⟩ }

/-- The lowest free base for `size` elements beside ranges in use, in a space of `limit` (R103). -/
def lowestFree (used : List SpaceRange) (size limit : Nat) : Option Nat :=
  leastBy id ((0 :: used.map fun r => r.base + r.size).filter fun b =>
    decide (b + size ≤ limit) && used.all fun r => decide (b + size ≤ r.base) || decide (r.base + r.size ≤ b) || r.size == 0)

/-- Bases of a program's six spaces beside other programs. -/
def Program.freeBases (p : Program) (others : List Program) : Option (List Nat) :=
  (List.range 6).mapM fun i =>
    let n := (p.spaces.getD i ⟨0, 0⟩).size
    if n = 0 then some 0 else lowestFree (others.map fun q => q.spaces.getD i ⟨0, 0⟩) n (spaceSizes.getD i 0)

/-! ## Point sets (R68-R70) -/

/-- Inserts a range in order of its first point. -/
def insertRange (r : Nat × Nat) : List (Nat × Nat) → List (Nat × Nat)
  | [] => [r]
  | q :: qs => if r.1 ≤ q.1 then r :: q :: qs else q :: insertRange r qs

/-- Adds the next of the ordered ranges to merged ones, the last of which comes first. -/
def mergeRange (acc : List (Nat × Nat)) (r : Nat × Nat) : List (Nat × Nat) :=
  match acc with
  | q :: qs => if r.1 ≤ q.1 + q.2 then (q.1, max (q.1 + q.2) (r.1 + r.2) - q.1) :: qs else r :: q :: qs
  | [] => [r]

/-- Merges ordered ranges that overlap or touch (R68). -/
def mergeRanges (rs : List (Nat × Nat)) : List (Nat × Nat) := (rs.foldl mergeRange []).reverse

/-- The point set of programs (R68). -/
def pointSet (ps : List Program) : List (Nat × Nat) :=
  mergeRanges ((ps.map Program.ranges).flatten.foldl (fun l r => insertRange r l) [])

/-- Slots of the LRD mirror (R69), each once. -/
def lrdSet (ps : List Program) : List Nat := (ps.map Program.lrd).flatten.foldl (fun l e => if l.contains e then l else e :: l) []

/-- Points of ordered ranges. -/
def countPoints (rs : List (Nat × Nat)) : Nat := (rs.map (·.2)).sum

/-- Distribution cost of a set of programs on one Lantern (R70). -/
def distCost (ps : List Program) : Nat :=
  let rs := pointSet ps
  64 * rs.length + (countPoints rs + 1) / 2 + ((lrdSet ps).length + 1) / 2 + 32

/-- Worst case of a set of programs on one Lantern (R86). -/
def worstOf (ps : List Program) : Nat := 12 + (ps.map Program.wcet).sum

/-- R68, R69 and R76 hold for a set of programs on one Lantern. -/
def setsFit (ps : List Program) : Bool :=
  let rs := pointSet ps
  decide (rs.length ≤ 256) && decide (countPoints rs ≤ 32768) && decide ((lrdSet ps).length ≤ 2048)
    && decide ((ps.map fun p => p.owned.length + p.ilk.length + p.lsp.length).sum ≤ 16384)

/-- R164 holds for a set of programs on one Lantern. -/
def banksFit (ps : List Program) : Bool := decide ((ps.map Program.bankBytes).sum ≤ 131072)

/-- Limits of R86, R70 and R88. -/
def budgetTicks : Nat := 364500
def distLimit : Nat := 30400
def loopBudget : Nat := 288000

end Sys2Proof.Machine
end

