-- ==== Sys2Proof/Machine/Placement.lean ====
section
/-! DEFINITION. Where programs and loop slots run (02, 04, 05): engine states, the placement table and tick ledger, who owns
an output point, what an admitted change does when it takes effect (R91, R164-R172, R176, R211, R212), and how far the N-1
plan covers (R101-R103). -/

namespace Sys2Proof.Machine

/-! ## Engine states (R104) -/

def esIdle : Nat := 0
def esActive : Nat := 1
def esHandover : Nat := 2
def esRetired : Nat := 3
def esFailed : Nat := 4

def Hw.lntState (h : Hw) (l : Nat) : Nat := h.fld (FRM_ESTATE_LNT l)
def Hw.lpeState (h : Hw) (m : Nat) : Nat := h.fld (FRM_ESTATE_LPE m)
def Hw.setLntState (h : Hw) (l v : Nat) : Hw := (h.setFld (FRM_ESTATE_LNT l) v).setFld (LNT_STAT_STATE l) v
def Hw.setLpeState (h : Hw) (m v : Nat) : Hw := (h.setFld (FRM_ESTATE_LPE m) v).setFld (LPE_STAT_STATE m) v

/-- A Lantern or engine in service with work, or without: RETIRED, FAILED and HANDOVER stay. -/
def workState (old : Nat) (busy : Bool) : Nat := if esHandover ≤ old then old else if busy then esActive else esIdle

/-! ## What is placed where -/

/-- Programs of a placement on a Lantern, in ascending number (R162). -/
def progsOn (t : Tab Placed) (l : Nat) : List (Nat × Program) :=
  (t.filter fun e => e.2.lnt == l).map fun e => (e.1, e.2.prog)

def Hw.programs (h : Hw) (l : Nat) : List Program := (progsOn h.progs l).map (·.2)

/-- The words of a Lantern's code by their bank position (R157). -/
def Hw.bankWords (h : Hw) (l : Nat) : Tab Word :=
  h.progs.foldl (fun t e => if e.2.lnt = l then Tab.putAll t e.2.base e.2.prog.code else t) []

/-- The Lantern changes banks; the bank it leaves keeps the code of `t`, which it ran (R166, R363). -/
def Hw.swapBank (h : Hw) (l : Nat) (t : Tab Word) : Hw :=
  (h.setLan l { h.lan l with shadow := t }).setFlag (LNT_STAT_BANK l) (!h.flag (LNT_STAT_BANK l))

/-- Placement once every admitted change has taken effect. -/
def Hw.progsThen (h : Hw) : Tab Placed :=
  h.adm.changes.foldl (fun t c => match c with
    | .place n p _ => Tab.put t n p
    | .revoke n => Tab.del t n
    | _ => t) h.progs

/-- Enabled slots of an engine once every admitted change has taken effect. -/
def Hw.slotsThen (h : Hw) (m : Nat) : List Nat :=
  h.adm.changes.foldl (fun l c => match c with
    | .enable k ss => if k = m then l ++ ss else l
    | .disable k ss => if k = m then l.filter fun s => !ss.contains s else l
    | _ => l) (h.eng m).enabled

/-- Engines' output points among slots. -/
def Hw.slotOut (h : Hw) (m s : Nat) : Nat := (h.eng m).get s dOutpt

/-- An output point has an owner other than program `n` (R84 code 6). -/
def Hw.ownedByOther (h : Hw) (n p : Nat) : Bool :=
  h.progsThen.any (fun e => e.1 != n && e.2.prog.owned.contains p)
    || (List.range 2).any fun m => (h.slotsThen m).any fun s => h.slotOut m s == p

/-- Whether a point has an owner now. -/
def Hw.hasOwner (h : Hw) (p : Nat) : Bool :=
  h.progs.any (fun e => e.2.prog.owned.contains p)
    || (List.range 2).any fun m => (h.eng m).enabled.any fun s => h.slotOut m s == p

/-! ## Ledger and status (R86, R88, R104) -/

/-- The ledger of a Lantern follows its programs. -/
def Hw.ledgerLnt (h : Hw) (l : Nat) : Hw :=
  let ps := h.programs l
  let w := if ps.isEmpty then 0 else worstOf ps
  let h := (h.setFld (FRM_TL_ADM l) w).setFld (FRM_TL_SLACK l) (budgetTicks - w)
  (h.setFld (LNT_RETBYTES_BYTES l) (ps.map Program.retainBytes).sum).setLntState l (workState (h.lntState l) (!ps.isEmpty))

/-- The ledger of a loop engine follows its enabled slots. -/
def Hw.ledgerLpe (h : Hw) (m : Nat) : Hw :=
  let e := h.eng m
  let w := (e.enabled.map e.cost).sum
  let h := (h.setFld (FRM_TL_ADM (8 + m)) w).setFld (FRM_TL_SLACK (8 + m)) (loopBudget - w)
  (h.showEnabled m).setLpeState m (workState (h.lpeState m) (!e.enabled.isEmpty))

/-- FRM.STAT.UNPROVEN follows the placement entries (R89). -/
def Hw.showUnproven (h : Hw) : Hw :=
  h.setFlag FRM_STAT_UNPROVEN ((List.range 32).any fun n => h.flag (FRM_PLACE_VALID n) && h.flag (FRM_PLACE_UNPROVEN n))

/-! ## The N-1 plan (R101, R103) -/

/-- Lanterns in service: those that run programs. -/
def Hw.inService (h : Hw) : List Nat := (List.range 8).filter fun l => !(h.programs l).isEmpty

/-- NM1OK follows the plan; a fall raises E30 (R101). -/
def Hw.showNm1 (h : Hw) : Hw :=
  let ok := !h.inService.isEmpty && h.inService.all fun l => h.adm.plan.any fun e => e.lnt == l
  let was := h.flag FRM_STAT_NM1OK
  let h := h.setFlag FRM_STAT_NM1OK ok
  if was && !ok then h.raise 30 else h

/-- Entries that a predicate refutes stop covering: ALTV of their programs clears (R103). -/
def Hw.dropPlan (h : Hw) (gone : PlanEntry → Bool) : Hw :=
  let h := ((h.adm.plan.filter gone).map fun e => e.moves.map (·.1)).flatten.foldl (fun h n => h.setFlag (FRM_PLACE_ALTV n) false) h
  { h with adm := { h.adm with plan := h.adm.plan.filter fun e => !gone e } }

/-- A change on a Lantern: entries that cover it or move to it stop covering (R103). -/
def Hw.planTouched (h : Hw) (l : Nat) : Hw := h.dropPlan fun e => e.lnt == l || e.moves.any fun m => m.2.lnt == l

/-- A plan takes effect: it replaces the one before (R103). -/
def Hw.planApply (h : Hw) (es : List PlanEntry) : Hw :=
  let h := h.dropPlan fun _ => true
  let h := (es.map PlanEntry.moves).flatten.foldl (fun h m =>
    (h.setFlag (FRM_PLACE_ALTV m.1) true).setFld (FRM_PLACE_ALT m.1) m.2.lnt) h
  { h with adm := { h.adm with plan := es } }

/-! ## State of a program on a Lantern (R164, R167-R172) -/

/-- Keys outside a declared range. -/
def outside (r : SpaceRange) (k : Nat) : Bool := decide (k < r.base) || decide (r.base + r.size ≤ k)

def Program.space (p : Program) (i : Nat) : SpaceRange := p.spaces.getD i ⟨0, 0⟩

/-- Every element of a program's MRK, LW, TMR, CTR and EDG ranges is 0, its constants are loaded. -/
def Lantern.clearProg (x : Lantern) (p : Program) : Lantern :=
  { x with
    mrk := Tab.keep x.mrk fun k _ => outside (p.space 0) k
    lw := Tab.keep x.lw fun k _ => outside (p.space 1) k
    tmr := Tab.keep x.tmr fun k _ => outside (p.space 2) k
    ctr := Tab.keep x.ctr fun k _ => outside (p.space 3) k
    edg := Tab.keep x.edg fun k _ => outside (p.space 4) k
    cst := Tab.putAll (Tab.keep x.cst fun k _ => outside (p.space 5) k) (p.space 5).base p.consts }

/-- Entries of LW with the default words that follow each. -/
def lwDefaults : List Retain → List Word → List (Retain × List Word)
  | [], _ => []
  | r :: rs, ws => if r.space = 4 then (r, ws.take r.count) :: lwDefaults rs (ws.drop r.count) else lwDefaults rs ws

/-- LW elements of retentive entries take their default words (R169). -/
def Lantern.loadDefaults (x : Lantern) (p : Program) : Lantern :=
  { x with lw := (lwDefaults p.retain p.defaults).foldl (fun t e => Tab.putAll t ((p.space 1).base + e.1.off) e.2) x.lw }

/-- Elements that a new version takes over in a range: (index in the new, index in the old) (R169). -/
def carried (old new : Program) (space : Nat) : List (Nat × Nat) :=
  let i := (retainRange space).getD 0
  ((new.retain.filter fun r => r.space == space).map fun r =>
    match old.retain.find? fun q => q.name == r.name && q.space == space with
    | some q => (List.range (min r.count q.count)).map fun j => ((new.space i).base + r.off + j, (old.space i).base + q.off + j)
    | none => []).flatten

/-- Copies the listed elements of a table, all read before any is written (R170). -/
def carryTab {α : Type} (from_ tgt : Tab α) (pairs : List (Nat × Nat)) : Tab α :=
  pairs.foldl (fun t e => match Tab.get? from_ e.2 with
    | some v => Tab.put t e.1 v
    | none => Tab.del t e.1) tgt

/-- The local memory of a Lantern when a version replaces another (R169, R170). -/
def Lantern.replaceProg (x : Lantern) (old new : Program) : Lantern :=
  let y := (x.clearProg new).loadDefaults new
  { y with
    mrk := carryTab x.mrk y.mrk (carried old new 3)
    lw := (carried old new 4).foldl (fun t e => Tab.put t e.1 (x.local e.2)) y.lw
    tmr := carryTab x.tmr y.tmr (carried old new 5)
    ctr := carryTab x.ctr y.ctr (carried old new 6)
    edg := carryTab x.edg y.edg (carried old new 7) }

/-- FIRST of every task of a program (R176). -/
def Lantern.setFirst (x : Lantern) (n : Nat) (p : Program) : Lantern :=
  { x with first := (x.first.filter fun k => k / 16 != n) ++ (List.range p.tasks.length).map fun t => n * 16 + t }

/-- A Lantern no longer owns points: their staging goes. -/
def Lantern.dropOut (x : Lantern) (ps : List Nat) : Lantern := { x with outVal := Tab.keep x.outVal fun k _ => !ps.contains k }

/-- Newly owned points take the value last published as their staging (R171). -/
def Hw.adoptOut (h : Hw) (x : Lantern) (ps : List Nat) : Lantern :=
  { x with outVal := ps.foldl (fun t p => Tab.put t p (h.outPoint p).val) x.outVal }

/-- The OUT staging of the points on a new version's retentive OUT entries: of the old version's entry of the same NAME, position by
position, else cleared (R169). Where R171 says otherwise of such a point, R169 stands (log entry 179, DESIGN CHOICE). -/
def Lantern.carryOut (x y : Lantern) (old new : Program) : Lantern :=
  { y with outVal := (new.retain.filter fun r => r.space == 1).foldl (fun t r =>
      let q := old.retain.find? fun q => q.name == r.name && q.space == 1
      (List.range r.count).foldl (fun t j =>
        let v := match q with
          | some q => if j < q.count then Tab.getD x.outVal (old.owned.getD (q.off + j) 0) 0#32 else 0#32
          | none => 0#32
        Tab.put t (new.owned.getD (r.off + j) 0) v) t) y.outVal }

/-- Output points lose their owner: ORPHAN from the next publish on (R171, R172, R212). -/
def Hw.orphanPoints (h : Hw) (ps : List Nat) : Hw := { h with img := { h.img with orphan := h.img.orphan ++ ps } }

/-- RETAIN_RESIZED for every entry that keeps NAME and SPACE and changes COUNT (R169). -/
def Hw.resizeRecords (h : Hw) (l n : Nat) (old new : Program) : Hw :=
  new.retain.foldl (fun h r =>
    match old.retain.find? fun q => q.name == r.name && q.space == r.space with
    | some q =>
      if q.count = r.count then h
      else h.record 0x030 25 0 (r.name + r.space * 2 ^ 16 + n * 2 ^ 20 + l * 2 ^ 25 + q.count * 2 ^ 32 + r.count * 2 ^ 48)
    | none => h) h

/-! ## A change takes effect (R91) -/

/-- The placement entry of a program. -/
def Hw.showPlace (h : Hw) (n : Nat) (tgt : Placed) (unproven : Bool) : Hw :=
  let h := ((h.setFlag (FRM_PLACE_VALID n) true).setFlag (FRM_PLACE_UNPROVEN n) unproven).setFlag (FRM_PLACE_ALTV n) false
  let h := ((h.setFld (FRM_PLACE_LNT n) tgt.lnt).setFld (FRM_PLACE_ALT n) 0).setFld (FRM_PLACE_DOMAIN n) tgt.prog.dom
  (h.setFld (FRM_PLACE_WCET n) tgt.prog.wcet).setFld (FRM_PLACE_VERSION n) tgt.prog.version


/-- An admitted program is placed, or replaces its version on the Lantern (R92, R166, R169, R171). -/
def Hw.placeEffect (h : Hw) (n : Nat) (tgt : Placed) (unproven : Bool) : Hw :=
  let l := tgt.lnt
  let x := h.lan l
  let left := h.bankWords l
  let h := match Tab.get? h.progs n with
    | some q =>
      let gone := q.prog.owned.filter fun p => !tgt.prog.owned.contains p
      let fresh := tgt.prog.owned.filter fun p => !q.prog.owned.contains p
      let x := x.carryOut (h.adoptOut ((x.replaceProg q.prog tgt.prog).dropOut gone) fresh) q.prog tgt.prog
      ((h.setLan l (x.setFirst n tgt.prog)).orphanPoints gone).resizeRecords l n q.prog tgt.prog
    | none => h.setLan l (((x.clearProg tgt.prog).loadDefaults tgt.prog).setFirst n tgt.prog)
  let h := { h with progs := Tab.put h.progs n tgt }
  (((((h.swapBank l left).planTouched l).showPlace n tgt unproven).ledgerLnt l).showUnproven).showNm1

/-- A program is removed (R172). -/
def Hw.revokeEffect (h : Hw) (n : Nat) : Hw :=
  match Tab.get? h.progs n with
  | none => h
  | some q =>
    let x := ((h.lan q.lnt).clearProg { q.prog with consts := [] }).dropOut q.prog.owned
    let h := (h.setLan q.lnt { x with first := x.first.filter fun k => k / 16 != n }).orphanPoints q.prog.owned
    let h := { h with progs := Tab.del h.progs n }
    let h := ((h.setFlag (FRM_PLACE_VALID n) false).setFlag (FRM_PLACE_UNPROVEN n) false).setFlag (FRM_PLACE_ALTV n) false
    (((h.planTouched q.lnt).ledgerLnt q.lnt).showUnproven).showNm1

/-- Slots of an admitted list start (R211, R220). -/
def Hw.enableEffect (h : Hw) (m : Nat) (ss : List Nat) : Hw :=
  (h.setEng m (ss.foldl (fun (e : LoopEngine) s => (e.enter s).keepImage s) (h.eng m))).ledgerLpe m

/-- Slots of a list stop; their outputs lose their owner (R212). -/
def Hw.disableEffect (h : Hw) (m : Nat) (ss : List Nat) : Hw :=
  let on := ss.filter fun s => (h.eng m).flag s dEn
  let h := h.orphanPoints (on.map fun s => h.slotOut m s)
  (on.foldl (fun h s => h.slotOff m s) h).ledgerLpe m

/-- One admitted change takes effect, with E21 (R91). -/
def Hw.changeEffect (h : Hw) (c : Change) : Hw :=
  (match c with
    | .place n p u => h.placeEffect n p u
    | .revoke n => h.revokeEffect n
    | .enable m ss => h.enableEffect m ss
    | .disable m ss => h.disableEffect m ss
    | .plan es => (h.planApply es).showNm1).raise 21

/-- Every admitted change takes effect at a frame start, idle or not (R91, R93). -/
def Hw.admitEffects (h : Hw) : Hw :=
  let cs := h.adm.changes
  let h := ({ h with adm := { h.adm with changes := [] } } : Hw).setFlag FRM_ADM_STAT_PENDING false
  cs.foldl (fun h c => h.changeEffect c) h

end Sys2Proof.Machine
end

