-- ==== Sys2Proof/Machine/Admission.lean ====
section
/-! DEFINITION. The admission checker (02, 05): commands of FRM.ADM_CMD, what each checks, verdicts, retirement plans and the
N-1 plan (R79, R84-R90, R94-R96, R100, R102, R103, R210, R211, R679). -/

namespace Sys2Proof.Machine

/-! ## Verdicts (R84, R90, R104) -/

/-- Codes of FRM.ADM_STAT.VERDICT. -/
def vAdmitted : Nat := 1
def vRefused : Nat := 2
def vCancelled : Nat := 3

/-- A verdict is set and raises E20. DETAIL names the instruction, point or word concerned; where there is none its value is
open (log entry 17, DESIGN CHOICE). -/
def Hw.verdict (h : Hw) (v : Nat) (why : Reason) (at_ : Option Nat) : Hw :=
  let h := match at_ with
    | some d => h.setFld FRM_ADM_STAT_DETAIL (min d (2 ^ 17 - 1))
    | none => (h.setFld FRM_ADM_STAT_DETAIL (h.freeVal 17)).useFree
  ((h.setFld FRM_ADM_STAT_VERDICT v).setFld FRM_ADM_STAT_REASON why.code).raise 20

/-- A command is in progress (R95): one under check, a retirement under way, a Keeper request that waits. -/
def Hw.admBusy (h : Hw) : Bool := h.adm.cmd.isSome || h.adm.retire.isSome || h.flag FRM_KRQ_REQ

/-- BUSY follows (R104). -/
def Hw.showBusy (h : Hw) : Hw := h.setFlag FRM_ADM_STAT_BUSY (h.adm.cmd.isSome || h.adm.retire.isSome)

/-- A command of FRM.ADM_CMD (R90, R95). -/
def admCommand (op prog lnt eng : Nat) (src : Src) (h : Hw) : Hw :=
  if h.admBusy then h.verdict vRefused .busy none
  else ({ h with adm := { h.adm with cmd := some ⟨op, prog, lnt, eng, src.dom.toNat, h.fld FRM_ADM_SRC_ADDR⟩ } } : Hw).showBusy

/-- A change is admitted: it waits for the next frame start (R91). -/
def Hw.accepted (h : Hw) (c : Change) : Hw :=
  (({ h with adm := { h.adm with changes := h.adm.changes ++ [c] } } : Hw).setFlag FRM_ADM_STAT_PENDING true).verdict
    vAdmitted .none none

/-! ## Reading images and lists (R679) -/

/-- M25 reads `n` words with D0; an error gives the offset of the first word that could not be read. -/
def Hw.readWords (h : Hw) (mem : List Host.Cell) (fate : ReadFate) (addr n : Nat) : Except Nat (List Word) :=
  let refused := (pageStarts addr (4 * n)).find? fun p => (h.denied 25 0 p .read).isSome
  let first := match refused.map (fun p => (p - addr) / 4), ((h.failsAt 25 addr fate).map (· / 4)).filter (fun b => decide (b < n)) with
    | some a, some b => some (min a b)
    | a, none => a
    | none, b => b
  match first with
  | some w => .error w
  | none => .ok (wordsOf ((List.range (4 * n)).map fun i => h.plainByte mem (addr + i)))

/-! ## Program images (R82-R89) -/

/-- The signature of an image verifies under the image-verification node of the program's domain (R82). -/
def Hw.imageSigned (h : Hw) (ws : List Word) (dom : Nat) : Bool :=
  let bs := (ws.map fun w => toBytes 4 w.toNat).flatten
  let len := wordAt ws 2
  let key := (bs.drop len).take 96
  let node := 272 + dom
  h.fld (KEY_K_W0_STATE node) == 1 && h.fld (KEY_K_W0_KIND node) == 2 && Config.sha256 key == h.pubkeyOf node
    && Config.ecdsaVerify true key (bs.take (len + 96)) ((bs.drop (len + 96)).take 96)

/-- Points a domain does not reach (R79). -/
def Hw.outOfReach (h : Hw) (dom : Nat) (ps : List Nat) : List Finding :=
  (ps.filter fun p => !h.reaches dom (zoneOf p)).map fun p => ⟨.zoneDomain, some p⟩

/-- The points of ranges. -/
def rangePoints (rs : List (Nat × Nat)) : List Nat := (rs.map fun r => (List.range r.2).map fun i => r.1 + i).flatten

/-- A finding that a condition brings. -/
def finding (c : Bool) (w : Reason) (at_ : Option Nat) : List Finding := if c then [⟨w, at_⟩] else []

/-- Everything R84 refuses in program `n` on Lantern `l`. -/
def Hw.admitFindings (h : Hw) (n l : Nat) (p : Program) (ws : List Word) : List Finding :=
  let t := h.progsThen
  let here := (progsOn t l).filter fun e => e.1 != n
  let all := p :: here.map (·.2)
  let elsewhere := match Tab.get? t n with
    | some q => q.lnt != l
    | none => false
  let pts := rangePoints p.ranges
  finding elsewhere .format none
    ++ finding (!h.imageSigned ws p.dom) .signature none
    ++ p.codeFindings (codeWords false p.code)
    ++ finding (p.retain.any fun r => !p.retainOk r) .index none
    ++ ((p.owned.filter fun q => h.ownedByOther n q).map fun q => ⟨.ownerConflict, some q⟩)
    ++ finding (t.any fun e => e.1 != n && p.lsp.any fun i => e.2.prog.lsp.contains i) .ownerConflict none
    ++ (((p.owned ++ p.ilk).filter fun q => !h.isOutput q).map fun q => ⟨.direction, some q⟩)
    ++ ((pts.filter fun q => h.isUnused q).map fun q => ⟨.direction, some q⟩)
    ++ h.outOfReach p.dom (pts ++ p.owned ++ p.ilk)
    ++ finding (decide (budgetTicks < worstOf all)) .budget none
    ++ finding (decide (distLimit < distCost all)) .distCost none
    ++ finding (decide (16384 < p.owned.length + p.ilk.length + p.lsp.length) || !setsFit all || !banksFit all || !p.spacesFit
      || here.any (fun e => p.collides e.2)
      || decide (12288 < p.retainBytes + ((t.filter fun e => e.1 != n).map fun e => e.2.prog.retainBytes).sum)) .capacity none
    ++ finding (!pairwiseFree (fun a b : Task => a.group != 0 && a.group == b.group
      && (a.period != b.period || a.phase == b.phase)) p.tasks) .exclGroup none
    ++ finding (h.lntState l == esRetired) .retired none

/-- The image at the address a command took from FRM.ADM_SRC: the program with its worst case and what is wrong with it, or why it was not read. -/
def Hw.imageOf (h : Hw) (mem : List Host.Cell) (fate : ReadFate) (addr n l : Nat) : Except Finding (Program × List Finding) :=
  match h.readWords mem fate addr 32 with
  | .error w => .error ⟨.format, some w⟩
  | .ok hd =>
    if wordAt hd 0 = progMagic then
      match h.readWords mem fate addr (wordAt hd 2 / 4 + 48) with
      | .error w => .error ⟨.format, some w⟩
      | .ok ws =>
        match (if headerOk n hd then parseProgram ws else none) with
        | none => .error ⟨.format, none⟩
        | some p =>
          let p := { p with wcet := p.worst (codeWords false p.code) }
          .ok (p, h.admitFindings n l p ws)
    else .error ⟨.format, none⟩

/-- The bytes of an image that are read: its header, and all of it where the header is one. -/
def Hw.imageLen (h : Hw) (mem : List Host.Cell) (fate : ReadFate) (addr : Nat) : Nat :=
  match h.readWords mem fate addr 32 with
  | .ok hd => if wordAt hd 0 = progMagic then 4 * (wordAt hd 2 / 4 + 48) else 128
  | .error _ => 128

/-- What the reads of `n` bytes of an image or list did beside their data: the banks wake; a finding that names a word whose read was refused is an
access violation of M25, one whose read met an error has that error's effect (R47, R368, R377, R378, R679). -/
def Hw.noteUnread (h : Hw) (addr n : Nat) (fate : ReadFate) (f : Finding) : Hw :=
  match f.at_ with
  | some w =>
    if (h.denied 25 0 (addr + 4 * w) .read).isSome then h.noteRefused 25 0 (addr + 4 * w) 4 .read
    else h.noteFate 25 0 addr fate
  | none => h.wake addr n

/-- Findings that commissioning mode passes over (R89). -/
def Finding.excused (f : Finding) : Bool := f.why == .budget || f.why == .distCost

/-- The verdict on ADMIT, or on CHECK when `place` is false (R84, R89, R91, R165). -/
def Hw.admitVerdict (h : Hw) (mem : List Host.Cell) (fate : ReadFate) (c : AdmCmd) (place : Bool) : Hw :=
  match h.imageOf mem fate c.src c.prog c.lnt with
  | .error f => (h.noteUnread c.src (h.imageLen mem fate c.src) fate f).verdict vRefused f.why f.at_
  | .ok (p, fs) =>
    let h := h.wake c.src (h.imageLen mem fate c.src)
    let others := ((progsOn h.progsThen c.lnt).filter fun e => e.1 != c.prog).map (·.2)
    let excused := h.flag FRM_CTRL_COMMISSION && fs.all Finding.excused
    match (if excused then none else firstFinding fs) with
    | some f =>
      let h := if Reason.code .budget ≤ f.why.code then h.setFld FRM_ADM_WCET (worstOf (p :: others)) else h
      h.verdict vRefused f.why f.at_
    | none =>
      let h := h.setFld FRM_ADM_WCET (worstOf (p :: others))
      if place then
        let base := h.freeVal 15
        h.useFree.accepted (.place c.prog ⟨c.lnt, base, p⟩ (!fs.isEmpty))
      else h.verdict vAdmitted .none none

/-- The verdict on REVOKE (R172): the Lantern holds the program, else the operand is invalid. -/
def Hw.revokeVerdict (h : Hw) (c : AdmCmd) : Hw :=
  match Tab.get? h.progsThen c.prog with
  | some q => if q.lnt = c.lnt then h.accepted (.revoke c.prog) else h.verdict vRefused .format none
  | none => h.verdict vRefused .format none

/-! ## Slot lists (R210-R212) -/

/-- An entry of a slot list: slot and the words of its descriptor image. -/
structure SlotEntry where
  slot : Nat
  words : List Word
  deriving DecidableEq, Repr

/-- A field of a descriptor image. -/
def SlotEntry.get (e : SlotEntry) (f : SlotFld) : Nat := bits (wordAt e.words f.word) f.lo f.w

/-- Reserved bits of a descriptor image, and the fields R211 refuses with FORMAT. -/
def SlotEntry.ok (e : SlotEntry) : Bool :=
  let w := wordAt e.words
  let signed (f : SlotFld) : Int := toSigned 16 (e.get f)
  bits (w 0) 9 7 == 0 && bits (w 1) 18 6 == 0 && [2, 5, 6, 8, 11].all (fun i => bits (w i) 17 15 == 0)
    && bits (w 14) 16 16 == 0 && bits (w 18) 16 16 == 0 && [19, 22, 23].all (fun i => w i == 0)
    && e.get dPeriod != 0 && decide (e.get dPhase < e.get dPeriod) && e.get dMode0 != 3
    && !(e.get dMode0 == 2 && e.get dTrken == 0) && decide (signed dLlim ≤ signed dUlim) && decide (e.get dRamp ≤ 32767)

/-- Points a descriptor image reads: measured value, then those it uses. -/
def SlotEntry.reads (e : SlotEntry) : List Nat :=
  e.get dPvpt :: ((if e.get dSpsrc = 1 then [e.get dSppt] else []) ++ (if e.get dFfen = 1 then [e.get dFfpt] else []))
def SlotEntry.tracks (e : SlotEntry) : List Nat := if e.get dTrken = 1 then [e.get dTrkpt] else []

/-- The entries of a slot list of `size` words each. -/
def slotEntries (size : Nat) : Nat → List Word → List SlotEntry
  | 0, _ => []
  | n + 1, ws => ⟨wordAt ws 0, (ws.drop 1).take (size - 1)⟩ :: slotEntries size n (ws.drop size)

/-- The slot list at an address, or why it was not read. -/
def Hw.slotList (h : Hw) (mem : List Host.Cell) (fate : ReadFate) (addr size : Nat) : Except Finding (List SlotEntry) :=
  match h.readWords mem fate addr 1 with
  | .error w => .error ⟨.format, some w⟩
  | .ok hd =>
    let n := wordAt hd 0
    if n = 0 ∨ 8192 < n then .error ⟨.format, none⟩
    else
      match h.readWords mem fate addr (1 + size * n) with
      | .error w => .error ⟨.format, some w⟩
      | .ok ws =>
        let es := slotEntries size n (ws.drop 1)
        if es.all (fun e => decide (e.slot < 8192)) then .ok es else .error ⟨.format, none⟩

/-- The first reason of R211 that refuses a list, in its order. -/
def Hw.enableFinding (h : Hw) (c : AdmCmd) (es : List SlotEntry) : Option Finding :=
  let m := c.eng
  let on := h.slotsThen m
  let now := (h.eng m).enabled
  let outs := es.map fun e => e.get dOutpt
  let sum := (on.map (h.eng m).cost).sum + (es.map fun e => if e.get dForm = 1 then 32 else 24).sum
  (finding (!pairwiseFree (fun a b : SlotEntry => a.slot == b.slot) es || es.any fun e => on.contains e.slot || now.contains e.slot || !e.ok)
    .format none
    ++ finding (c.dom != 0 && es.any fun e => e.get dDomain != c.dom) .zoneDomain none
    ++ (es.map fun (e : SlotEntry) => h.outOfReach (e.get dDomain) (e.get dOutpt :: e.reads)).flatten
    ++ ((outs.filter fun p => !h.isOutput p).map fun p => (⟨.direction, some p⟩ : Finding))
    ++ (((es.map fun (e : SlotEntry) => e.reads ++ e.tracks).flatten.filter fun p => h.isUnused p).map fun p => (⟨.direction, some p⟩ : Finding))
    ++ ((outs.filter fun p => h.ownedByOther 32 p).map fun p => (⟨.ownerConflict, some p⟩ : Finding))
    ++ ((outs.filter fun p => decide (1 < outs.count p)).map fun p => (⟨.ownerConflict, some p⟩ : Finding))
    ++ finding (decide (loopBudget < sum)) .budget none
    ++ finding (h.lpeState m == esRetired) .retired none).head?

/-- The verdict on LOOP_ENABLE: an admitted list is written into loop memory before it (R211). -/
def Hw.loopEnableVerdict (h : Hw) (mem : List Host.Cell) (fate : ReadFate) (c : AdmCmd) : Hw :=
  match h.slotList mem fate c.src 33 with
  | .error f => (h.noteUnread c.src 4 fate f).verdict vRefused f.why f.at_
  | .ok es =>
    let h := h.wake c.src (4 + 132 * es.length)
    let m := c.eng
    let sum := ((h.slotsThen m).map (h.eng m).cost).sum + (es.map fun e => if e.get dForm = 1 then 32 else 24).sum
    match h.enableFinding c es with
    | some f =>
      let h := if f.why = .budget ∨ f.why = .retired then h.setFld FRM_ADM_WCET sum else h
      h.verdict vRefused f.why f.at_
    | none =>
      let e := es.foldl (fun (e : LoopEngine) x =>
        ((List.range 24).foldl (fun (e : LoopEngine) w => e.setWord x.slot w (x.words.getD w 0#32)) e).setFlag x.slot dEn false)
        (h.eng m)
      ((h.setEng m e).setFld FRM_ADM_WCET sum).accepted (.enable m (es.map SlotEntry.slot))

/-- The verdict on LOOP_DISABLE (R210, R212). -/
def Hw.loopDisableVerdict (h : Hw) (mem : List Host.Cell) (fate : ReadFate) (c : AdmCmd) : Hw :=
  match h.slotList mem fate c.src 1 with
  | .error f => (h.noteUnread c.src 4 fate f).verdict vRefused f.why f.at_
  | .ok es =>
    let h := h.wake c.src (4 + 4 * es.length)
    let ss := es.map SlotEntry.slot
    let left := (h.slotsThen c.eng).filter fun s => !ss.contains s
    (h.setFld FRM_ADM_WCET (left.map (h.eng c.eng).cost).sum).accepted (.disable c.eng ss)

/-! ## Retirement plans (R94-R96, R100) -/

/-- Inserts a program in order of falling worst case. Equals keep their order, the lower program number first: R94 names no order among
them (log entry 173, DESIGN CHOICE). -/
def insertWorst (e : Nat × Program) : List (Nat × Program) → List (Nat × Program)
  | [] => [e]
  | q :: qs => if q.2.wcet < e.2.wcet then e :: q :: qs else q :: insertWorst e qs

/-- A Lantern takes a program beside those of a placement: R68, R70, R76 and R86 hold (R94). -/
def Hw.takes (h : Hw) (t : Tab Placed) (l : Nat) (p : Program) : Bool :=
  let ps := p :: (progsOn t l).map (·.2)
  h.lntState l != esRetired && setsFit ps && decide (distCost ps ≤ distLimit)
    && decide (worstOf ps ≤ budgetTicks)

/-- Remaining slack of a Lantern in a placement. -/
def slackOf (t : Tab Placed) (l : Nat) : Nat := budgetTicks - worstOf ((progsOn t l).map (·.2))

/-- The programs of a retiring Lantern, largest worst case first, each on the Lantern with the most slack that takes it, the
lowest number on a tie (R94). -/
def Hw.placeAll (h : Hw) (l : Nat) (t : Tab Placed) : List (Nat × Program) → Option (List (Nat × Nat))
  | [] => some []
  | (n, p) :: rest =>
    match mostBy (slackOf t) ((List.range 8).filter fun d => d != l && h.takes t d p) with
    | none => none
    | some d => (h.placeAll l (Tab.put t n ⟨d, 0, p⟩) rest).map fun m => (n, d) :: m

/-- Programs relocated one after another to their destinations (R96): the lowest free bases there. Where a destination that R94 chose
has no free bases or no bank space, the retirement is refused with CAPACITY and no other destination is tried (log entry 173, DESIGN
CHOICE). -/
def relocateAll (t : Tab Placed) : List (Nat × Nat) → Except Reason (List (Nat × Placed))
  | [] => .ok []
  | (n, d) :: rest =>
    match Tab.get? t n with
    | none => relocateAll t rest
    | some q =>
      let others := ((progsOn t d).filter fun e => e.1 != n).map (·.2)
      if q.prog.reloc.isNone then .error .noReloc
      else
        match q.prog.freeBases others with
        | none => .error .capacity
        | some b =>
          let p := q.prog.relocate b
          if banksFit (p :: others) then
            match relocateAll (Tab.put t n ⟨d, q.base, p⟩) rest with
            | .ok m => .ok ((n, ⟨d, q.base, p⟩) :: m)
            | .error e => .error e
          else .error .capacity

/-- A pending change replaces the version of a program that is placed on another Lantern than `l`: a retirement of `l` that moves
programs to that Lantern cancels it (R95). -/
def Hw.onLine (h : Hw) (l : Nat) : Change → Bool
  | .place n p _ => p.lnt != l && (Tab.get? h.progs n).isSome
  | _ => false

/-- Placement as the retirement of Lantern `l` finds it: every pending change but the on-line changes that it cancels where it
moves programs (R95). -/
def Hw.progsKept (h : Hw) (l : Nat) : Tab Placed :=
  ({ h with adm := { h.adm with changes := h.adm.changes.filter fun c => !h.onLine l c } } : Hw).progsThen

/-- The plan entry that covers a Lantern, with destinations that are not retired. A pending change that the retirement does not
cancel takes effect before its handover and ends the cover (R103). -/
def Hw.planFor (h : Hw) (l : Nat) : Option PlanEntry :=
  let touched : List Nat := ((h.adm.changes.filter fun c => !h.onLine l c).map fun c => match c with
    | .place _ p _ => [p.lnt]
    | .revoke n => ((Tab.get? h.progs n).map Placed.lnt).toList
    | _ => []).flatten
  h.adm.plan.find? fun e => e.lnt == l && !touched.contains l
    && e.moves.all fun m => h.lntState m.2.lnt != esRetired && !touched.contains m.2.lnt

/-- Where the programs of a retiring Lantern go (R94, R96). -/
def Hw.movesOf (h : Hw) (l : Nat) : Except Reason (List (Nat × Placed)) :=
  match h.planFor l with
  | some e => .ok e.moves
  | none =>
    let t := h.progsKept l
    let ps := (progsOn t l).foldl (fun acc e => insertWorst e acc) []
    match h.placeAll l t ps with
    | none => .error .noSlack
    | some m => relocateAll t m

/-- Where the slots of a retiring engine go: in ascending order to the lowest free numbers of the other (R100, log entry
18, DESIGN CHOICE). -/
def Hw.slotMoves (h : Hw) (m : Nat) : Except Reason (List (Nat × Nat)) :=
  let o := 1 - m
  let mine := h.slotsThen m
  let theirs := h.slotsThen o
  let sum := (mine.map (h.eng m).cost).sum + (theirs.map (h.eng o).cost).sum
  let free := (List.range 8192).filter fun s => !theirs.contains s
  if loopBudget < sum then .error .budget
  else if free.length < mine.length then .error .capacity
  else if h.lpeState o = esRetired then .error .retired
  else .ok (mine.zip free)

/-- A retirement whose destination holds a pending on-line change cancels that change (R95). -/
def Hw.cancelChanges (h : Hw) (dests : List Nat) : Hw :=
  let hit (c : Change) : Bool := match c with
    | .place n p _ => dests.contains p.lnt && (Tab.get? h.progs n).isSome
    | _ => false
  let n := (h.adm.changes.filter hit).length
  let left := h.adm.changes.filter fun c => !hit c
  let h := ({ h with adm := { h.adm with changes := left } } : Hw).setFlag FRM_ADM_STAT_PENDING (!left.isEmpty)
  (List.range n).foldl (fun h _ => h.verdict vCancelled .cancelled none) h

/-- A retirement is refused: the engine that is not RETIRED runs on as FAILED, and E23 (R94, R107). A refused Keeper request shows in
FRM.KRQ.REFUSED alone; VERDICT and REASON of FRM.ADM_STAT stay (log entry 174, DESIGN CHOICE). -/
def Hw.retireRefused (h : Hw) (byHost loop : Bool) (u : Nat) (why : Reason) : Hw :=
  let h := if loop then (if h.lpeState u = esRetired then h else h.setLpeState u esFailed)
    else if h.lntState u = esRetired then h else h.setLntState u esFailed
  let h := if byHost then h.verdict vRefused why none
    else (h.setFlag FRM_KRQ_REQ false).setFlag FRM_KRQ_REFUSED true
  h.raise 23

/-- A retirement is planned and begins, or is refused (R94, R95, R97, R100). A retiring loop engine reads HANDOVER from its request on,
a Lantern once its shadow bank is loaded; the cancellation of a pending change is the last verdict of the step (log entry 174,
DESIGN CHOICE). -/
def Hw.retireStart (h : Hw) (byHost loop : Bool) (u : Nat) : Hw :=
  let begin_ (h : Hw) (moves : List (Nat × Placed)) (slots : List (Nat × Nat)) (stage : RetStage) : Hw :=
    let h := { h with adm := { h.adm with retire := some ⟨byHost, loop, u, moves, slots, stage⟩ } }
    (if byHost then h.verdict vAdmitted .none none else h).cancelChanges (moves.map fun m => m.2.lnt)
  if loop then
    match (if h.lpeState u = esRetired then .error .retired else h.slotMoves u) with
    | .error why => h.retireRefused byHost loop u why
    | .ok m => (begin_ h [] m .fixed).setLpeState u esHandover
  else
    match (if h.lntState u = esRetired then .error .retired else h.movesOf u) with
    | .error why => h.retireRefused byHost loop u why
    | .ok m => begin_ h m [] .loading

/-- A Keeper request runs when no command is in progress (R95). -/
def Hw.keeperRequest (h : Hw) : Hw :=
  if h.flag FRM_KRQ_REQ && h.adm.cmd.isNone && h.adm.retire.isNone then
    (h.retireStart false (h.flag FRM_KRQ_LOOP) (if h.flag FRM_KRQ_LOOP then h.fld FRM_KRQ_ENG else h.fld FRM_KRQ_LNT)).showBusy
  else h

/-- The Keeper writes FRM.KRQ with REQ (R95, R104). -/
def Hw.krqWrite (h : Hw) (loop : Bool) (lnt eng : Nat) : Hw :=
  let h := ((h.setFld FRM_KRQ_LNT lnt).setFlag FRM_KRQ_LOOP loop).setFld FRM_KRQ_ENG eng
  (h.setFlag FRM_KRQ_REQ true).keeperRequest

/-- The shadow bank of the destination is loaded: the next frame is the handover frame (R97). -/
def shadowLoadDone (h : Hw) : Hw :=
  match h.adm.retire with
  | some r =>
    if r.stage = .loading then
      ({ h with adm := { h.adm with retire := some { r with stage := .fixed } } } : Hw).setLntState r.unit esHandover
    else h
  | none => h

/-! ## The N-1 plan (R102, R103) -/

/-- An entry of the plan as it was read: covered Lantern, its words of programs. -/
structure PlanText where
  hd : Nat
  progs : List Nat
  deriving DecidableEq, Repr

/-- Reads `n` entries from word `off` on. -/
def Hw.planEntries (h : Hw) (mem : List Host.Cell) (fate : ReadFate) (addr : Nat) : Nat → Nat → Except Nat (List PlanText)
  | 0, _ => .ok []
  | n + 1, off =>
    match h.readWords mem fate addr (off + 1) with
    | .error w => .error w
    | .ok a =>
      let hd := wordAt a off
      let k := bits hd 3 6
      match h.readWords mem fate addr (off + 1 + k) with
      | .error w => .error w
      | .ok b =>
        match h.planEntries mem fate addr n (off + 1 + k) with
        | .error w => .error w
        | .ok es => .ok (⟨hd, ((b.drop (off + 1)).take k).map BitVec.toNat⟩ :: es)

/-- The format rules of a plan (R102, R103). -/
def Hw.planFormat (h : Hw) (hd : List Word) (es : List PlanText) : Bool :=
  let t := h.progsThen
  wordAt hd 0 == 0x4E4D3150 && bits (wordAt hd 1) 4 28 == 0 && wordAt hd 2 % 64 == 0 && bits (wordAt hd 3) 8 24 == 0
    && bits (wordAt hd 4) 24 8 == 0
    && pairwiseFree (fun a b : PlanText => bits a.hd 0 3 == bits b.hd 0 3) es
    && es.all fun e =>
      let l := bits e.hd 0 3
      let ns := e.progs.map fun w => bits w 0 5
      let here := (progsOn t l).map (·.1)
      bits e.hd 9 23 == 0 && decide (1 ≤ e.progs.length) && decide (e.progs.length ≤ 32)
        && e.progs.all (fun w => bits w 8 24 == 0 && bits w 5 3 != l)
        && pairwiseFree (fun a b : Nat => a == b) ns && ns.length == here.length && ns.all fun n => here.contains n

/-- The moves of a plan entry: programs with a relocation list at the lowest free bases of their alternates, beside those
that keep their indexes (R96, R103). -/
def planMoves (t : Tab Placed) (e : PlanText) : Except Reason (List (Nat × Placed)) :=
  let ms := e.progs.map fun w => (bits w 0 5, bits w 5 3)
  let stay := ms.filterMap fun m => match Tab.get? t m.1 with
    | some q => if q.prog.reloc.isNone then some (m.1, (⟨m.2, q.base, q.prog⟩ : Placed)) else none
    | none => none
  let fixed := stay.all fun a =>
    ((progsOn t a.2.lnt).all fun b => !a.2.prog.collides b.2)
      && stay.all fun b => b.1 == a.1 || b.2.lnt != a.2.lnt || !a.2.prog.collides b.2.prog
  if fixed then
    let t' := stay.foldl (fun t a => Tab.put t a.1 a.2) t
    let rest := ms.filter fun m => !stay.any fun a => a.1 == m.1
    match relocateAll t' rest with
    | .ok r => .ok (stay ++ r)
    | .error w => .error w
  else .error .noReloc

/-- Alternates an entry names, ascending. -/
def altsOf (ms : List (Nat × Placed)) : List Nat := (List.range 8).filter fun l => ms.any fun m => m.2.lnt == l

/-- What an entry's alternates break after its moves (R103). -/
def planBreaks (t : Tab Placed) (ms : List (Nat × Placed)) : List Reason :=
  (altsOf ms).map (fun l =>
    let ps := (progsOn t l).map (·.2) ++ (ms.filter fun m => m.2.lnt == l).map fun m => m.2.prog
    (if setsFit ps && banksFit ps then [] else [Reason.capacity]) ++ (if distCost ps ≤ distLimit then [] else [.distCost])
      ++ (if worstOf ps ≤ budgetTicks then [] else [.budget])) |>.flatten

/-- The first of a list of reasons that is in another. -/
def firstOf (order rs : List Reason) : Option Reason := order.find? fun r => rs.contains r

/-- The verdict on PLAN_NM1: the whole plan or none of it; the bank images are written to the work area as M25 (R103,
R679). The spec does not lay out a bank, so the bytes of an image are free (log entry 14, DESIGN CHOICE). A refused write of the work
area, for which R679 states no answer, is refused with FORMAT and no DETAIL (log entry 173, DESIGN CHOICE). -/
def planVerdict (fate : ReadFate) (addr : Nat) (s : State) : State :=
  let h := s.hw
  let unread (w : Nat) : State :=
    { s with hw := (h.noteUnread addr 20 fate ⟨.format, some w⟩).verdict vRefused .format (some w) }
  match h.readWords s.mem fate addr 5 with
  | .error w => unread w
  | .ok hd =>
    let n := bits (wordAt hd 1) 0 4
    if n = 0 ∨ 8 < n then { s with hw := (h.wake addr 20).verdict vRefused .format none }
    else
      match h.planEntries s.mem fate addr n 5 with
      | .error w => unread w
      | .ok es =>
        let h := h.wake addr (20 + 4 * (es.map fun e => 1 + e.progs.length).sum)
        let refuse (w : Reason) (at_ : Option Nat) : State := { s with hw := h.verdict vRefused w at_ }
        let t := h.progsThen
        let out (l : Nat) : Bool := h.lntState l == esRetired || h.lntState l == esFailed
        if !h.planFormat hd es then refuse .format none
        else if es.any fun e => out (bits e.hd 0 3) || e.progs.any fun w => out (bits w 5 3) then refuse .retired none
        else
          let rs := es.map fun e => planMoves t e
          let errs := rs.filterMap fun r => match r with
            | .error w => some w
            | .ok _ => none
          let moves := rs.filterMap fun r => match r with
            | .ok m => some m
            | .error _ => none
          let pairs := (moves.map fun m => (altsOf m).length).sum
          let work := wordAt hd 2 + bits (wordAt hd 3) 0 8 * 2 ^ 32
          let errs := errs ++ (moves.map (planBreaks t)).flatten
            ++ (if bits (wordAt hd 4) 0 24 < 131072 * pairs then [.capacity] else [])
          match firstOf [.noReloc, .capacity, .distCost, .budget] errs with
          | some w => refuse w none
          | none =>
            if (h.writeAs 25 0 work (131072 * pairs)).isSome then
              { s with hw := (h.noteRefused 25 0 work (131072 * pairs) .write).verdict vRefused .format none }
            else
              let es := (es.zip moves).map fun e => (⟨bits e.1.hd 0 3, e.2⟩ : PlanEntry)
              let s := { s with hw := h }.blockWrite work (toBytes (131072 * pairs) (h.freeVal (8 * 131072 * pairs)))
              s.onHw fun h => h.useFree.accepted (.plan es)

/-! ## The command ends (R90) -/

/-- The checker returns its verdict on the command in progress; a Keeper request that waited may run after it. -/
def admitVerdict (fate : ReadFate) (s : State) : State :=
  match s.hw.adm.cmd with
  | none => s
  | some c =>
    let s := { s with hw := { s.hw with adm := { s.hw.adm with cmd := none } } }
    let s := match c.op with
      | 1 => s.onHw fun h => h.admitVerdict s.mem fate c true
      | 2 => s.onHw fun h => h.admitVerdict s.mem fate c false
      | 3 => s.onHw fun h => h.revokeVerdict c
      | 4 => s.onHw fun h => h.retireStart true false c.lnt
      | 5 => s.onHw fun h => h.loopEnableVerdict s.mem fate c
      | 6 => s.onHw fun h => h.loopDisableVerdict s.mem fate c
      | 7 => s.onHw fun h => h.retireStart true true c.eng
      | 8 => planVerdict fate c.src s
      | _ => s.onHw fun h => h.verdict vRefused .format none
    s.onHw Hw.showBusy

/-! ## Meanings -/

def execAdmitProg (src : Src) (prog : Fin 32) (lnt : Fin 8) (s : State) : Host.Outcome State Fault Refusal :=
  .next (s.onHw (admCommand 1 prog.val lnt.val 0 src))
def execCheck (src : Src) (prog : Fin 32) (lnt : Fin 8) (s : State) : Host.Outcome State Fault Refusal :=
  .next (s.onHw (admCommand 2 prog.val lnt.val 0 src))
def execRevoke (src : Src) (prog : Fin 32) (lnt : Fin 8) (s : State) : Host.Outcome State Fault Refusal :=
  .next (s.onHw (admCommand 3 prog.val lnt.val 0 src))
def execRetireLnt (src : Src) (lnt : Fin 8) (s : State) : Host.Outcome State Fault Refusal :=
  .next (s.onHw (admCommand 4 0 lnt.val 0 src))
def execLoopEnable (src : Src) (eng : Fin 2) (s : State) : Host.Outcome State Fault Refusal :=
  .next (s.onHw (admCommand 5 0 0 eng.val src))
def execLoopDisable (src : Src) (eng : Fin 2) (s : State) : Host.Outcome State Fault Refusal :=
  .next (s.onHw (admCommand 6 0 0 eng.val src))
def execRetireLoop (src : Src) (eng : Fin 2) (s : State) : Host.Outcome State Fault Refusal :=
  .next (s.onHw (admCommand 7 0 0 eng.val src))
def execPlanNm1 (src : Src) (s : State) : Host.Outcome State Fault Refusal := .next (s.onHw (admCommand 8 0 0 0 src))
def execAdmitVerdict (fate : ReadFate) (s : State) : Host.Outcome State Fault Refusal := .next (admitVerdict fate s)
def execShadowLoadDone (s : State) : Host.Outcome State Fault Refusal := .next (s.onHw shadowLoadDone)

end Sys2Proof.Machine
end

