-- ==== Sys2Proof/Machine/Nvm.lean ====
section
/-! DEFINITION. The record store's commands (13): write and read requests, commit groups, compaction, refresh and spread
counters. -/

namespace Sys2Proof.Machine

def nvmAddr (off : Nat) : Nat := 0x30290000 + off

/-! ## Write requests (R503, R504) -/

/-- A ticket ends: WCOMMIT holds the highest ticket up to which every request has ended (R503). -/
def Hw.ticketEnd (h : Hw) (t : Nat) : Hw :=
  let h := { h with nvm := { h.nvm with ended := t :: h.nvm.ended } }
  (List.range h.nvm.ended.length).foldl (fun h _ =>
    let c := (h.fld NVM_WCOMMIT + 1) % 2 ^ 32
    if h.nvm.ended.contains c then
      ({ h with nvm := { h.nvm with ended := h.nvm.ended.erase c } } : Hw).setFld NVM_WCOMMIT c
    else h) h

/-- A request fails (R504): a host request is counted and reported, and its ticket ends. -/
def Hw.reqFail (h : Hw) (reason : Nat) (r : NvmReq) : Hw :=
  match r.purpose with
  | .host t _ =>
    let h := h.countS NVM_WFAILCNT_COUNT NVM_WFAILCNT_SAT 175 1
    let h := ((h.setFld NVM_WSTAT_TICKET t).setFld NVM_WSTAT_REASON reason).setFlag NVM_WSTAT_VALID true
    (h.raise 169).ticketEnd t
  | .keeper | .plan _ | .hour _ => ((h.countS KEEP_LFAIL KEEP_LFAIL_SAT 15 1).raise 15).recordFree 0x0A7 4 0
  | .billing => { h with bil := { h.bil with run := h.bil.run.map fun (r : SaveRun) => { r with failed := true } } }
  | _ => h

/-- Requests of the host that wait. -/
def Hw.hostPending (h : Hw) : Nat :=
  let all := h.nvm.reqs ++ h.nvm.txOpen ++ (h.nvm.open_.map (·.2)).flatten
  (all.filter fun r => match r.purpose with
    | .host _ _ => true
    | _ => false).length

/-- Whether the cipher reports KEY_ORPHANED: K3 is ORPHAN (R504). -/
def Hw.cipherOrphan (h : Hw) : Bool := h.fld (KEY_K_W0_STATE 3) == 2

/-- Whether a group may take a request beside those it holds: at most 255 lines before the commit line (R495), and
one transaction (R498). -/
def groupFits (g : List NvmReq) (r : NvmReq) : Bool :=
  decide ((g.map NvmReq.lines).sum + r.lines ≤ 255) && g.all fun q => q.tx == r.tx

/-- Whether the last request of a transaction must still wait for the others (R498). -/
def Nvm.txWaits (n : Nvm) (r : NvmReq) : Bool :=
  r.txLast && (n.reqs ++ (n.open_.map (·.2)).flatten).any fun q => q.tx == r.tx && q != r

/-- Requests that wait, those of an open transaction last. -/
def Nvm.waiting (n : Nvm) : List NvmReq := (n.open_.map (·.2)).flatten ++ n.reqs ++ n.txOpen

/-- Every waiting request fails: after the power-fail indication none is written (R504, R524, R640). A transaction of which a
group has committed will never be whole. -/
def Hw.failAll (h : Hw) : Hw :=
  h.nvm.waiting.foldl (fun (h : Hw) r => h.reqFail 5 r)
    { h with nvm := { h.nvm with reqs := [], txOpen := [], open_ := [], txPart := [], txDead := h.nvm.txPart ++ h.nvm.txDead } }

/-- A request of the queue fails, and with it every request of its transaction (R504). -/
def Hw.failReq (h : Hw) (reason : Nat) (r : NvmReq) : Hw :=
  if r.tx = 0 then ({ h with nvm := { h.nvm with reqs := h.nvm.reqs.erase r } } : Hw).reqFail reason r
  else
    let mine := fun (q : NvmReq) => q.tx == r.tx
    let n := h.nvm
    let m := { n with
      reqs := n.reqs.filter fun q => !mine q
      open_ := Tab.keep (Tab.mapVal n.open_ fun _ g => g.filter fun q => !mine q) fun _ g => !g.isEmpty
      txPart := n.txPart.filter fun x => x != r.tx
      txDead := r.tx :: n.txDead }
    (n.waiting.filter mine).foldl (fun (h : Hw) q => h.reqFail reason q) { h with nvm := m }

/-- Whether a foreground request of `lines` lines must wait for FREE sectors on a plane (R510). -/
def Nvm.noRoom (n : Nvm) (p lines : Nat) : Bool :=
  ((n.closeFull p (lines + 1)).service.all fun q => !(q / 64 == p && (n.sector q).isOpen
    && decide ((n.sector q).used + lines + 1 ≤ 1016))) && decide ((n.freeOf p).length ≤ 3)

/-- One waiting request is placed, fails or waits on; whether any waits for FREE sectors. -/
def Hw.placeOne (e : Hw × Bool) (r : NvmReq) : Hw × Bool :=
  let h := e.1
  let enc := partEnc (partOf r.typ)
  if !h.nvm.reqs.contains r then e
  else if enc && h.flag NVM_STAT_TAMPER then (h.failReq 6 r, e.2)
  else if enc && h.cipherOrphan then (h.failReq 7 r, e.2)
  else if enc && !h.cipherReady then (h.setFlag NVM_STAT_KEYWAIT true, e.2)
  else match mostBy (fun p => h.nvm.freeLines p - ((Tab.getD h.nvm.open_ p []).map NvmReq.lines).sum) [0, 1, 2, 3] with
    | none => e
    | some p =>
      let g := Tab.getD h.nvm.open_ p []
      if h.nvm.txWaits r || !groupFits g r then e
      else if h.nvm.noRoom p r.lines then (if h.flag NVM_STAT_FULLWAIT then h else (h.setFlag NVM_STAT_FULLWAIT true).raise 170, true)
      else ({ h with nvm := { h.nvm with reqs := h.nvm.reqs.erase r, open_ := Tab.put h.nvm.open_ p (g ++ [r]) } }, e.2)

/-- Each waiting request joins the group of the plane with the most free lines (R497). Encrypted requests wait for the
key (R525) and fail while the tamper latch is set (R552) or the key is orphaned (R504), foreground writes wait for FREE sectors
(R510). -/
def Hw.place (h : Hw) : Hw :=
  if h.sys.down.isSome then h.failAll
  else
    let e := h.nvm.reqs.foldl Hw.placeOne (h.setFlag NVM_STAT_KEYWAIT false, false)
    e.1.setFlag NVM_STAT_FULLWAIT e.2

/-- What a TYPE and KEY is charged now, and once the waiting requests have committed. -/
def Nvm.chargeNow (n : Nvm) (typ key : Nat) : Nat :=
  match n.live typ key with
  | some r => recCharge r.typ r.payload.length
  | none => 0
def Nvm.chargeThen (n : Nvm) (typ key : Nat) : Nat :=
  match (n.waiting.filter fun q => q.typ == typ && q.key == key).getLast? with
  | some q => recCharge q.typ q.payload.length
  | none => n.chargeNow typ key

/-- Whether the partition of a request has room for it (R501): its charge in place of the one it replaces, beside what the
partition holds and what waits for it. -/
def Hw.quotaOk (h : Hw) (typ key len : Nat) : Bool :=
  let p := partOf typ
  let n := h.nvm
  let keys := ((n.waiting.filter fun q => partOf q.typ == p).map fun q => (q.typ, q.key)).eraseDups
  let used := h.fld (NVM_PUSE_USED p) + (keys.map fun k => n.chargeThen k.1 k.2).sum - (keys.map fun k => n.chargeNow k.1 k.2).sum
  decide (used + recCharge typ len - n.chargeThen typ key ≤ partQuota p)

/-- The reason for which a host request fails at once (R504), checked in the order of their numbers (log entry 9, DESIGN CHOICE). -/
def Hw.reqReason (h : Hw) (typ key len : Nat) (payload : Option (List Byte)) : Nat :=
  if partOf typ ≠ 8 ∨ 4048 < len then 1
  else if !h.quotaOk typ key len then 2
  else if payload.isNone then 3
  else if h.nvm.txOpen.length ≥ 16 ∨ 65536 < len + (h.nvm.txOpen.map fun r => r.payload.length).sum then 4
  else if h.flag NVM_STAT_TAMPER then 6
  else if h.cipherOrphan then 7 else 0

/-- A write of NVM.WCMD with PUSH (R503). -/
def nvmWrite (mem : List Host.Cell) (len : Nat) (txn ie : Bool) (h : Hw) : Hw :=
  let h := ((h.setFld NVM_WCMD_LEN len).setFlag NVM_WCMD_TXN txn).setFlag NVM_WCMD_IE ie
  if !h.sys.down.isSome && decide (16 ≤ h.hostPending) then (h.setFlag NVM_STAT_QREF true).raise 175
  else
    let h := h.countW NVM_WSUB 1
    let t := h.fld NVM_WSUB
    let typ := h.fld NVM_WTYPE
    let key := h.fld NVM_WKEY
    let got := h.readAs mem 24 0 (h.fld NVM_WADDR) (min len 4048)
    let payload := match got with
      | .ok b => some b
      | .error _ => none
    let h := h.noteRefused 24 0 (h.fld NVM_WADDR) (min len 4048) .read
    let r : NvmReq := ⟨typ, key, payload.getD [], 0, false, .host t ie⟩
    let reason := h.reqReason typ key len payload
    if reason ≠ 0 then
      let tx := h.nvm.txOpen
      let h := (h.reqFail reason r)
      if tx = [] then h
      else tx.foldl (fun h q => h.reqFail reason q) { h with nvm := { h.nvm with txOpen := [] } }
    else if h.sys.down.isSome then h.reqFail 5 r
    else if txn then { h with nvm := { h.nvm with txOpen := h.nvm.txOpen ++ [r] } }
    else if h.nvm.txOpen = [] then ({ h with nvm := { h.nvm with reqs := h.nvm.reqs ++ [r] } } : Hw).place
    else
      let x := h.nvm.txNext
      let rs := (h.nvm.txOpen.map fun q => { q with tx := x }) ++ [{ r with tx := x, txLast := true }]
      ({ h with nvm := { h.nvm with
          reqs := h.nvm.reqs ++ rs, txOpen := [], txNext := x + 1, txPart := x :: h.nvm.txPart } } : Hw).place

/-! ## Commit groups (R496-R498) -/

/-- What the commit of a request brings to its owner. -/
def Hw.reqDone (h : Hw) (r : NvmReq) : Hw :=
  match r.purpose with
  | .host t ie => (if ie then h.raise 168 else h).ticketEnd t
  | .logBatch => h.logBatchDone
  | .plan p => { h with keep := { h.keep with savedPlan := some p } }
  | .hour p => { h with keep := { h.keep with savedHour := some p } }
  | .force n v => { h with forceSaved := Tab.put h.forceSaved n v }
  | _ => h

/-- Transactions all of whose requests have committed are whole (R498). -/
def Hw.txSettle (h : Hw) : Hw :=
  let waiting := h.nvm.reqs ++ (h.nvm.open_.map (·.2)).flatten
  { h with nvm := { h.nvm with txPart := h.nvm.txPart.filter fun x => waiting.any fun r => r.tx == x } }

/-- A sector is named in the retirement table (R518): E172. -/
def Hw.retireSector (h : Hw) (r : Nat) : Hw :=
  let n := { h.nvm with retired := r :: h.nvm.retired }
  let h := (({ h with nvm := n } : Hw).submit 0x0006 0 (toBytes 1 r) .system).nvmShow
  let h := if h.nvm.retired.length > 24 then h.setFlag NVM_STAT_DEGRADED true else h
  h.raise 172

/-- A sector's program verify has failed: its live records are first compacted out, then it is retired (R518; log entry 193,
DESIGN CHOICE). -/
def Hw.verifyFail (h : Hw) (r : Nat) : Hw :=
  if h.nvm.liveOf r = [] then h.retireSector r
  else
    let n := h.nvm.setSector r { h.nvm.sector r with full := true }
    { h with nvm := { n with bad := r :: n.bad, want := (r, 0) :: n.want.filter fun w => w.1 != r } }

/-- Counts spread counter `c` once (R520); the count after the 512th cell carries into a new base record (R521). -/
def Hw.spread (h : Hw) (c : Nat) : Hw :=
  let cells := Tab.getD h.nvm.cells c 0
  let h := h.countW (NVM_CNT_VALUE c) 1
  if cells < 512 then { h with nvm := { h.nvm with cells := Tab.put h.nvm.cells c (cells + 1) } }
  else
    let base := h.fld (NVM_CNT_VALUE c) - 1
    let h := h.submit 0x6001 c (toBytes 16 base) .counter
    { h with nvm := { h.nvm with cells := Tab.put h.nvm.cells c 1 } }

/-- The copy of a code sector has committed: the sector's erase begins (R517). -/
def Hw.refreshCopied (h : Hw) : Hw :=
  match h.nvm.refresh with
  | some (k, .copying) => { h with nvm := { h.nvm with refresh := some (k, .erasing), erase := some (.code k) } }
  | _ => h

/-- The group of a plane commits, or its program verify fails and the sector is retired (R496, R518). -/
def groupCommit (plane : Nat) (verified : Bool) (h : Hw) : Hw :=
  let h := h.place
  let g := Tab.getD h.nvm.open_ plane []
  if g = [] then h
  else if !verified then
    match h.nvm.sectorFor plane ((g.map NvmReq.lines).sum + 1) with
    | some r => h.verifyFail r
    | none => h
  else
    match h.commitGroup plane false g with
    | none => h
    | some h =>
      let h := { h with nvm := { h.nvm with open_ := Tab.del h.nvm.open_ plane } }
      let h := g.foldl (fun h r => h.reqDone r) h.txSettle
      let copied := g.any fun r => r.purpose == .refresh
      let left := (h.nvm.reqs ++ (h.nvm.open_.map (·.2)).flatten).any fun r => r.purpose == .refresh
      (if copied && !left then h.refreshCopied else h).place

/-! ## Reads (R505, R506) -/

def nvmRead (h : Hw) : Hw :=
  if h.flag NVM_RSTAT_BUSY then h
  else
    let p := partOf (h.fld NVM_RTYPE)
    if p = 8 ∨ p = 5 then
      let q : NvmRead := ⟨h.fld NVM_RADDR, h.fld NVM_RTYPE, h.fld NVM_RKEY⟩
      ({ h with nvm := { h.nvm with read := some q } } : Hw).setFlag NVM_RSTAT_BUSY true
    else h.setFld NVM_RSTAT_RESULT 3

/-- The live version turns out lost: it is counted, raises E171 and is recorded (R506). -/
def Hw.recLost (h : Hw) (typ key : Nat) (r : NvmRec) : Hw :=
  let secs := Tab.mapVal h.nvm.sectors fun _ s => { s with groups := s.groups.map fun g =>
    { g with recs := g.recs.map fun q => if q = r then { q with lost := true } else q } }
  let h := ({ h with nvm := { h.nvm with sectors := secs } } : Hw).countS NVM_LOSTCNT_COUNT NVM_LOSTCNT_SAT 175 1
  (h.raise 171).record 0x070 24 0 (typ + key * 2 ^ 16)

/-- The newest version of a record whose lines decode. -/
def Nvm.readable (n : Nvm) (typ key : Nat) : Option NvmRec :=
  newest (n.committed.filter fun r => r.typ == typ && r.key == key && !r.lost)

/-- A read ends (R505): `lost` when the live version does not decode. -/
def nvmReadDone (lost : Bool) (s : State) : State :=
  match s.hw.nvm.read with
  | none => s
  | some q =>
    let h := { s.hw with nvm := { s.hw.nvm with read := none } }
    let h := h.setFlag NVM_RSTAT_BUSY false
    let had := (h.nvm.live q.typ q.key).isSome
    let h := match h.nvm.live q.typ q.key with
      | some r => if lost && !r.lost then h.recLost q.typ q.key r else h
      | none => h
    match h.nvm.readable q.typ q.key with
    | none => { s with hw := h.setFld NVM_RSTAT_RESULT (if had then 2 else 1) }
    | some r =>
      if r.payload = [] then { s with hw := h.setFld NVM_RSTAT_RESULT 1 }
      else
        match h.writeAs 24 0 q.addr r.payload.length with
        | some _ => { s with hw := (h.noteRefused 24 0 q.addr r.payload.length .write).setFld NVM_RSTAT_RESULT 3 }
        | none =>
          let h := ((h.setFld NVM_RSTAT_RESULT 0).setFld NVM_RSTAT_RLEN r.payload.length).setFld NVM_RSEQ r.seq
          ({ s with hw := h } : State).blockWrite q.addr r.payload

/-! ## Compaction (R511-R516) -/

/-- The sector to compact next and why: one the Keeper named or whose verify failed, else by space, else by wear (R511, R515).
COMPEN stops the compaction by space alone. -/
def Hw.compactNext (h : Hw) : Option (Nat × Nat) :=
  let n := h.nvm
  let full := n.service.filter fun r => (n.sector r).full && !(n.sector r).obsolete
  match n.want.filter fun w => !n.retired.contains w.1 with
  | w :: _ => some w
  | [] =>
    if h.flag NVM_CTRL_COMPEN && decide (n.freeSectors.length < 20) then
      (leastBy (fun r => ((n.liveOf r).map fun q => 16 * q.lines).sum) full).map fun r => (r, 0)
    else if h.fld NVM_ECMAX > h.fld NVM_ECMIN + 2000 then (leastBy (fun r => (n.sector r).ec) full).map fun r => (r, 2)
    else none

/-- The destination: the FREE sector with the lowest EC in the plane with the most FREE sectors, of which it leaves at least 2
(R510, R511). -/
def Nvm.compactDest (n : Nvm) (src : Nat) : Option Nat :=
  match mostBy (fun p => (n.freeOf p).length) [0, 1, 2, 3] with
  | some p => if 3 ≤ (n.freeOf p).length then leastBy (fun r => (n.sector r).ec) ((n.freeOf p).filter fun r => r != src) else none
  | none => none

def compactionStart (h : Hw) : Hw :=
  if h.sys.down.isSome then h
  else match h.nvm.comp, h.compactNext with
  | none, some (s, reason) =>
    match h.nvm.compactDest s with
    | none => h
    | some d =>
      let n := h.nvm.setSector d { h.nvm.sector d with dest := some ⟨s, reason, (h.nvm.sector s).ec⟩ }
      let n := { n with comp := some ⟨s, d, reason, 0⟩, want := n.want.filter fun w => w.1 != s }
      ({ h with nvm := n } : Hw).nvmShow.setFlag NVM_STAT_COMPACT true
  | _, _ => h

/-- Line at which each record of a sector begins, with the record (R491, R495). -/
def recStarts : Nat → List NvmGroup → List (Nat × NvmRec)
  | _, [] => []
  | l, g :: gs =>
    let starts := g.recs.foldl (fun (a : Nat × List (Nat × NvmRec)) r => (a.1 + r.lines, a.2 ++ [(a.1, r)])) (l, [])
    (if g.cut then [] else starts.2) ++ recStarts (l + g.lines) gs

/-- A tombstone that no other sector needs any more: none holds an older version of its key (R494). -/
def Nvm.spent (n : Nvm) (src : Nat) (q : NvmRec) : Bool :=
  q.payload.isEmpty && (List.range 256).all fun r =>
    r == src || (n.sector r).recs.all fun x => !(x.typ == q.typ && x.key == q.key && seqNewer q.seq x.seq)

/-- A copied record joins the last COMPACT group where it fits (R495), else begins one. -/
def addCompact (gs : List NvmGroup) (q : NvmRec) : List NvmGroup :=
  match gs.getLast? with
  | some g =>
    if g.compact && decide (g.lines + q.lines ≤ 256) then gs.dropLast ++ [{ g with recs := g.recs ++ [q] }]
    else gs ++ [⟨false, true, 0, false, 0, [q]⟩]
  | none => [⟨false, true, 0, false, 0, [q]⟩]

/-- A compaction has ended: COMPACT falls, and a refresh raises E174 (R516). -/
def Hw.compactionEnd (h : Hw) (c : Compaction) : Hw :=
  let h := ({ h with nvm := { h.nvm with comp := none } } : Hw).setFlag NVM_STAT_COMPACT false
  if c.reason = 1 then h.raise 174 else h

/-- One source page is copied: the live records that begin in it go to the destination in COMPACT groups, keeping SEQ. After
the 32nd page COPIED and OBSOLETE are programmed. Then counter 2 is counted and the erase of the source begins (R509, R512); a
source whose verify failed is retired instead (R518). -/
def compactionPage (h : Hw) : Hw :=
  match h.nvm.comp with
  | none => h
  | some c =>
    if h.nvm.erase.isSome then h
    else
      let n := h.nvm
      let live := (n.liveOf c.src).filter fun q => !n.spent c.src q
      let page := ((recStarts 8 (n.sector c.src).groups).filter fun x => x.1 / 32 == c.page && live.contains x.2).map (·.2)
      let d := n.sector c.dst
      let n := n.setSector c.dst { d with groups := page.foldl addCompact d.groups }
      if c.page < 31 then { h with nvm := { n with comp := some { c with page := c.page + 1 } } }
      else
        let n := n.setSector c.dst { n.sector c.dst with copied := true }
        let n := n.setSector c.src { n.sector c.src with obsolete := true }
        if n.bad.contains c.src then
          (({ h with nvm := { n with bad := n.bad.filter fun r => r != c.src } } : Hw).compactionEnd c).retireSector c.src
        else ({ h with nvm := { n with erase := some (.store c.src) } } : Hw).spread 2 |>.nvmShow

/-- An erase ends: line 0 of a store sector takes its EC and ESQ (R509, R512), a code sector is ready to be programmed
back (R517); a failed verify retires a store sector (R518). -/
def sectorEraseDone (verified : Bool) (h : Hw) : Hw :=
  match h.nvm.erase with
  | none => h
  | some (.code k) =>
    { h with nvm := { h.nvm with erase := none, refresh := some (k, .programming) } }
  | some (.store r) =>
    let h := { h with nvm := { h.nvm with erase := none } }
    let ec := (h.nvm.sector r).ec + 1
    let hadMax := h.fld NVM_ECMAX
    let h := ({ h with nvm := h.nvm.setSector r (Sector.erased ec (h.fld (NVM_CNT_VALUE 2))) } : Hw)
    let h := if verified then h.nvmShow else h.retireSector r
    let h := if hadMax < 90000 ∧ 90000 ≤ h.fld NVM_ECMAX then h.raise 172 else h
    match h.nvm.comp with
    | some c =>
      if c.src = r then h.compactionEnd c else h
    | none => h

def compactRequest (sector : Nat) (refresh : Bool) (h : Hw) : Hw :=
  let h := (h.setFld NVM_CCMD_SECTOR sector).setFlag NVM_CCMD_REFRESH refresh
  { h with nvm := { h.nvm with want := h.nvm.want ++ [(sector, b2n refresh)] } }

/-! ## Code refresh (R517) -/

/-- Bytes of a code sector. -/
def Nvm.codeBytes (n : Nvm) (k off len : Nat) : List Byte := Tab.range n.code (k * 16384 + off) len 0xFF#8

/-- The refresh of a code sector begins with its copy in 5 records; an UNCORRECTABLE line stops it (R517). -/
def codeRefresh (k : Nat) (bad : Bool) (h : Hw) : Hw :=
  let h := h.setFld NVM_CREF_CSECTOR k
  if 768 ≤ k ∨ h.nvm.refresh.isSome = true ∨ h.sys.down.isSome = true then h
  else if bad then (h.setFlag NVM_STAT_CREFRESH false).raise 174
  else
    let x := h.nvm.txNext
    let rs := (List.range 5).map fun i =>
      (⟨0x0007, i, toBytes 4 k ++ h.nvm.codeBytes k (i * 3277) (min 3277 (16384 - i * 3277)), x, i == 4, .refresh⟩ : NvmReq)
    let n := { h.nvm with reqs := h.nvm.reqs ++ rs, txNext := x + 1, txPart := x :: h.nvm.txPart, refresh := some (k, .copying) }
    (({ h with nvm := n } : Hw).setFlag NVM_STAT_CREFRESH true).place

/-- The sector has been programmed back: the copy is deleted by tombstones and E174 is raised (R516, R517). -/
def codeSectorProgrammed (h : Hw) : Hw :=
  match h.nvm.refresh with
  | some (_, .programming) =>
    let h := { h with nvm := { h.nvm with refresh := none } }
    let h := (List.range 5).foldl (fun h i => h.submit 0x0007 i [] .system) h
    ((h.setFlag NVM_STAT_CREFRESH false).raise 174).place
  | _ => h

/-! ## Spread counters (R520-R522) -/

def cntinc (c : Nat) (h : Hw) : Hw := if 8 ≤ c ∧ c ≤ 11 then h.spread c else h

/-! ## Meanings -/

def execNvmWrite (src : Src) (len : BitVec 13) (txn ie : Bool) (s : State) : Host.Outcome State Fault Refusal :=
  .next (s.onHw fun h => h.onlyD0 src (nvmAddr 0x18) (nvmWrite s.mem len.toNat txn ie))
def execGroupCommit (plane : Fin 4) (verified : Bool) (s : State) : Host.Outcome State Fault Refusal :=
  .next (s.onHw (groupCommit plane.val verified))
def execNvmRead (src : Src) (s : State) : Host.Outcome State Fault Refusal :=
  .next (s.onHw fun h => h.onlyD0 src (nvmAddr 0x48) nvmRead)
def execNvmReadDone (lost : Bool) (s : State) : Host.Outcome State Fault Refusal := .next (nvmReadDone lost s)
def execCompactionStart (s : State) : Host.Outcome State Fault Refusal := .next (s.onHw compactionStart)
def execCompactionPage (s : State) : Host.Outcome State Fault Refusal := .next (s.onHw compactionPage)
def execSectorEraseDone (verified : Bool) (s : State) : Host.Outcome State Fault Refusal :=
  .next (s.onHw (sectorEraseDone verified))
def execCompactRequest (src : Src) (sector : BitVec 8) (refresh : Bool) (s : State) : Host.Outcome State Fault Refusal :=
  .next (s.onHw fun h => if isKeeper src then compactRequest sector.toNat refresh h else h.refuseReg src (nvmAddr 0x70))
def execCodeRefresh (src : Src) (sector : BitVec 10) (bad : Bool) (s : State) : Host.Outcome State Fault Refusal :=
  .next (s.onHw fun h => if isKeeper src then codeRefresh sector.toNat bad h else h.refuseReg src (nvmAddr 0x74))
def execCntinc (src : Src) (cnt : BitVec 4) (s : State) : Host.Outcome State Fault Refusal :=
  .next (s.onHw fun h => h.onlyD0 src (nvmAddr 0x78) (cntinc cnt.toNat))
def execCodeSectorProgrammed (s : State) : Host.Outcome State Fault Refusal := .next (s.onHw codeSectorProgrammed)

end Sys2Proof.Machine
end

