-- ==== Sys2Proof/Machine/Keys.lean ====
section
/-! DEFINITION. Keys and crypto engines (14): modes of the key unit, the ledger and its commands, key registers and jobs,
slots, tamper. -/

namespace Sys2Proof.Machine

def keyAddr (off : Nat) : Nat := 0x302A0000 + off

/-- Modes of KEY.CTRL.MODE (R528). -/
def keyStart : Nat := 0
def keyRun : Nat := 1
def keyTest : Nat := 2
def keyRecovery : Nat := 3

/-- Kinds of node. -/
def kindDerived : Nat := 1
def kindPubkey : Nat := 2
def kindImported : Nat := 3

/-- States of KEY.Kn.STATE. -/
def nodeFree : Nat := 0
def nodeValid : Nat := 1
def nodeOrphan : Nat := 2
def nodeExhausted : Nat := 3

def Hw.keyMode (h : Hw) : Nat := h.fld KEY_CTRL_MODE

def Hw.setKey (h : Hw) (f : KeyUnit → KeyUnit) : Hw := { h with key := f h.key }

/-! ## Nodes -/

def Hw.nodeState (h : Hw) (n : Nat) : Nat := h.fld (KEY_K_W0_STATE n)
def Hw.nodeParent (h : Hw) (n : Nat) : Nat := h.fld (KEY_K_W0_PARENT n)
def Hw.nodeMask (h : Hw) (n i : Nat) : Bool := h.fldBit (KEY_K_W0_MASK n) i
/-- FLAGS of a node: EXPR, USE, EXP in bits 0, 1, 2 (R555). -/
def Hw.nodeFlag (h : Hw) (n i : Nat) : Bool := h.fldBit (KEY_K_W0_FLAGS n) i

/-- Node `n` lies in the subtree of `a`, `a` included; no depth exceeds 6 (R537). -/
def Hw.under (h : Hw) (a : Nat) : Nat → Nat → Bool
  | 0, n => n == a
  | d + 1, n => n == a || (n != 0 && h.under a d (h.nodeParent n))

/-- Created nodes of the subtree of `n`, `n` itself left out. -/
def Hw.descendants (h : Hw) (n : Nat) : List Nat :=
  (List.range 1024).filter fun m => m != n && h.nodeState m != nodeFree && h.under n 7 m

/-- Value of a node: its secret, or the hash of a PUBKEY node; nothing once zeroised. -/
def Hw.nodeVal (h : Hw) (n : Nat) : List Byte := Tab.getD h.key.val n []
def Hw.setNodeVal (h : Hw) (n : Nat) (v : List Byte) : Hw := h.setKey fun k => { k with val := Tab.put k.val n v }
def Hw.zeroNode (h : Hw) (n : Nat) : Hw := h.setKey fun k => { k with val := Tab.del k.val n }

/-- A node becomes free: its W0 register and COUNT read 0; GEN stays (log entry 143, DESIGN CHOICE). -/
def Hw.freeNode (h : Hw) (n : Nat) : Hw :=
  let h := ((h.setFld (KEY_K_W0_STATE n) nodeFree).setFld (KEY_K_W0_KIND n) 0).setFld (KEY_K_W0_PARENT n) 0
  let h := ((h.setFld (KEY_K_W0_DEPTH n) 0).setFld (KEY_K_W0_MASK n) 0).setFld (KEY_K_W0_DOM n) 0
  ((h.setFld (KEY_K_W0_FLAGS n) 0).setFld (KEY_K_W1_COUNT n) 0).zeroNode n

/-- The fields of the KEY block from offset `lo` up to `hi` take their reset values. -/
def Hw.keyClear (h : Hw) (lo hi : Nat) : Hw :=
  { h with flds := Tab.keep h.flds fun k _ => decide (k < keyAddr lo * 64) || decide (keyAddr hi * 64 ≤ k) }

/-- Big-endian bytes of a number. -/
def bigBytes (n v : Nat) : List Byte := (toBytes n v).reverse

/-- The ASCII string "ZF8840-KEY" (R536). -/
def kdfLabel : List Byte := [0x5A#8, 0x46#8, 0x38#8, 0x38#8, 0x34#8, 0x30#8, 0x2D#8, 0x4B#8, 0x45#8, 0x59#8]

/-- The part derives a DERIVED node's secret from its parent's (R536); with no parent secret there is none. -/
def Hw.derive (h : Hw) (n : Nat) : Hw :=
  match Tab.get? h.key.val (h.nodeParent n) with
  | none => h.zeroNode n
  | some p =>
    let ctx := bigBytes 2 n ++ bigBytes 4 (h.fld (KEY_K_W1_GEN n)) ++ bigBytes 4 (Tab.getD h.key.pgen n 0)
      ++ bigBytes 1 (h.fld (KEY_K_W0_MASK n))
    h.setNodeVal n (Config.kdf p kdfLabel ctx (if h.nodeMask n 5 then 448 else 256))

/-- Writes a node's attributes: VALID, with its parent's present GEN as PGEN (R534 table, R537). -/
def Hw.formNode (h : Hw) (n parent kind mask dom flags count : Nat) : Hw :=
  let h := (h.setFld (KEY_K_W0_STATE n) nodeValid).setFld (KEY_K_W0_KIND n) kind
  let h := (h.setFld (KEY_K_W0_PARENT n) parent).setFld (KEY_K_W0_DEPTH n) (h.fld (KEY_K_W0_DEPTH parent) + 1)
  let h := ((h.setFld (KEY_K_W0_MASK n) mask).setFld (KEY_K_W0_DOM n) dom).setFld (KEY_K_W0_FLAGS n) flags
  let h := h.setFld (KEY_K_W1_COUNT n) count
  h.setKey fun k => { k with
    pgen := Tab.put k.pgen n (h.fld (KEY_K_W1_GEN parent)), floor := Tab.put k.floor n (count - 65536) }

/-- A node as its record holds it. -/
def Hw.nodeSave (h : Hw) (n : Nat) : NodeSave where
  kind := h.fld (KEY_K_W0_KIND n)
  parent := h.nodeParent n
  depth := h.fld (KEY_K_W0_DEPTH n)
  mask := h.fld (KEY_K_W0_MASK n)
  dom := h.fld (KEY_K_W0_DOM n)
  flags := h.fld (KEY_K_W0_FLAGS n)
  gen := h.fld (KEY_K_W1_GEN n)
  pgen := Tab.getD h.key.pgen n 0
  floor := Tab.getD h.key.floor n 0
  val := if h.fld (KEY_K_W0_KIND n) = kindDerived then [] else h.nodeVal n

/-- Payload length of a node record by kind: 48, 80 and 96 bytes with header and commit line. -/
def nodeLen (kind : Nat) : Nat := if kind = kindPubkey then 48 else if kind = kindImported then 64 else 16

/-- A record whose bytes the spec does not lay out is submitted with free bytes (log entry 14, DESIGN CHOICE). -/
def Hw.submitFree (h : Hw) (typ key len : Nat) (p : Purpose) : Hw :=
  (h.submit typ key (toBytes len (h.freeVal (8 * len))) p).useFree

/-- The node's record is written, and what it holds is kept as committed. -/
def Hw.saveNode (h : Hw) (n : Nat) : Hw :=
  let h := h.setKey fun k => { k with saved := Tab.put k.saved n (h.nodeSave n) }
  h.submitFree 0x1004 n (nodeLen (h.fld (KEY_K_W0_KIND n))) .system

/-! ## Ledger commands (R539-R541) -/

/-- Reasons of R540. -/
inductive KeyReason where
  | format | mode | domain | depth | exist | absent | parent | protect | quota | busy | store | auth | tamper
  deriving DecidableEq, Repr

def KeyReason.code : KeyReason → Nat
  | .format => 1 | .mode => 2 | .domain => 3 | .depth => 4 | .exist => 5 | .absent => 6 | .parent => 7 | .protect => 8
  | .quota => 9 | .busy => 10 | .store => 11 | .auth => 12 | .tamper => 13

/-- A refused command (R540). -/
def keyRefuse (r : KeyReason) (h : Hw) : Hw :=
  let h := (h.setFlag KEY_STAT_REFUSED true).setFld KEY_CRES_VERDICT 2
  ((h.setFld KEY_CRES_REASON r.code).countS KEY_REFCNT_COUNT KEY_REFCNT_SAT 183 1).raise 182

/-- A command ends well. -/
def Hw.keyDone (h : Hw) : Hw :=
  (((h.setFlag KEY_STAT_BUSY false).setFld KEY_CRES_VERDICT 1).setFld KEY_CRES_REASON 0).setKey fun k => { k with cmd := none }

/-- A command in progress ends refused. -/
def Hw.keyFail (h : Hw) (r : KeyReason) : Hw :=
  keyRefuse r ((h.setFlag KEY_STAT_BUSY false).setKey fun k => { k with cmd := none })

/-- The domains that may change a node (R539): D0 any node from `low` on, a tenant K528-K1023 of its own subtree. -/
def Hw.mayChange (h : Hw) (dom low n : Nat) : Bool :=
  if dom = 0 then decide (low ≤ n) else decide (528 ≤ n) && h.under (16 + dom) 7 n

/-- The first reason of a list of checks that holds: reasons are checked in the order of their numbers (log entry 15, DESIGN CHOICE). -/
def firstReason : List (Bool × KeyReason) → Option KeyReason
  | [] => none
  | (b, r) :: t => if b then some r else firstReason t

/-- The nodes K528-K1023 that lie in the subtree of a tenant domain, of which it holds at most 32 (R539). -/
def Hw.tenantNodes (h : Hw) (d : Nat) : Nat :=
  ((h.descendants (16 + d)).filter fun n => decide (528 ≤ n)).length

/-- CARG as a command reads it, with node, parent and address. -/
def Hw.cargCmd (h : Hw) (op node parent : Nat) : KeyCmd where
  op := op
  node := node
  parent := parent
  mask := h.fld KEY_CARG_MASK
  kind := h.fld KEY_CARG_KIND
  flags := h.fld KEY_CARG_EXPR + 2 * h.fld KEY_CARG_USE + 4 * h.fld KEY_CARG_EXP
  dom := h.fld KEY_CARG_DOM
  count := h.fld KEY_CARG_COUNT
  addr := h.fld KEY_CADDR_ADDR
  val := []
  tx := 0

/-- The nodes whose records a command changes. -/
def Hw.changed (h : Hw) (c : KeyCmd) : List Nat :=
  if c.op = 2 ∨ c.op = 4 then c.node :: h.descendants c.node else [c.node]

/-- A node that lives in key RAM only (R538). -/
def Hw.isExpr (h : Hw) (c : KeyCmd) (n : Nat) : Bool :=
  if c.op = 1 then c.flags.testBit 0 else h.nodeFlag n 0

/-- What the command changes in key RAM (R536, R540, R544). -/
def Hw.applyLedger (h : Hw) (c : KeyCmd) : Hw :=
  if c.op = 1 then
    let h := h.formNode c.node c.parent c.kind c.mask c.dom c.flags (if c.flags.testBit 1 then c.count else 0)
    if c.kind = kindDerived then h.derive c.node else h.setNodeVal c.node c.val
  else if c.op = 3 then
    let h := (h.setFld (KEY_K_W1_COUNT c.node) c.count).setKey fun k => { k with floor := Tab.put k.floor c.node (c.count - 65536) }
    if h.nodeState c.node = nodeExhausted then h.setFld (KEY_K_W0_STATE c.node) nodeValid else h
  else
    let ds := h.descendants c.node
    let h := h.countW (KEY_K_W1_GEN c.node) 1
    let h := if h.fld (KEY_K_W0_KIND c.node) = kindDerived ∧ h.nodeState c.node ≠ nodeOrphan then h.derive c.node else h
    let h := ds.foldl (fun h n => (h.setFld (KEY_K_W0_STATE n) nodeOrphan).zeroNode n) h
    if c.op = 4 then (c.node :: ds).foldl (fun h n => h.freeNode n) h else h

/-- A command that passed its checks: an update of EXPR nodes alone is immediate, any other submits its PEND records as
one transaction (R541 step 1) and stays in progress. -/
def Hw.ledgerStart (h : Hw) (c : KeyCmd) : Hw :=
  let ns := (h.changed c).filter fun n => !h.isExpr c n
  let h := ((h.setFld KEY_CRES_VERDICT 0).setFld KEY_CRES_REASON 0)
  if ns = [] then (h.applyLedger c).keyDone
  else
    let x := h.nvm.txNext
    let h := { h with nvm := { h.nvm with txNext := x + 1, txPart := x :: h.nvm.txPart } }
    let n := ns.length
    let h := ns.zipIdx.foldl (fun h m =>
      let len := nodeLen (if c.op = 1 then c.kind else h.fld (KEY_K_W0_KIND m.1))
      let r : NvmReq := ⟨0x1002, m.1, toBytes len (h.freeVal (8 * len)), x, m.2 + 1 == n, .ledger⟩
      ({ h with nvm := { h.nvm with reqs := h.nvm.reqs ++ [r] } } : Hw).useFree) h
    ((h.setFlag KEY_STAT_BUSY true).setKey fun k => { k with cmd := some { c with tx := x } }).place

/-- The checks every ledger command shares: reasons 2, 10 and 13. -/
def Hw.inRecovery (h : Hw) : Bool := h.keyMode == keyRecovery

/-- The value a PUBKEY or IMPORTED node takes (ledger command table): the 32-byte hash at CADDR, the value of a valid slot
in START, else the 40-byte blob at CADDR unwrapped under the EXP key register. -/
def Hw.createVal (h : Hw) (mem : List Host.Cell) (c : KeyCmd) : Option (List Byte) :=
  if c.kind = kindPubkey then (h.readAs mem 23 0 c.addr 32).toOption
  else if c.kind = kindImported then
    let slot := h.fld KEY_CARG_SLOT
    if h.keyMode = keyStart ∧ h.flag (KEY_S_ATTR_VALID slot) = true then some (Tab.getD h.key.slot slot [])
    else
      match (h.readAs mem 23 0 c.addr 40).toOption, Tab.get? h.key.reg 7 with
      | some b, some r => Config.keyUnwrap r.secret b
      | _, _ => none
  else some []

/-- A refused read of the bytes a CREATE takes is an access violation of M23 (R377, R378). -/
def Hw.noteCreate (h : Hw) (c : KeyCmd) : Hw :=
  if c.kind = kindPubkey then h.noteRefused 23 0 c.addr 32 .read
  else if c.kind = kindImported ∧ !(h.keyMode == keyStart && h.flag (KEY_S_ATTR_VALID (h.fld KEY_CARG_SLOT))) then
    h.noteRefused 23 0 c.addr 40 .read
  else h

/-- A fixed role of K272-K527 (R535): PUBKEY, parent K16 + d, mask ECC, domain Dd. -/
def roleOk (c : KeyCmd) : Bool :=
  !(decide (272 ≤ c.node) && decide (c.node < 528)) ||
    (c.kind == kindPubkey && c.parent == c.node - 256 && c.mask == 32 && c.dom == c.node - 272)

/-- CREATE (R535-R540). -/
def keyCreate (mem : List Host.Cell) (src : Src) (node parent : Nat) (h : Hw) : Hw :=
  let c := h.cargCmd 1 node parent
  let d := src.dom.toNat
  let holder := if d = 0 then c.dom else d
  let val := h.createVal mem c
  let c := { c with val := val.getD [] }
  match firstReason [
      (c.kind == 0 || !roleOk c || (c.flags.testBit 0 && c.flags.testBit 1) || (c.flags.testBit 1 && c.count == 0), .format),
      (h.inRecovery, .mode),
      ((if d = 0 then false else !(decide (528 ≤ node) && h.under (16 + d) 7 parent))
        || (c.dom != 0 && !h.under (16 + c.dom) 7 parent), .domain),
      (decide (6 ≤ h.fld (KEY_K_W0_DEPTH parent)), .depth),
      (h.nodeState node != nodeFree, .exist),
      (h.nodeState parent == nodeFree || h.nodeState parent == nodeOrphan || !h.nodeMask parent 6, .parent),
      (decide (node < 272), .protect),
      ((holder != 0 && decide (528 ≤ node ∧ 32 ≤ h.tenantNodes holder)) || (!c.flags.testBit 0 && !h.quotaOk 0x1004 node (nodeLen c.kind)), .quota),
      (h.flag KEY_STAT_BUSY, .busy),
      (val.isNone, .auth),
      (h.flag KEY_STAT_TAMPER, .tamper)] with
  | some .auth => keyRefuse .auth (h.noteCreate c)
  | some r => keyRefuse r h
  | none => h.ledgerStart c

/-- INVALIDATE, UPDATE and DELETE of a node (R539, R540): the lowest node D0 may name, and the lowest not protected. -/
def keyChange (op low : Nat) (src : Src) (node : Nat) (h : Hw) : Hw :=
  let c := h.cargCmd op node 0
  match firstReason [
      (op == 3 && (c.count == 0 || (h.nodeState node != nodeFree && !h.nodeFlag node 1)), .format),
      (h.inRecovery, .mode),
      (src.dom != 0#8 && !h.mayChange src.dom.toNat low node, .domain),
      (h.nodeState node == nodeFree, .absent),
      (decide (node < low), .protect),
      (h.flag KEY_STAT_BUSY, .busy),
      (h.flag KEY_STAT_TAMPER, .tamper)] with
  | some r => keyRefuse r h
  | none => h.ledgerStart c

/-- REENROL (R533, R555): M4 alone. -/
def keyReenrol (src : Src) (h : Hw) : Hw :=
  match firstReason [(h.inRecovery, .mode), (!isKeeper src, .domain), (h.flag KEY_STAT_BUSY, .busy),
      (h.flag KEY_STAT_TAMPER, .tamper)] with
  | some r => keyRefuse r h
  | none => (h.setKey fun k => { k with reenrol := true }).keyDone

/-- The command is in progress and ends at a KEY_COMMAND_END. -/
def Hw.keyBusy (h : Hw) (c : KeyCmd) : Hw :=
  (((h.setFld KEY_CRES_VERDICT 0).setFld KEY_CRES_REASON 0).setFlag KEY_STAT_BUSY true).setKey fun k => { k with cmd := some c }

/-- The nonce of R553 is replaced. -/
def Hw.newNonce (h : Hw) : Hw := (h.setFld KEY_NONCE (h.freeVal 64)).useFree

/-- RECOVER (R553): in RECOVERY alone, refused while TAMPER_N is low; every attempt replaces the nonce, and the blob's is
checked against the nonce that stood before. -/
def keyRecover (src : Src) (tamperLow : Bool) (h : Hw) : Hw :=
  match firstReason [(!h.inRecovery, .mode), (!isD0 src, .domain), (h.flag KEY_STAT_BUSY, .busy)] with
  | some r => keyRefuse r h
  | none =>
    if tamperLow then keyRefuse .tamper h.newNonce
    else h.keyBusy (h.cargCmd 6 0 0)

/-- ANCHOR: START, D0, debug port enabled, and only while the anchor reads 0. -/
def keyAnchor (src : Src) (h : Hw) : Hw :=
  match firstReason [(h.keyMode != keyStart || !h.debug, .mode), (!isD0 src, .domain), (h.flag KEY_STAT_BUSY, .busy),
      ((List.range 8).any fun i => h.fld (KEY_ANCHOR_HASH i) != 0, .auth), (h.flag KEY_STAT_TAMPER, .tamper)] with
  | some r => keyRefuse r h
  | none => h.keyBusy (h.cargCmd 7 0 0)

/-- PEND records of the update still wait. -/
def Hw.pendWaits (h : Hw) : Bool :=
  (h.nvm.reqs ++ (h.nvm.open_.map (·.2)).flatten).any fun r => r.purpose == .ledger

/-- Step 2 of R541 commits: the change takes effect, LEDGERU advances, E177; then step 3's records. When a record of the
update failed (`ok`, a PEND record the store refused, or no sector for LEDGER_COMMIT), the command ends refused with STORE and the
PEND records get tombstones. -/
def ledgerCommit (ok : Bool) (h : Hw) : Hw :=
  match h.key.cmd with
  | none => h
  | some c =>
    if c.op = 6 ∨ c.op = 7 then h
    else
      let ns := (h.changed c).filter fun n => !h.isExpr c n
      let tombs (h : Hw) : Hw := ns.foldl (fun h n => h.submit 0x1002 n [] .system) h
      let dead := !ok || h.sys.down.isSome || h.nvm.txDead.contains c.tx
      if !dead && h.pendWaits then h
      else
      let u := (h.fld KEY_LEDGERU_U + 1) % 2 ^ 32
      let (hc, done) := if dead then (h, false) else h.commitOk 0x1003 0 (toBytes 4 u)
      if !done then
        let drop (l : List NvmReq) : List NvmReq := l.filter fun r => r.purpose != .ledger
        let n := { h.nvm with reqs := drop h.nvm.reqs, open_ := Tab.mapVal h.nvm.open_ fun _ g => drop g }
        (tombs ({ h with nvm := n } : Hw).txSettle).keyFail .store
      else
        let h := (hc.setFld KEY_LEDGERU_U u).applyLedger c
        let h := ns.foldl (fun h n =>
          if h.nodeState n = nodeFree then
            (h.submit 0x1004 n [] .system).setKey fun k => { k with saved := Tab.del k.saved n }
          else h.saveNode n) h
        (tombs h).keyDone.place.raise 177

/-! ## Key registers (R544) -/

/-- A refused SEL or slot write raises E182. -/
def Hw.selRefuse (h : Hw) : Hw := h.raise 182

/-- Loads engine `e`'s key register with node `n`. -/
def Hw.loadKey (h : Hw) (e n : Nat) : Hw :=
  let r : KeyReg := ⟨n, h.fld (KEY_K_W1_GEN n), h.fld (KEY_K_W0_DOM n), h.nodeVal n⟩
  let h := (h.setFld (KEY_ENG_SEL_NODE e) n).setFlag (KEY_ENG_STAT_LOADED e) true
  h.setKey fun k => { k with reg := Tab.put k.reg e r }

/-- Clears engine `e`'s key register. -/
def Hw.clearKey (h : Hw) (e : Nat) : Hw :=
  (h.setFlag (KEY_ENG_STAT_LOADED e) false).setKey fun k => { k with reg := Tab.del k.reg e }

/-- A write of ENGe_SEL (R544). ECC and KDF have no key register; RSC and LOG are the part's own. While the Watch runs only
D0 loads ENG2 (R581). -/
def engSel (src : Src) (e n : Nat) (h : Hw) : Hw :=
  let own := (src.dom.toNat == h.fld (KEY_K_W0_DOM n) && !(e == 2 && h.flag WCH_CTRL_EN)) || isD0 src
  if (h.keyMode = keyStart ∨ h.keyMode = keyRun) ∧ h.nodeState n = nodeValid ∧ h.nodeMask n e = true ∧ own = true
      ∧ (e = 0 ∨ e = 2 ∨ e = 3 ∨ e = 7) then h.loadKey e n
  else h.selRefuse

/-! ## Jobs (R545-R550) -/

def resOk : Nat := 0
def resOrphaned : Nat := 1
def resExhausted : Nat := 2
def resNoKey : Nat := 3
def resDomain : Nat := 4
def resAccess : Nat := 5
def resAuthFail : Nat := 6
def resFormat : Nat := 7
def resBusy : Nat := 8
def resTamper : Nat := 9

/-- A job ends with its result; ONCE clears VALID of the slot it named (R551). -/
def Hw.jobEnd (h : Hw) (e res : Nat) (slot : Option Nat) : Hw :=
  let h := ((h.setFld (KEY_ENG_STAT_RESULT e) res).setFlag (KEY_ENG_STAT_RUN e) false).countW (KEY_ENG_DONECNT_DONE e) 1
  let h := h.setKey fun k => { k with job := Tab.del k.job e }
  match slot with
  | some n => if h.flag (KEY_S_ATTR_ONCE n) then h.setFlag (KEY_S_ATTR_VALID n) false else h
  | none => h

/-- The descriptor in 64 bytes (R545), none when a reserved field is not 0 or a length is out of range. -/
def keyDesc (b : List Byte) (e : Nat) : Option KeyDesc :=
  let w (i : Nat) : Nat := ofBytes ((b.drop (8 * i)).take 8)
  let w0 := w 0
  let d : KeyDesc := ⟨bits w0 0 4, bits w0 4 1, if bitOf w0 11 then some (bits w0 5 6) else none, bits w0 12 10, bits w0 32 17,
    w 1, w 2, w 3, bits (w 4) 0 16, bits (w 4) 16 8, w 5, w 6⟩
  if bits w0 22 10 ≠ 0 ∨ bits w0 49 15 ≠ 0 ∨ w 7 ≠ 0 ∨ d.len = 0 ∨ 65536 < d.len ∨ 4096 < d.aadLen
      ∨ (e = 3 ∧ (d.tagLen < 4 ∨ 16 < d.tagLen) ∧ (d.op = 3 ∨ d.op = 4)) then none else some d

/-- Operations an engine takes (R543, R545); RANDOM on any engine of host jobs. -/
def opOk (e op : Nat) : Bool :=
  if e = 0 ∨ e = 2 then op == 1 || op == 2 || op == 9
  else if e = 3 then op == 3 || op == 4 || op == 9
  else if e = 5 then op == 5 || op == 6 || op == 8 || op == 9
  else if e = 7 then op == 7 || op == 9
  else false

/-- Bytes of a public key or a signature: P-256 64, P-384 96. -/
def curveLen (alg : Nat) : Nat := if alg = 0 then 64 else 96

/-- The address ranges of a job: address, length, whether it is written (R545, R546). -/
def KeyDesc.ranges (d : KeyDesc) : List (Nat × Nat × Bool) :=
  if d.op = 1 then [(d.src, d.len, false), (d.dst, d.len, true), (d.aad, d.aadLen, false), (d.iv, 12, false), (d.tag, 16, true)]
  else if d.op = 2 then
    [(d.src, d.len, false), (d.dst, d.len, true), (d.aad, d.aadLen, false), (d.iv, 12, false), (d.tag, 16, false)]
  else if d.op = 3 then [(d.src, d.len, false), (d.tag, d.tagLen, true)]
  else if d.op = 4 then [(d.src, d.len, false), (d.tag, d.tagLen, false)]
  else if d.op = 5 then [(d.src, d.len, false), (d.tag, curveLen d.alg, true)]
  else if d.op = 6 then [(d.src, d.len, false), (d.iv, curveLen d.alg, false), (d.tag, curveLen d.alg, false)]
  else if d.op = 7 then [(d.dst, 40, true)]
  else if d.op = 8 then [(d.dst, curveLen d.alg, true)]
  else [(d.dst, d.len, true)]

/-- A range passes the row of a master with a domain at each target, and lies in no target 3 or 8 (R546). -/
def Hw.rangeOk (h : Hw) (master dom : Nat) (r : Nat × Nat × Bool) : Bool :=
  let (a, len, wr) := r
  len == 0 || (pageStarts a len).all fun p =>
    (h.mapCheck master dom p (if wr then .write else .read)).isNone && (h.region p).target != 3 && (h.region p).target != 8

/-- The key of a job and why it has none (R547, R551): key bytes and the node it uses, or the result it ends with. -/
def Hw.jobKey (h : Hw) (dom e : Nat) (d : KeyDesc) : Except Nat (List Byte × Option Nat) :=
  if d.op = 9 then .ok ([], none)
  else
    match d.slot with
    | some n =>
      if h.keyMode = keyRun then .error resFormat
      else if !h.flag (KEY_S_ATTR_VALID n) || !h.fldBit (KEY_S_ATTR_MASK n) e then .error resNoKey
      else if dom ≠ 0 ∧ dom ≠ h.fld (KEY_S_ATTR_DOM n) then .error resDomain
      else .ok (Tab.getD h.key.slot n [], none)
    | none =>
      if e = 5 then
        if h.nodeState d.node = nodeFree ∨ h.nodeState d.node = nodeOrphan then .error resOrphaned
        else if h.nodeState d.node = nodeExhausted then .error resExhausted
        else if dom ≠ 0 ∧ dom ≠ h.fld (KEY_K_W0_DOM d.node) then .error resDomain
        else if !h.nodeMask d.node 5 then .error resNoKey
        else .ok (h.nodeVal d.node, some d.node)
      else
        match Tab.get? h.key.reg e with
        | none => .error resNoKey
        | some r =>
          if h.nodeState r.node = nodeFree ∨ h.nodeState r.node = nodeOrphan ∨ h.fld (KEY_K_W1_GEN r.node) ≠ r.gen then
            .error resOrphaned
          else if h.nodeState r.node = nodeExhausted then .error resExhausted
          else if dom ≠ 0 ∧ dom ≠ r.dom then .error resDomain
          else .ok (r.secret, some r.node)

/-- What R548 and R549 ask of the node an operation names: EXPORT of NODE whatever key it wraps under, the others of the node whose
key they use (log entry 195, DESIGN CHOICE). -/
def Hw.jobNodeOk (h : Hw) (d : KeyDesc) : Bool :=
  let k := h.fld (KEY_K_W0_KIND d.node)
  if d.op = 7 then h.nodeFlag d.node 2 && (k == kindDerived || k == kindImported)
    && (h.nodeState d.node == nodeValid || h.nodeState d.node == nodeExhausted)
  else if d.slot.isSome then true
  else if d.op = 8 ∨ d.op = 5 then k == kindDerived
  else if d.op = 6 then k == kindPubkey
  else true

/-- A USE node loses one use, at 0 it is EXHAUSTED and E179 is raised (R550). -/
def Hw.useOne (h : Hw) (n : Nat) : Hw :=
  if h.nodeFlag n 1 then
    let c := h.fld (KEY_K_W1_COUNT n) - 1
    let h := h.setFld (KEY_K_W1_COUNT n) c
    if c = 0 then (h.setFld (KEY_K_W0_STATE n) nodeExhausted).raise 179 else h
  else h

/-- The use would take the count below FLOOR (R550). -/
def Hw.mustWait (h : Hw) (n : Nat) : Bool :=
  h.nodeFlag n 1 && !h.nodeFlag n 0 && decide (h.fld (KEY_K_W1_COUNT n) - 1 < Tab.getD h.key.floor n 0)

/-- A job whose key is orphaned: the register is cleared, counted, E178 (R547). -/
def Hw.jobOrphaned (h : Hw) (e : Nat) (slot : Option Nat) : Hw :=
  ((h.clearKey e).countS KEY_ORPHCNT_COUNT KEY_ORPHCNT_SAT 183 1).raise 178 |>.jobEnd e resOrphaned slot

/-- GO of ENGe_JOB (R545-R550). -/
def jobSubmit (mem : List Host.Cell) (src : Src) (e : Nat) (h : Hw) : Hw :=
  if h.flag (KEY_ENG_STAT_RUN e) then h.setFld (KEY_ENG_STAT_RESULT e) resBusy
  else
    let m := src.master.val
    let dom := src.dom.toNat
    let a := h.fld (KEY_ENG_JOB e) / 64 * 64
    if !h.rangeOk m dom (a, 64, false) then h.jobEnd e resAccess none
    else
      match h.readAs mem 23 0 a 64 with
      | .error _ => (h.noteRefused 23 0 a 64 .read).jobEnd e resAccess none
      | .ok b =>
        let h := h.noteRefused 23 0 a 64 .read
        match keyDesc b e with
        | none => h.jobEnd e resFormat none
        | some d =>
          if !opOk e d.op then h.jobEnd e resFormat none
          else
            match h.jobKey dom e d with
            | .error r => if r = resOrphaned then h.jobOrphaned e d.slot else h.jobEnd e r d.slot
            | .ok (key, node) =>
              if !h.jobNodeOk d then h.jobEnd e resFormat d.slot
              else if !(d.ranges.all fun r => h.rangeOk m dom r) then h.jobEnd e resAccess d.slot
              else
                let waits := match node with
                  | some n => if h.mustWait n then some n else none
                  | none => none
                let h := match node, waits with
                  | some n, none => h.useOne n
                  | _, _ => h
                let h := match waits with
                  | some n => h.submitFree 0x1004 n (nodeLen (h.fld (KEY_K_W0_KIND n))) .system
                  | none => h
                (h.setFlag (KEY_ENG_STAT_RUN e) true).setKey fun k => { k with job := Tab.put k.job e ⟨d, key, waits⟩ }

/-- The new FLOOR of a use counter commits, once its record has left the queue, and the jobs that wait for it proceed (R550). -/
def floorCommit (n : Nat) (h : Hw) : Hw :=
  let es := (h.key.job.filter fun e => e.2.waits == some n).map (·.1)
  if es = [] ∨ h.sys.down.isSome = true ∨ h.nvm.waiting.any (fun r => r.typ == 0x1004 && r.key == n) = true then h
  else
    let floor := h.fld (KEY_K_W1_COUNT n) - 65536
    let h := h.setKey fun k => { k with
      floor := Tab.put k.floor n floor
      saved := Tab.mapVal k.saved fun m s => if m = n then { s with floor := floor } else s }
    es.foldl (fun h e =>
      if h.fld (KEY_K_W1_COUNT n) = 0 then h.jobEnd e resExhausted none
      else (h.useOne n).setKey fun k => { k with job := Tab.mapVal k.job fun i j => if i = e then { j with waits := none } else j }) h

/-- What a job writes, by range, and its result (R548, R549). -/
def Hw.jobOut (h : Hw) (mem : List Host.Cell) (j : KeyJob) : Nat × List (Nat × List Byte) :=
  let d := j.desc
  let get (a n : Nat) : List Byte := (h.readAs mem 23 0 a n).toOption.getD []
  let text := get d.src d.len
  let p384 := d.alg == 1
  if d.op = 1 then
    let c := Config.aeadSeal j.key (get d.iv 12) (get d.aad d.aadLen) text
    (resOk, [(d.dst, c.take d.len), (d.tag, (Config.aeadTag j.key (get d.iv 12) (get d.aad d.aadLen) c).take 16)])
  else if d.op = 2 then
    if (Config.aeadTag j.key (get d.iv 12) (get d.aad d.aadLen) text).take 16 = get d.tag 16 then
      (resOk, [(d.dst, (Config.aeadOpen j.key (get d.iv 12) (get d.aad d.aadLen) text).take d.len)])
    else (resAuthFail, [(d.dst, List.replicate d.len 0#8)])
  else if d.op = 3 then (resOk, [(d.tag, (Config.cmac (j.key.take 16) text).take d.tagLen)])
  else if d.op = 4 then
    (if (Config.cmac (j.key.take 16) text).take d.tagLen = get d.tag d.tagLen then resOk else resAuthFail, [])
  else if d.op = 5 then (resOk, [(d.tag, (Config.ecdsaSign p384 j.key (h.freeVal 384) text).take (curveLen d.alg))])
  else if d.op = 6 then
    let pk := get d.iv (curveLen d.alg)
    (if Config.sha256 pk = j.key ∧ Config.ecdsaVerify p384 pk text (get d.tag (curveLen d.alg)) = true then resOk
      else resAuthFail, [])
  else if d.op = 7 then (resOk, [(d.dst, (Config.keyWrap j.key (h.nodeVal d.node)).take 40)])
  else if d.op = 8 then (resOk, [(d.dst, (Config.ecdsaPublic p384 j.key).take (curveLen d.alg))])
  else (resOk, [(d.dst, toBytes d.len (h.freeVal (8 * d.len)))])

/-- A job ends (R548): its bytes are written, or it ends with ACCESS where the fabric refuses the key unit. -/
def jobDone (e : Nat) (s : State) : State :=
  match Tab.get? s.hw.key.job e with
  | none => s
  | some j =>
    if j.waits.isSome then s
    else
      let h := s.hw
      match j.desc.ranges.find? fun r =>
          !h.rangeOk 23 0 r || (r.2.1 != 0 && (h.rangeCheck 23 0 r.1 r.2.1 (if r.2.2 then .write else .read)).isSome) with
      | some (a, len, wr) =>
        { s with hw := (h.noteRefused 23 0 a len (if wr then .write else .read)).jobEnd e resAccess j.desc.slot }
      | none =>
        let (res, outs) := h.jobOut s.mem j
        let h := j.desc.ranges.foldl (fun h r => if r.2.2 then h else h.wake r.1 r.2.1) h.useFree
        let h := if res = resAuthFail then h.countS KEY_AUTHFCNT_COUNT KEY_AUTHFCNT_SAT 183 1 else h
        (outs.foldl (fun (s : State) w => s.blockWrite w.1 w.2) { s with hw := h }).onHw fun h => h.jobEnd e res j.desc.slot

/-! ## Slots, modes, tamper (R528, R551, R552, R554) -/

/-- Zeroises every slot, its attributes included: reads of a slot then return 0 (R528). -/
def Hw.zeroSlots (h : Hw) : Hw :=
  (h.keyClear 0x6000 0x6100).setKey fun k => { k with slot := [] }

/-- A write of KEY.SCMD (R551): refused in RUN. -/
def slotWrite (n : Nat) (h : Hw) : Hw :=
  if h.keyMode = keyRun then h.selRefuse
  else
    let v := ((List.range 8).map fun i => toBytes 4 (h.fld (KEY_SVAL i))).flatten
    let h := (List.range 8).foldl (fun h i => h.setFld (KEY_SVAL i) 0) h
    h.setKey fun k => { k with slot := Tab.put k.slot n v }

/-- A write of KEY.CTRL.MODE (R528). -/
def modeWrite (mode : Nat) (h : Hw) : Hw :=
  if h.keyMode = keyStart ∧ mode = keyRun then h.zeroSlots.setFld KEY_CTRL_MODE keyRun
  else if h.keyMode = keyStart ∧ mode = keyTest ∧ h.debug = true then
    ((List.range 8).foldl (fun h e => h.clearKey e) h).setFld KEY_CTRL_MODE keyTest
  else keyRefuse .mode h

/-- FOGHORN_N is low while a condition holds that is not masked (R648). -/
def Hw.fogLow (h : Hw) : Bool := (h.fld SYS_FOGSTAT_COND &&& (127 - h.fld SYS_FOGMASK_MASK * 16)) != 0

/-- A change of a FOGHORN condition or mask; a change of the pin raises E4 and is recorded (R648). -/
def Hw.fogChange (h : Hw) (f : Hw → Hw) : Hw :=
  let was := h.fogLow
  let h := f h
  if h.fogLow = was then h
  else (((h.raise 4).record 0x0B5 h.noMaster 0 (h.fld SYS_FOGSTAT_COND)).useFree)

/-- A FOGHORN condition begins or ends. -/
def Hw.setFog (h : Hw) (i : Nat) (on : Bool) : Hw := h.fogChange fun h => h.setFldBit SYS_FOGSTAT_COND i on

/-- The key unit enters RECOVERY. -/
def Hw.enterRecovery (h : Hw) : Hw := (h.setFld KEY_CTRL_MODE keyRecovery).setFog 2 true

/-- Every secret in key RAM, every key register and every slot is zeroised, and every running job ends with TAMPER. -/
def Hw.zeroKeys (h : Hw) : Hw :=
  let es := h.key.job.map (·.1)
  let h := es.foldl (fun h e => h.jobEnd e resTamper ((Tab.get? h.key.job e).bind fun j => j.desc.slot)) h
  let h := (List.range 8).foldl (fun h e => h.clearKey e) h.zeroSlots
  (h.keyClear 0x1000 0x5000).setKey fun k => { k with val := [], cmd := none, pgen := [], floor := [] }

/-- TAMPER_N is held low for 1 us (R552). The latch goes ahead of every other group of the record store. -/
def tamper (h : Hw) : Hw :=
  let h := h.zeroKeys.setFlag KEY_STAT_BUSY false
  let h := ((h.enterRecovery.setFlag KEY_STAT_TAMPER true).setFlag NVM_STAT_TAMPER true).raise 180
  let h := h.recordFree 0x081 23 0
  let r : NvmReq := ⟨0x0002, 0, toBytes 16 (h.freeVal 128), 0, false, .system⟩
  ({ h with sys := { h.sys with tamperAt := some h.tfree }, nvm := { h.nvm with reqs := r :: h.nvm.reqs } } : Hw).useFree

/-- An uncorrectable error in key RAM (R554). -/
def keyRamError (n : Nat) (h : Hw) : Hw :=
  if h.nodeState n = nodeFree then h.raise 183 else ((h.setFld (KEY_K_W0_STATE n) nodeOrphan).zeroNode n).raise 183

/-! ## Meanings -/

def execModeWrite (src : Src) (mode : BitVec 2) (s : State) : Host.Outcome State Fault Refusal :=
  .next (s.onHw fun h => h.onlyD0 src (keyAddr 0) (modeWrite mode.toNat))
def execKeyCreate (src : Src) (node parent : Fin 1024) (s : State) : Host.Outcome State Fault Refusal :=
  .next (s.onHw (keyCreate s.mem src node.val parent.val))
def execKeyInvalidate (src : Src) (node : Fin 1024) (s : State) : Host.Outcome State Fault Refusal :=
  .next (s.onHw (keyChange 2 16 src node.val))
def execKeyUpdate (src : Src) (node : Fin 1024) (s : State) : Host.Outcome State Fault Refusal :=
  .next (s.onHw (keyChange 3 16 src node.val))
def execKeyDelete (src : Src) (node : Fin 1024) (s : State) : Host.Outcome State Fault Refusal :=
  .next (s.onHw (keyChange 4 272 src node.val))
def execKeyReenrol (src : Src) (s : State) : Host.Outcome State Fault Refusal := .next (s.onHw (keyReenrol src))
def execKeyRecover (src : Src) (tamperLow : Bool) (s : State) : Host.Outcome State Fault Refusal :=
  .next (s.onHw (keyRecover src tamperLow))
def execKeyAnchor (src : Src) (s : State) : Host.Outcome State Fault Refusal := .next (s.onHw (keyAnchor src))
def execLedgerCommit (ok : Bool) (s : State) : Host.Outcome State Fault Refusal := .next (s.onHw (ledgerCommit ok))
def execEngSel (src : Src) (e : Fin 8) (node : Fin 1024) (s : State) : Host.Outcome State Fault Refusal :=
  .next (s.onHw (engSel src e.val node.val))
def execJobSubmit (src : Src) (e : Fin 8) (s : State) : Host.Outcome State Fault Refusal :=
  .next (s.onHw (jobSubmit s.mem src e.val))
def execJobDone (e : Fin 8) (s : State) : Host.Outcome State Fault Refusal := .next (jobDone e.val s)
def execFloorCommit (node : Fin 1024) (s : State) : Host.Outcome State Fault Refusal := .next (s.onHw (floorCommit node.val))
def execSlotWrite (src : Src) (slot : Fin 64) (s : State) : Host.Outcome State Fault Refusal :=
  .next (s.onHw fun h => h.onlyD0 src (keyAddr 0x6120) (slotWrite slot.val))
def execTamper (s : State) : Host.Outcome State Fault Refusal := .next (s.onHw tamper)
def execKeyRamError (node : Fin 1024) (s : State) : Host.Outcome State Fault Refusal := .next (s.onHw (keyRamError node.val))

end Sys2Proof.Machine
end

