-- ==== Sys2Proof/Machine/Round.lean ====
section
/-! DEFINITION. Results that the spec defines and whose rounding it does not state (07, 08): the exact value where the form holds
it, else one of its two neighbours, free which (log entry 7, DESIGN CHOICE). -/

namespace Sys2Proof.Machine

/-- An integer at a quotient. -/
def nearQuot (n d : Int) : Int :=
  if n.fmod d = 0 then n.fdiv d else n.fdiv d + (if Config.roundsUp n d then 1 else 0)

/-- A 24-bit significand of the number of `q * 2^e`, exact when the bits below are 0 and `exact` holds. -/
def nearPack (neg : Bool) (q : Nat) (e : Int) (exact up : Bool) : Word :=
  let k := F32.bitLen q - 24
  let m := q / 2 ^ k
  F32.pack neg (if (exact && q % 2 ^ k == 0) || !up then m else m + 1) (e + k)

/-- FP32 at n / d * 2^e. -/
def nearF32 (n : Int) (d : Nat) (e : Int) : Word :=
  let k := 32 + F32.bitLen d - F32.bitLen n.natAbs
  let x := n.natAbs * 2 ^ k
  nearPack (decide (n < 0)) (x / d) (e - k) (x % d == 0) (Config.roundsUp n d)

/-- The largest integer whose square is at most n / d, and whether its square is that. -/
def rootOf (n d : Nat) : Nat × Bool :=
  let r := F32.sqrtFrom (n / d) (F32.bitLen (n / d) / 2 + 1) 0
  (r, r * r * d == n)

/-- An integer at the square root of n / d. -/
def nearRoot (n d : Nat) : Nat :=
  let r := rootOf n d
  if r.2 || !Config.roundsUp n d then r.1 else r.1 + 1

/-- FP32 at the square root of n / d * 2^e. -/
def rootF32 (n d : Nat) (e : Int) : Word :=
  let n := if e % 2 = 0 then n else 2 * n
  let k := (64 + F32.bitLen d - F32.bitLen n) / 2
  let r := rootOf (n * 4 ^ k) d
  nearPack false r.1 (e / 2 - k) r.2 (Config.roundsUp n d)

/-- An FP32 value as an exact integer multiple of 2^-149; none for a NaN or an infinity. -/
def exactF32 (w : Word) : Option Int :=
  if F32.isNan w || F32.isInf w then none else some (F32.toInt .trunc 149 (F32.read w))

/-- Product, quotient and sum of FP32 values; an operand that is no number acts as in R140. -/
def nearMul (a b : Word) : Word :=
  match exactF32 a, exactF32 b with
  | some x, some y => nearF32 (x * y) 1 (-298)
  | _, _ => F32.mul a b
def nearDiv (a b : Word) : Word :=
  match exactF32 a, exactF32 b with
  | some x, some y => if y = 0 then F32.div a b else nearF32 (x * y.sign) y.natAbs 0
  | _, _ => F32.div a b
def nearSum (l : List Word) : Word :=
  if l.all fun w => (exactF32 w).isSome then nearF32 ((l.map fun w => (exactF32 w).getD 0).sum) 1 (-149)
  else l.foldl F32.add 0#32

end Sys2Proof.Machine
end

