-- ==== Sys2Proof/Machine/Metering.lean ====
section
/-! DEFINITION. The metering front end (07): samples, windows and trackers, calibration, feeders (R278-R307). -/

namespace Sys2Proof.Machine

def mtrAddr (off : Nat) : Nat := 0x30140000 + off

/-! ## Channels and feeders (R278) -/

def MtrCh.reset : MtrCh :=
  ⟨0, 0, false, false, 0x3F800000#32, 0, 0x400000, 0, 0, [], ⟨0, 0, 0⟩, 0, [], none, false, [], []⟩
def Hw.mch (h : Hw) (n : Nat) : MtrCh := Tab.getD h.mtr.ch n MtrCh.reset
def Hw.setMch (h : Hw) (n : Nat) (c : MtrCh) : Hw := { h with mtr := { h.mtr with ch := Tab.put h.mtr.ch n c } }

def MtrFeed.reset : MtrFeed := ⟨0, none, [], 0, 0, 0, 0, 0, 0, none⟩
def Hw.feed (h : Hw) (f : Nat) : MtrFeed := Tab.getD h.mtr.feed f MtrFeed.reset
def Hw.setFeed (h : Hw) (f : Nat) (x : MtrFeed) : Hw := { h with mtr := { h.mtr with feed := Tab.put h.mtr.feed f x } }

/-- Fields of Fn_CFG in force (R302, R307). -/
def Hw.fEn (h : Hw) (f : Nat) : Bool := (h.feed f).cfg.testBit 0
def Hw.fSet (h : Hw) (f : Nat) : Nat := bits (h.feed f).cfg 1 1
def Hw.fRef (h : Hw) (f : Nat) : Nat := bits (h.feed f).cfg 2 2
def Hw.fPoints (h : Hw) (f : Nat) : Bool := (h.feed f).cfg.testBit 4
def Hw.fBase (h : Hw) (f : Nat) : Nat := bits (h.feed f).cfg 5 17

/-- Current and voltage channel of a phase of a feeder. -/
def curCh (f p : Nat) : Nat := 3 * f + p
def setCh (u p : Nat) : Nat := 24 + 3 * u + p
def Hw.volCh (h : Hw) (f p : Nat) : Nat := setCh (h.fSet f) p
def Hw.feedChans (h : Hw) (f : Nat) : List Nat := (List.range 3).map (curCh f) ++ (List.range 3).map (h.volCh f)

/-- All of a feeder's channels are enabled (R303). -/
def Hw.feedReady (h : Hw) (f : Nat) : Bool := (h.feedChans f).all fun n => (h.mch n).en

/-- The lowest-numbered enabled feeder that uses a voltage set (R296). -/
def Hw.setOwner (h : Hw) (u : Nat) : Option Nat := (List.range 8).find? fun f => h.fEn f && h.fSet f == u

/-! ## Tracker states (R294) -/

def trNosync : Nat := 0
def trAcquire : Nat := 1
def trLocked : Nat := 2

def Hw.tracker (h : Hw) (f : Nat) : Nat := h.fld (MTR_F_STAT_TSTATE f)

/-- An open billing interval ends at the newest sample (R309): the next end of an interval takes it there. -/
def Hw.closeIvl (h : Hw) (f : Nat) : Hw :=
  let x := h.feed f
  if x.left.isSome ∨ h.mtr.num ≤ x.ivl then h else h.setFeed f { x with left := some h.mtr.num }

/-- A tracker takes a state; a change raises E82. The interval that is open when LOCKED is left ends (R309). -/
def Hw.setTracker (h : Hw) (f st : Nat) : Hw :=
  if h.tracker f = st then h
  else
    let h := if h.tracker f = trLocked then h.closeIvl f else h
    let h := if st = trLocked then h.setFeed f { h.feed f with locked := h.mtr.num } else h
    (h.setFld (MTR_F_STAT_TSTATE f) st).raise 82

/-- One sample interval in the unit of window boundaries. -/
def sampleUnit : Nat := 65536

/-- A tracker falls to NOSYNC; fixed windows follow on the last window's end (R294). -/
def Hw.loseSync (h : Hw) (f : Nat) : Hw :=
  (h.setFeed f { h.feed f with start := (h.feed f).last, qual := 0 }).setTracker f trNosync

/-- Trackers of feeders that are not enabled or whose channels are not all enabled are NOSYNC (R303). -/
def Hw.trackersReady (h : Hw) : Hw :=
  (List.range 8).foldl (fun h f =>
    if h.tracker f ≠ trNosync ∧ (h.fEn f && h.feedReady f) = false then h.loseSync f else h) h

/-- A write of Fn_CFG takes effect, at the sample after the newest (R302). -/
def Hw.applyFeed (h : Hw) (f : Nat) : Hw :=
  let x := h.feed f
  match x.next with
  | none => h
  | some v =>
    let h := if x.cfg.testBit 0 && !bitOf v 0 then h.closeIvl f else h
    let y := { h.feed f with cfg := v, next := none, sets := (h.mtr.num + 1, bits v 1 1) :: x.sets.take 3 }
    let at_ := h.mtr.num * sampleUnit
    h.setFeed f (if bitOf v 0 && !x.cfg.testBit 0 then { y with start := at_, last := at_, qual := 0, ivl := h.mtr.num } else y)

def Hw.applyFeeds (h : Hw) : Hw :=
  if (List.range 8).any fun f => (h.feed f).next.isSome then ((List.range 8).foldl Hw.applyFeed h).trackersReady else h

/-! ## The signal chain (R280, R281, R285-R287, R290) -/

/-- 24-bit saturation. -/
def sat24 (x : Int) : Int := max (-8388608) (min 8388607 x)

/-- FNORM in mHz. -/
def Hw.fnorm (h : Hw) : Nat := if h.flag MTR_CTRL_FNORM then 60000 else 50000

/-- The frequency for which a coil channel is compensated (R286): what the feeder's tracker measured last, in LOCKED. -/
def Hw.coilFreq (h : Hw) (n : Nat) : Nat :=
  if n < 24 ∧ h.tracker (n / 3) = trLocked then (h.feed (n / 3)).freq else h.fnorm

/-- Stage 7: a first-order high-pass, at 2^-16 of a code; it has no response to DC, since its output follows the change of its
input alone (R287; log entry 118, DESIGN CHOICE of its form). -/
def ChainMem.highPass (m : ChainMem) (x : Int) : ChainMem :=
  { m with last := x, high := (Config.highGain * (x - m.last) * 2 ^ 16 + Config.highPole.val * m.high).tdiv (2 ^ 32) }

/-- Stage 8: the integrator, normalised at FNORM, with its leak (R285). -/
def ChainMem.integrate (fnorm : Bool) (m : ChainMem) : ChainMem :=
  { m with int := (Config.intGain fnorm * m.high + Config.intPole.val * m.int).tdiv (2 ^ 32) }

/-- What stages 7 and 8 give: the high-pass alone, or on a coil channel the integrator compensated at a frequency from its old and
its new value (R285, R286). -/
def ChainMem.out (coil : Bool) (freq : Nat) (old m : ChainMem) : Int :=
  nearQuot (if coil then (Config.compNew freq * m.int + Config.compOld freq * old.int).tdiv (2 ^ 32) else m.high) (2 ^ 16)

/-- Stage 9 (R281): exact where the delay is a whole number of samples. -/
def stageDelay (phase : Int) (hist : List Int) : Int :=
  if phase % 4096 = 0 then (hist[(2 + phase / 4096).toNat]?).getD (Config.fracDelay phase hist) else Config.fracDelay phase hist

/-- Stages 5-9 of a code: the channel's new filter memory, the code after stage 6 and the calibrated code. -/
def Hw.chain (h : Hw) (n : Nat) (c : MtrCh) (x : Int) : MtrCh × Int × Int :=
  let raw := nearQuot ((x - c.offs) * c.gain) (2 ^ 22)
  let coil := c.sensor == 2
  let hp := c.filt.highPass raw
  let filt := if coil then hp.integrate (h.flag MTR_CTRL_FNORM) else hp
  let y := if c.hpf || coil then filt.out coil (h.coilFreq n) c.filt else raw
  let hist := (y :: c.hist).take 16
  ({ c with filt := filt, hist := hist }, raw, stageDelay c.phase hist)

/-- Samples a channel keeps: more than the longest window, 50 cycles of 50 ms. -/
def bufLen : Nat := 20480

/-- A sample is delivered. -/
def Hw.deliver (h : Hw) (n : Nat) (c : MtrCh) (raw y : Int) (ovl : Bool) : Hw :=
  let shift := Config.shiftStep c.shift y
  let s : Sample := ⟨c.cnt + 1, y, Config.shiftOut shift, raw, c.k, c.pga, ovl, h.fld BIL_TARCUR_TAR⟩
  let h := h.setMch n { c with cnt := c.cnt + 1, shift := shift, buf := (s :: c.buf).take bufLen }
  let h := { h with mtr := { h.mtr with num := max h.mtr.num (c.cnt + 1) } }
  h.setFld (MTR_CH_INST n) (ofSigned 24 y)

/-- The first overloaded sample after the channel's bit was clear sets it and raises E81 (R280). -/
def Hw.overload (h : Hw) (n : Nat) : Hw :=
  if h.fldBit MTR_OVLSTAT_OVL n then h else (h.setFldBit MTR_OVLSTAT_OVL n true).raise 81

/-- A sample whose decimated code has come: zero while the filter memory is in error or for 128 samples after a restart, in which
the stages run on (R290), else the calibrated sample. -/
def Hw.nextSample (h : Hw) (n : Nat) (code : BitVec 24) (unstable : Bool) : Hw :=
  let c := h.mch n
  if c.dead then h.deliver n c 0 0 false
  else
    let r := h.chain n c code.toInt
    match c.zeros with
    | some (k + 1) => h.deliver n { r.1 with zeros := some k } 0 0 false
    | _ =>
      let y := sat24 r.2.2
      let ovl := unstable || code.toInt == -8388608 || code.toInt == 8388607 || r.2.2 != y
      let h := h.deliver n { r.1 with zeros := none } r.2.1 y ovl
      if ovl then h.overload n else h

/-- A code leaves the decimator of a channel (R281): stages 1-4 have formed it from the pins. The first of a new sample's codes brings
a waiting Fn_CFG into force (R302). -/
def sample (n : Nat) (code : BitVec 24) (unstable : Bool) (h : Hw) : Hw :=
  let c := h.mch n
  if h.flag MTR_STAT_RUN = false ∨ c.en = false then h
  else (if h.mtr.num < c.cnt + 1 then h.applyFeeds else h).nextSample n code unstable

/-- The zero samples of a restart have passed (R290). -/
def settled (n : Nat) (h : Hw) : Hw :=
  if (h.mch n).zeros = some 0 then h.setMch n { h.mch n with zeros := none } else h

/-! ## Windows (R295, R296) -/

/-- Weight of sample `no` in the window from `a` to `b`: the part of its interval inside (R295). -/
def weightIn (a b no : Nat) : Nat := min (no * sampleUnit) b - max ((no - 1) * sampleUnit) a

/-- A channel's samples in a window, oldest first. -/
def Hw.inWindow (h : Hw) (n a b : Nat) : List Sample := ((h.mch n).buf.filter fun s => decide (0 < weightIn a b s.no)).reverse

def Sample.meas (a b : Nat) (s : Sample) : Config.Meas := ⟨s.no, weightIn a b s.no, s.code, s.shift, s.k, s.pga⟩
def Hw.meas (h : Hw) (n a b : Nat) : List Config.Meas := (h.inWindow n a b).map (Sample.meas a b)

/-- The voltage set that served a feeder at a sample (R302). -/
def MtrFeed.setAt (x : MtrFeed) (no : Nat) : Nat :=
  match x.sets.find? fun e => decide (e.1 ≤ no) with
  | some e => e.2
  | none => bits x.cfg 1 1

/-- Voltage samples of a phase of a feeder in a window, from the set that served at each. -/
def Hw.volMeas (h : Hw) (f p a b : Nat) : List Config.Meas :=
  ([0, 1].map fun u => (h.meas (setCh u p) a b).filter fun m => (h.feed f).setAt m.no == u).flatten

/-- Voltage and current of the samples that both channels delivered. -/
def joined (v i : List Config.Meas) : List (Config.Meas × Config.Meas) :=
  (v.map fun x => (i.filter fun y => y.no == x.no).map fun y => (x, y)).flatten

/-! ### Physical values (R279, R281) -/

/-- A code of this sample as the physical value code / 2^23 * 0.5 / G * K, an exact multiple of 2^-178; 0 where K is no number. -/
def physical (m : Config.Meas) (code : Int) : Int := code * (exactF32 m.k).getD 0 * 2 ^ (5 - m.pga)

/-- The K of every sample is a number. -/
def knownK (l : List Config.Meas) : Bool := l.all fun m => (exactF32 m.k).isSome

/-- Sums over a window: of the weights, and of the weighted values of its samples. -/
def weights (l : List Config.Meas) : Nat := (l.map (·.w)).sum
def weighted (l : List (Nat × Int)) : Int := (l.map fun x => (x.1 : Int) * x.2).sum

/-- RMS of weighted values at 2^-178, 0 over no samples. -/
def rmsOf (l : List (Nat × Int)) : Word :=
  let w := (l.map (·.1)).sum
  if w = 0 then 0#32 else rootF32 (weighted (l.map fun x => (x.1, x.2 * x.2))).toNat w (-356)

/-- RMS of a channel over a window. -/
def meterRms (l : List Config.Meas) : Word :=
  if knownK l then rmsOf (l.map fun m => (m.w, physical m m.code)) else Config.meterOpen 0 l

/-- Mean product of current and voltage, or of current and shifted voltage (R298). -/
def meterPower (reactive : Bool) (l : List (Config.Meas × Config.Meas)) : Word :=
  let v := l.map (·.1)
  if !knownK (v ++ l.map (·.2)) then Config.meterOpen (if reactive then 2 else 1) (v ++ l.map (·.2))
  else if weights v = 0 then 0#32
  else nearF32 (weighted (l.map fun x => (x.1.w, physical x.1 (if reactive then x.1.shift else x.1.code) * physical x.2 x.2.code)))
    (weights v) (-356)

/-- RMS of the sample-wise sum of three currents (R297). -/
def meterNeutral (x y z : List Config.Meas) : Word :=
  if !knownK (x ++ y ++ z) then Config.meterOpen 3 (x ++ y ++ z)
  else rmsOf ((joined x y).map fun p =>
    (z.filter fun q => q.no == p.1.no).map fun q => (q.w, physical p.1 p.1.code + physical p.2 p.2.code + physical q q.code)).flatten

/-! ### Harmonics (R301) -/

/-- cos (2 pi k / 64) at 2^-60, rounded to nearest, for a quarter of the circle. -/
def cosQuarter : List Int :=
  [1152921504606846976, 1147369872436662991, 1130768441178740757, 1103277091691359535, 1065160580698383124, 1016785991037278313,
   958619196450722178, 891220374967787610, 815238614083298888, 731405659690429196, 640528868967736374, 543483435088187080,
   441203958630471860, 334675446864527722, 224923827593068887, 113006068906017470, 0]

/-- cos (2 pi k / 64) at 2^-60. -/
def cos64 (k : Nat) : Int :=
  let k := k % 64
  if k ≤ 16 then cosQuarter.getD k 0 else if k ≤ 32 then -(cosQuarter.getD (32 - k) 0)
  else if k ≤ 48 then -(cosQuarter.getD (k - 32) 0) else cosQuarter.getD (64 - k) 0

/-- The square of the DFT of order `o` over points taken 64 to a cycle, at 2^-476. -/
def dftSquare (o : Nat) (pts : List Int) : Nat :=
  let part (ofs : Nat) := ((pts.zip (List.range pts.length)).map fun x => x.1 * cos64 (o * x.2 + ofs)).sum
  (part 0 * part 0 + part 48 * part 48).toNat

/-- Cycles that a window holds for the resampling: NCYC, in a fixed window 200 ms at FNORM. -/
def Hw.windowCycles (h : Hw) (cyc : Nat) : Nat := if cyc = 0 then h.fnorm / 5000 else cyc

/-- The 32 results of a channel: the fundamental RMS, orders 2-31 and their root sum of squares in % of it; free where the
fundamental is 0 (log entry 119, DESIGN CHOICE). -/
def harmonics (cyc : Nat) (m : List Config.Meas) : List Word :=
  let n := 64 * cyc
  let pts := (List.range n).map fun i => Config.resample cyc i (m.map fun x => (x.w, physical x x.code))
  let e := (List.range 31).map fun o => dftSquare (o + 1) pts
  let e1 := e.headD 0
  if !knownK m then (List.range 32).map fun o => Config.meterOpen (4 + o) m
  else (if n = 0 then 0#32 else rootF32 (2 * e1) (n * n) (-476)) ::
    ((e.drop 1 ++ [(e.drop 1).sum]).zip (List.range 31)).map fun x =>
      if e1 = 0 then Config.meterOpen (5 + x.2) m else rootF32 (10000 * x.1) e1 0

/-! ### Results of a window -/

/-- RMS, MEAN and harmonic results of a channel; `cyc` cycles, 0 in a fixed window. -/
def Hw.chanResult (a b cyc : Nat) (h : Hw) (n : Nat) : Hw :=
  let m := h.meas n a b
  let tot := weights m
  let sum := ((h.inWindow n a b).map fun s => (weightIn a b s.no : Int) * s.raw).sum
  let h := h.setFld (MTR_CH_RMS n) (meterRms m).toNat
  let h := if tot = 0 then h else h.setFld (MTR_CH_MEAN n) (ofSigned 24 (nearQuot sum tot))
  h.setMch n { h.mch n with harm := harmonics (h.windowCycles cyc) m }

def Hw.harm (h : Hw) (n o : Nat) : Word := (h.mch n).harm.getD o 0#32
def Hw.rms (h : Hw) (n : Nat) : Word := BitVec.ofNat 32 (h.fld (MTR_CH_RMS n))

/-- The values of a feeder's points at the end of a window, by offset (R297, R298); the frequency only in LOCKED (R299). -/
def Hw.meterPoints (h : Hw) (f a b : Nat) (freq : Option Word) : List (Nat × Word) :=
  let ph := List.range 3
  let u := ph.map fun p => h.rms (h.volCh f p)
  let i := ph.map fun p => h.rms (curCh f p)
  let cur (p : Nat) := h.meas (curCh f p) a b
  let pow (q : Bool) := ph.map fun p => meterPower q (joined (h.volMeas f p a b) (cur p))
  let s := (u.zip i).map fun x => nearMul x.1 x.2
  let pt := nearSum (pow false)
  let st := nearSum s
  let vals := u ++ i ++ pow false ++ pow true ++ s ++ [pt, nearSum (pow true), st, if F32.isZero st then 0#32 else nearDiv pt st]
  let thd := (ph.map fun p => h.harm (h.volCh f p) 31) ++ (ph.map fun p => h.harm (curCh f p) 31)
    ++ [meterNeutral (cur 0) (cur 1) (cur 2)]
  (List.range 19).zip vals ++ (match freq with
    | some v => [(19, v)]
    | none => []) ++ ((List.range 7).map (· + 20)).zip thd

/-- Channels that feed a point of a feeder (R299). -/
def Hw.pointChans (h : Hw) (f o : Nat) : List Nat :=
  if o < 3 then [h.volCh f o] else if o < 6 then [curCh f (o - 3)] else if o < 15 then [curCh f (o % 3), h.volCh f (o % 3)]
  else if o < 19 then h.feedChans f else if o = 19 then [h.volCh f (h.fRef f)]
  else if o < 23 then [h.volCh f (o - 20)] else if o < 26 then [curCh f (o - 23)] else (List.range 3).map (curCh f)

/-- A channel overloaded in a window. -/
def Hw.ovlIn (h : Hw) (a b n : Nat) : Bool := (h.inWindow n a b).any (·.ovl)

/-- Calibration words were applied in a window, except at its first sample (R289). -/
def Hw.calIn (h : Hw) (a b n : Nat) : Bool :=
  (h.mch n).cals.any fun k => decide (a / sampleUnit + 1 < k) && decide (0 < weightIn a b k)

/-- A feeder's points land over the fabric as transactions of M19 (R34, R297, R299, R300); none passes an isolated port of island
13 (R35). -/
def Hw.landMeter (h : Hw) (f a b : Nat) (freq : Option Word) : Hw :=
  if (h.fPoints f && h.feedReady f && !h.bus.isolated.contains 13) = false then h
  else (h.meterPoints f a b freq).foldl (fun h (e : Nat × Word) =>
    let cl := (h.pointChans f e.1).any (h.ovlIn a b)
    let off := 8 * (h.fBase f + e.1)
    h.asWrite ⟨.metering, 0⟩ (0x21100000 + off) 8 fun h => h.imageWrite 19 0 off 8 (e.2.toNat + b2n cl * 2 ^ (32 + stClamped))) h

/-- A window of a feeder ends at `b` (R295, R297, R301). -/
def Hw.endWindow (h : Hw) (f b cyc : Nat) (freq : Option (Nat × Word)) : Hw :=
  let a := (h.feed f).start
  let chans := h.feedChans f
  let h := ((List.range 3).map (curCh f)).foldl (Hw.chanResult a b cyc) h
  let h := if h.setOwner (h.fSet f) = some f then ((List.range 3).map (h.volCh f)).foldl (Hw.chanResult a b cyc) h else h
  let ovl := chans.any (h.ovlIn a b)
  let h := (h.setFlag (MTR_F_STAT_OVL f) ovl).setFlag (MTR_F_STAT_CALCHG f) (chans.any (h.calIn a b))
  let h := ((h.setFld (MTR_F_WEND f) h.nt).countW (MTR_F_WSEQ f) 1).setFld (MTR_F_NSAMP f)
    ((b + sampleUnit - 1) / sampleUnit - a / sampleUnit)
  let h := match freq with
    | some (mhz, _) => h.setFld (MTR_F_STAT_FREQ f) mhz
    | none => h
  let h := if ovl then h.countS MTR_OVLCNT_COUNT MTR_OVLCNT_SAT 86 1 else h
  let h := h.landMeter f a b (freq.map (·.2))
  (h.setFeed f { h.feed f with start := b, last := b }).raise 80

/-- A qualified window (R294): at least 5 % of full-scale RMS on REFPH (a square of 2^45 / 400 in codes) and 45-65 Hz. -/
def Hw.qualified (h : Hw) (f a b : Nat) : Bool :=
  let m := h.volMeas f (h.fRef f) a b
  let sq := (m.map fun x => (x.w : Int) * x.code * x.code).sum
  let tot : Int := weights m
  let x := h.fld MTR_CTRL_NCYC * 8000000 * sampleUnit
  decide (tot * 2 ^ 45 ≤ 400 * sq) && decide (0 < tot) && decide (45000 * (b - a) ≤ x) && decide (x ≤ 65000 * (b - a))

/-- Frequency of a window in mHz and as F32 in Hz: NCYC * 8,000 / its length in samples (R295). -/
def Hw.windowFreq (h : Hw) (a b : Nat) : Nat × Word :=
  let x := h.fld MTR_CTRL_NCYC * 8000 * sampleUnit
  ((nearQuot (x * 1000) ((b - a : Nat) : Int)).toNat, nearF32 x (b - a) 0)

/-- A positive crossing at which a window begins or ends, `back` / 65,536 of a sample interval before the newest sample (R294). -/
def windowEnd (f : Nat) (back : Nat) (h : Hw) : Hw :=
  let x := h.feed f
  let b := h.mtr.num * sampleUnit - back
  if (h.fEn f && h.feedReady f && decide (h.fRef f < 3)) = false then h
  else if h.tracker f = trNosync then (h.setFeed f { x with start := b, qual := 0 }).setTracker f trAcquire
  else if b ≤ x.start then h
  else
    let ok := h.qualified f x.start b
    let cyc := h.fld MTR_CTRL_NCYC
    let mhz := h.windowFreq x.start b
    if h.tracker f = trAcquire then
      let h := h.endWindow f b cyc none
      if !ok then h.loseSync f
      else
        let h := h.setFeed f { h.feed f with qual := x.qual + 1, freq := mhz.1 }
        if 2 ≤ x.qual + 1 then h.setTracker f trLocked else h
    else if ok then
      let h := h.endWindow f b cyc (some mhz)
      h.setFeed f { h.feed f with freq := mhz.1 }
    else (h.endWindow f (h.mtr.num * sampleUnit) cyc none).loseSync f

/-- 50 ms without a crossing (R294): a window of LOCKED ends at the newest sample. -/
def trackerTimeout (f : Nat) (h : Hw) : Hw :=
  if h.tracker f = trLocked then
    (if (h.feed f).start < h.mtr.num * sampleUnit then h.endWindow f (h.mtr.num * sampleUnit) (h.fld MTR_CTRL_NCYC) none else h).loseSync f
  else if h.tracker f = trAcquire then h.loseSync f
  else h

/-- Length of a fixed window: 1,600 samples. -/
def fixedLen : Nat := 1600 * sampleUnit

/-- 1,600 samples have passed since the last window end: a fixed window of a feeder in NOSYNC ends, or that of the spare channels (8)
(R294, R296). -/
def fixedWindowEnd (w : Nat) (h : Hw) : Hw :=
  let new := h.mtr.num * sampleUnit
  if w < 8 then
    let b := (h.feed w).start + fixedLen
    if h.fEn w = true ∧ h.tracker w = trNosync ∧ b ≤ new then h.endWindow w b 0 none else h
  else
    let a := h.mtr.spare
    let b := a + fixedLen
    if new < b then h
    else
      let chans := [30, 31].filter fun n => (h.mch n).en
      let h := chans.foldl (Hw.chanResult a b 0) h
      let h := { h with mtr := { h.mtr with spare := b } }
      if chans.any (h.ovlIn a b) then h.countS MTR_OVLCNT_COUNT MTR_OVLCNT_SAT 86 1 else h

/-! ## Calibration (R288-R291) -/

/-- A channel's datapath takes its staging words from the next sample on; a change of PGA or SENSOR restarts stages 2-9 (R288-R290). -/
def Hw.applyCh (h : Hw) (n : Nat) : Hw :=
  let c := h.mch n
  let pga := h.fld (MTR_CH_CFG_PGA n)
  let sensor := h.fld (MTR_CH_CFG_SENSOR n)
  let en := h.flag (MTR_CH_CFG_EN n)
  let restart := pga != c.pga || sensor != c.sensor
  let k := h.mtr.num + 1
  let c : MtrCh := { c with
    sensor := sensor, pga := pga, hpf := h.flag (MTR_CH_CFG_HPFEN n), en := en, k := BitVec.ofNat 32 (h.fld (MTR_CH_K n))
    offs := h.sfld (MTR_CH_OFFS n), gain := h.fld (MTR_CH_GAIN n), phase := h.sfld (MTR_CH_PHASE n)
    cnt := if en && !c.en then h.mtr.num else c.cnt, dead := false, cals := k :: c.cals.filter fun x => decide (k < x + bufLen) }
  h.setMch n (if restart then { c with zeros := some 128, filt := ⟨0, 0, 0⟩, shift := 0, hist := [] } else c)

/-- APPLY under CALLOCK changes nothing but its refusal's marks (R291). -/
def calApply (mask : BitVec 32) (h : Hw) : Hw :=
  if h.flag MTR_CTRL_CALLOCK then ((h.setFlag MTR_STAT_CALREF true).raise 85).recordFree 0x051 19 0
  else
    let num := h.mtr.num + 1
    let h := ((List.range 32).filter fun n => mask.getLsbD n).foldl Hw.applyCh h
    (h.trackersReady.raise 84).record 0x050 19 0 (mask.toNat + num % 2 ^ 32 * 2 ^ 32)

/-- A write of MTR.CTRL (R307): CALLOCK is set by 1; NCYC outside 1-50 stays. -/
def mtrCtrl (v : Nat) (h : Hw) : Hw :=
  let h := (h.setFld MTR_CTRL_EN (bits v 0 1)).setFld MTR_CTRL_FNORM (bits v 2 1)
  let h := if bits v 1 1 = 1 then h.setFlag MTR_CTRL_CALLOCK true else h
  let h := if 1 ≤ bits v 8 8 ∧ bits v 8 8 ≤ 50 then h.setFld MTR_CTRL_NCYC (bits v 8 8) else h
  let h := if bitOf v 0 && !h.flag MTR_STAT_RUN then ({ h with mtr := { h.mtr with began := h.tfree } } : Hw) else h
  h.setFld MTR_STAT_RUN (bits v 0 1)

/-- A write of a channel's staging words: PGA codes 6 and 7 read as 5 (R307). -/
def chanCfg (n v : Nat) (h : Hw) : Hw := (h.regStore (mtrAddr (0x100 + 0x20 * n)) v).setFld (MTR_CH_CFG_PGA n) (min (bits v 2 3) 5)

/-! ## Feeders (R302, R303) -/

/-- The 32 points from PTBASE lie in one input zone of source METER and are of type F32 (R302). -/
def Hw.blockOk (h : Hw) (base : Nat) : Bool :=
  zoneOf base == zoneOf (base + 31) && h.isInput base && h.zoneSrc (zoneOf base) == 2
    && (List.range 32).all fun i => h.pointType (base + i) == 4

/-- A write of Fn_CFG: a block that does not fit leaves PTEN at 0; the rest takes effect at the next sample (R302). -/
def feederCfg (f v : Nat) (h : Hw) : Hw :=
  let bad := bitOf v 4 && !h.blockOk (bits v 5 17)
  let h := ((h.setFld (MTR_F_CFG_EN f) (bits v 0 1)).setFld (MTR_F_CFG_USET f) (bits v 1 1)).setFld (MTR_F_CFG_REFPH f) (bits v 2 2)
  let h := (h.setFlag (MTR_F_CFG_PTEN f) (bitOf v 4 && !bad)).setFld (MTR_F_CFG_PTBASE f) (bits v 5 17)
  let h := h.setFeed f { h.feed f with next := some (bits v 0 22 - (if bad then 16 else 0)) }
  if bad then h.raise 86 else h

/-- PTEN of a configuration word cleared. -/
def noPoints (v : Nat) : Nat := v - bits v 4 1 * 16

/-- A layout load that breaks a feeder's point block clears its PTEN at that F+0 (R302). -/
def Hw.meterLayout (h : Hw) : Hw :=
  (List.range 8).foldl (fun h f =>
    if h.flag (MTR_F_CFG_PTEN f) && !h.blockOk (h.fld (MTR_F_CFG_PTBASE f)) then
      let x := h.feed f
      ((h.setFeed f { x with cfg := noPoints x.cfg, next := x.next.map noPoints }).setFlag (MTR_F_CFG_PTEN f) false).raise 86 else h) h

/-! ## Reference drift and filter memory (R305, R306) -/

def refDrift (ppm : BitVec 16) (h : Hw) : Hw :=
  let beyond (x : Int) : Bool := decide (500 < x.natAbs)
  let first := beyond ppm.toInt && !beyond (h.sfld MTR_REFDRIFT_PPM)
  let h := h.setFld MTR_REFDRIFT_PPM ppm.toNat
  if first then ((h.setFlag MTR_STAT_REFALM true).raise 83).recordFree 0x052 19 0 else h

def filterError (n : Nat) (h : Hw) : Hw := (h.setMch n { h.mch n with dead := true }).raise 86

/-! ## Meanings -/

def execSample (n : Fin 32) (code : BitVec 24) (unstable : Bool) (s : State) : Host.Outcome State Fault Refusal :=
  .next (s.onHw (sample n.val code unstable))
def execSettledSamples (n : Fin 32) (s : State) : Host.Outcome State Fault Refusal := .next (s.onHw (settled n.val))
def execWindowEnd (f : Fin 8) (back : BitVec 16) (s : State) : Host.Outcome State Fault Refusal :=
  .next (s.onHw (windowEnd f.val back.toNat))
def execFixedWindowEnd (w : Fin 9) (s : State) : Host.Outcome State Fault Refusal := .next (s.onHw (fixedWindowEnd w.val))
def execTrackerTimeout (f : Fin 8) (s : State) : Host.Outcome State Fault Refusal := .next (s.onHw (trackerTimeout f.val))
def execApply (src : Src) (mask : BitVec 32) (s : State) : Host.Outcome State Fault Refusal :=
  .next (s.onHw fun h => h.onlyD0 src (mtrAddr 0x8) (calApply mask))
def execCallock (src : Src) (s : State) : Host.Outcome State Fault Refusal :=
  .next (s.onHw fun h => h.onlyD0 src (mtrAddr 0) fun h => h.setFlag MTR_CTRL_CALLOCK true)
def execFeederCfgWrite (src : Src) (f : Fin 8) (v : BitVec 32) (s : State) : Host.Outcome State Fault Refusal :=
  .next (s.onHw fun h => h.onlyD0 src (mtrAddr (0x600 + 0x20 * f.val)) (feederCfg f.val v.toNat))
def execRefdriftCheck (ppm : BitVec 16) (s : State) : Host.Outcome State Fault Refusal := .next (s.onHw (refDrift ppm))
def execFilterMemoryError (n : Fin 32) (s : State) : Host.Outcome State Fault Refusal := .next (s.onHw (filterError n.val))

end Sys2Proof.Machine
end

