-- ==== Sys2Proof/Machine/Billing.lean ====
section
/-! DEFINITION. Billing quantities, heat channels and pulse units (08, R308-R344). -/

namespace Sys2Proof.Machine

def bilAddr (off : Nat) : Nat := 0x30150000 + off
def plsAddr (off : Nat) : Nat := 0x30160000 + off

def Hw.setBil (h : Hw) (f : Bil → Bil) : Hw := { h with bil := f h.bil }

/-! ## Registers by index (R308, R312, R332) -/

/-- Register index of a feeder's quantity and tariff, and of a heat channel. -/
def feedIdx (f q t : Nat) : Nat := 28 * f + 4 * q + t
def heatIdx (c : Nat) : Nat := 256 + c

/-- Live register, wrap count, latched register and count, GAP register of an index. -/
def bilReg (i : Nat) : Fld := if i < 256 then BIL_FREG (i / 28) (i % 28 / 4) (i % 4) else BIL_HREG (i - 256)
def bilWrap (i : Nat) : Fld := if i < 256 then BIL_FWRAP_WRAP (i / 28) (i % 28 / 4) (i % 4) else BIL_HWRAP_WRAP (i - 256)
def bilLat (i : Nat) : Fld := if i < 256 then BIL_FLAT (i / 28) (i % 28 / 4) (i % 4) else BIL_HLAT (i - 256)
def bilLatWrap (i : Nat) : Fld := if i < 256 then BIL_FLWRAP_WRAP (i / 28) (i % 28 / 4) (i % 4) else BIL_HLWRAP_WRAP (i - 256)
def bilGap (i : Nat) : Fld := if i < 256 then BIL_FGAP (i / 28) (i % 28 / 4) (i % 4) else BIL_HGAP (i - 256)

def feedIdxs (f : Nat) : List Nat := (List.range 28).map (· + 28 * f)
def heatIdxs : List Nat := (List.range 1024).map heatIdx
def allIdxs : List Nat := List.range 224 ++ heatIdxs

/-- The 80-bit billing value (R312). -/
def Hw.bilVal (h : Hw) (i : Nat) : Nat := h.fld (bilWrap i) * 2 ^ 64 + h.fld (bilReg i)

/-- Sets register and wrap count to an 80-bit value. -/
def Hw.setBilVal (h : Hw) (i v : Nat) : Hw := (h.setFld (bilReg i) (v % 2 ^ 64)).setFld (bilWrap i) (v / 2 ^ 64)

/-- Energy at 2^-24 of a unit enters a register through its residue (R311); a wrap counts and raises E88 (R312). Answers the
units added. -/
def Hw.addEnergy (h : Hw) (i a : Nat) : Hw × Nat :=
  let tot := Tab.getD h.bil.res i 0 + a
  let n := tot / 2 ^ 24
  let h := h.setBil fun b => { b with res := Tab.put b.res i (tot % 2 ^ 24) }
  let v := h.fld (bilReg i) + n
  let h := h.setFld (bilReg i) v
  (if v < 2 ^ 64 then h else (h.setFld (bilWrap i) (h.fld (bilWrap i) + v / 2 ^ 64)).raise 88, n)

/-! ## Pulse outputs (R340, R341) -/

def Hw.pulseOut (h : Hw) (n : Nat) : PulseOut := Tab.getD h.bil.out n ⟨0, false, none⟩
def Hw.setPulseOut (h : Hw) (n : Nat) (p : PulseOut) : Hw := h.setBil fun b => { b with out := Tab.put b.out n p }

/-- BACKLOG takes `k` pulses; at 65,535 further pulses are lost, OVF is set and E94 raised once (R10, R341). -/
def Hw.backlog (h : Hw) (n k : Nat) : Hw :=
  let v := h.fld (PLS_OUT_BACKLOG n) + k
  if v < 65535 then h.setFld (PLS_OUT_BACKLOG n) v
  else
    let h := h.setFld (PLS_OUT_BACKLOG n) 65535
    if h.flag (PLS_OUT_CFG_OVF n) ∨ k = 0 then h else (h.setFlag (PLS_OUT_CFG_OVF n) true).raise 94

/-- An increment of an output's source in register units (R340). -/
def Hw.pulseAdd (h : Hw) (n dE : Nat) : Hw :=
  if h.flag (PLS_OUT_CFG_EN n) = false ∨ h.fld (PLS_OUT_CONST n) = 0 then h
  else
    let p := h.pulseOut n
    let a := p.acc + dE * h.fld (PLS_OUT_CONST n)
    (h.setPulseOut n { p with acc := a % 1000000000 }).backlog n (a / 1000000000)

/-- Quantities of a feeder that QTY selects. -/
def qtyHas (sel q : Nat) : Bool :=
  match sel with
  | 1 => q == 1 | 2 => q == 2 || q == 3 | 3 => q == 4 || q == 5 | 4 => q == 6 | _ => q == 0

/-- Units added to quantity `q` of feeder `f` feed the outputs of that source. -/
def Hw.pulseFeed (f q dE : Nat) (h : Hw) : Hw :=
  (List.range 8).foldl (fun h n =>
    if h.fld (PLS_OUT_CFG_SRC n) = 0 ∧ h.fld (PLS_OUT_CFG_FEED n) = f ∧ qtyHas (h.fld (PLS_OUT_CFG_QTY n)) q = true then
      h.pulseAdd n dE else h) h

/-- Units added to heat channel `c`. -/
def Hw.pulseHeat (c dE : Nat) (h : Hw) : Hw :=
  (List.range 8).foldl (fun h n =>
    if h.fld (PLS_OUT_CFG_SRC n) = 1 ∧ h.fld (PLS_OUT_CFG_HCH n) = c then h.pulseAdd n dE else h) h

/-- The gap after an output's previous pulse has not ended. -/
def Hw.inGap (h : Hw) (n : Nat) : Bool :=
  match (h.pulseOut n).gap with
  | some t => !atOrAfter h.tfree t
  | none => false

/-- A pulse starts once the previous one and its gap have ended (R341). -/
def pulseEmit (n : Nat) (h : Hw) : Hw :=
  let p := h.pulseOut n
  if h.flag (PLS_OUT_CFG_EN n) = false ∨ (p.on || h.inGap n) = true ∨ h.fld (PLS_OUT_BACKLOG n) = 0 then h
  else ((h.setPulseOut n { p with on := true }).setFld (PLS_OUT_BACKLOG n) (h.fld (PLS_OUT_BACKLOG n) - 1)).countW (PLS_OUT_COUNT n) 1

/-- A pulse ends and its gap of WIDTH ms begins. -/
def pulseEnd (n : Nat) (h : Hw) : Hw :=
  let p := h.pulseOut n
  if p.on then
    h.setPulseOut n { p with on := false, gap := some ((h.tfree + h.fld (PLS_OUT_CFG_WIDTH n) * 1000000) % 2 ^ 64) }
  else h

/-- Level of a pulse output's pin. -/
def Hw.pulsePin (h : Hw) (n : Nat) : Bool := (h.pulseOut n).on != h.flag (PLS_OUT_CFG_POL n)

/-- A write to the configuration of an enabled output clears A and BACKLOG (R341). -/
def Hw.pulseClear (h : Hw) (n : Nat) : Hw :=
  if h.flag (PLS_OUT_CFG_EN n) then (h.setPulseOut n { h.pulseOut n with acc := 0 }).setFld (PLS_OUT_BACKLOG n) 0 else h

/-- A write of PLS.OUTn_CFG (R341, R344). -/
def pulseOutCfg (n v : Nat) (h : Hw) : Hw :=
  let h := h.pulseClear n
  let h := ((h.setFld (PLS_OUT_CFG_EN n) (bits v 0 1)).setFld (PLS_OUT_CFG_SRC n) (bits v 1 1)).setFld (PLS_OUT_CFG_FEED n) (bits v 2 3)
  let h := (h.setFld (PLS_OUT_CFG_QTY n) (if 4 < bits v 5 3 then 0 else bits v 5 3)).setFld (PLS_OUT_CFG_HCH n) (bits v 8 10)
  let h := (h.setFld (PLS_OUT_CFG_WIDTH n) (max 1 (bits v 18 8))).setFld (PLS_OUT_CFG_POL n) (bits v 26 1)
  if bitOf v 27 then h.setFlag (PLS_OUT_CFG_OVF n) false else h

/-! ## Saves (R328-R330) -/

/-- Feeders and heat channels that a save holds. -/
def Hw.saveFeeders (h : Hw) : List Nat := (List.range 8).filter h.fEn
def Hw.saveHeat (h : Hw) : List Nat := (List.range 1024).filter fun c => h.flag (BIL_HCFG_EN c)

/-- TYPEs of BILLING records: saves (log entry 9, DESIGN CHOICE) and GAP records (R332). -/
def saveType : Nat := 0x3001
def gapType : Nat := 0x3002

def Purpose.isBilling (p : Purpose) : Bool :=
  match p with
  | .billing => true
  | _ => false

/-- Requests of a billing save that still wait. -/
def Hw.billWaits (h : Hw) : Bool := (h.nvm.reqs ++ (h.nvm.open_.map (·.2)).flatten).any fun r => r.purpose.isBilling

/-- A save is abandoned (R330): its requests are withdrawn, and what its transaction has written never counts (R498). -/
def Hw.saveAbandon (h : Hw) : Hw :=
  let keep (l : List NvmReq) := l.filter fun r => !r.purpose.isBilling
  let dead := match h.bil.run with
    | some r => if r.written then [r.tx] else []
    | none => []
  let h := { h with nvm := { h.nvm with
    reqs := keep h.nvm.reqs, open_ := Tab.mapVal h.nvm.open_ fun _ l => keep l,
    txPart := h.nvm.txPart.filter fun x => !dead.contains x, txDead := dead ++ h.nvm.txDead } }
  let h := (h.setBil fun b => { b with run := none }).setFlag BIL_STAT_SAVEBUSY false
  (((h.countS BIL_SAVEFAILCNT_COUNT BIL_SAVEFAILCNT_SAT 95 1).setFlag BIL_STAT_SAVEFAIL true).raise 92)

/-- All sets are captured: the save goes to the record store as one transaction of four records (R329; the bytes of its
registers are not laid out, log entry 14, DESIGN CHOICE). -/
def Hw.saveReady (h : Hw) : Hw :=
  match h.bil.run with
  | none => h
  | some r =>
    if r.feeders ≠ [] ∨ r.heat = true ∨ r.written = true then h
    else
      let pulses := (List.range 32).foldl (fun (t : Tab Nat) n => Tab.put t n (h.fld (PLS_IN_CNT n))) []
      let accs := (List.range 8).foldl (fun (t : Tab Nat) n => Tab.put t n (h.pulseOut n).acc) []
      let tsw := (List.range 16).map fun n => (h.fld (BIL_TSW_TIME n), h.fld (BIL_TSW_CTL_TAR n), h.flag (BIL_TSW_CTL_VALID n))
      let got := { r.got with pulses := pulses, accs := accs, tsw := tsw, tar := h.fld BIL_TARCUR_TAR }
      let len := (640 + 280 * h.saveFeeders.length + 10 * h.saveHeat.length + 3) / 4
      let x := h.nvm.txNext
      let reqs := (List.range 4).map fun i =>
        (⟨saveType, got.seq % 2 * 4 + i, toBytes len (Config.freeNat (h.free + i) % 2 ^ (8 * len)), x, i == 3, .billing⟩ : NvmReq)
      let n := { h.nvm with reqs := h.nvm.reqs ++ reqs, txNext := x + 1, txPart := x :: h.nvm.txPart }
      let h := { h with nvm := n, free := h.free + 4 }
      ((h.setBil fun b => { b with run := some { r with got := got, written := true, tx := x } }).setFlag BIL_STAT_SAVEBUSY true).place

/-- A save falls due (R328, R330). -/
def Hw.saveDue (h : Hw) (t : Nat) : Hw :=
  let h := if h.bil.run.isSome then h.saveAbandon else h
  let got : BillSave := ⟨(h.fld BIL_SAVESEQ_SEQ + 1) % 2 ^ 32, t, [], [], [], [], 0⟩
  (h.setBil fun b => { b with run := some ⟨h.saveFeeders, !h.saveHeat.isEmpty, false, got, false, 0, false⟩ }).saveReady

/-- A set's values enter the save under way. -/
def Hw.capture (h : Hw) (idxs : List Nat) (upd : SaveRun → SaveRun) : Hw :=
  match h.bil.run with
  | none => h
  | some r =>
    let vals := idxs.foldl (fun (t : Tab Nat) i => Tab.put t i (h.bilVal i)) r.got.vals
    (h.setBil fun b => { b with run := some (upd { r with got := { r.got with vals := vals } }) }).saveReady

/-- The network time of a periodic save: whole seconds (R328). -/
def Hw.saveTime (h : Hw) : Nat := h.nt / 1000000000 * 1000000000

/-- Whole seconds since metering started. -/
def Hw.meterSecs (h : Hw) : Nat := h.elapsed h.mtr.began / 1000000000

/-- A periodic save is due (R328): at its phase on a clock that is LOCKED or in HOLDOVER, else every PERIOD seconds from the start of
metering. -/
def Hw.saveAtTime (h : Hw) : Bool :=
  let p := h.fld BIL_SAVECFG_PERIOD
  if clkLocked ≤ h.fld TIM_STAT_STATE then h.nt / 1000000000 % p == h.fld BIL_SAVECFG_PHASE
  else h.meterSecs != 0 && h.meterSecs % p == 0

/-- A periodic save falls due. -/
def periodicSave (h : Hw) : Hw := if h.saveAtTime then h.saveDue h.saveTime else h

/-- The last commit group of a save has committed (R329); one of which a request failed never does. -/
def saveDone (h : Hw) : Hw :=
  match h.bil.run with
  | none => h
  | some r =>
    if r.written = false ∨ (r.failed || h.billWaits) = true then h
    else
      let h := (h.setBil fun b => { b with run := none, saves := r.got :: b.saves.take 1 }).setFlag BIL_STAT_SAVEBUSY false
      ((h.countW BIL_SAVESEQ_SEQ 1).setFld BIL_SAVETIME_VALUE r.got.t).raise 91

/-! ## Tariffs (R314-R316) -/

/-- Entries due at a network time. -/
def Hw.tswDue (h : Hw) (t : Nat) : List Nat :=
  (List.range 16).filter fun n => h.flag (BIL_TSW_CTL_VALID n) && atOrAfter t (h.fld (BIL_TSW_TIME n))

/-- The due entry with the latest TIME, the higher number on a tie. -/
def Hw.tswLatest (h : Hw) (l : List Nat) : Option Nat :=
  l.foldl (fun (b : Option Nat) n =>
    match b with
    | none => some n
    | some m => if atOrAfter (h.fld (BIL_TSW_TIME n)) (h.fld (BIL_TSW_TIME m)) then some n else some m) none

/-- TWAIT at any moment (R315): some entry would be due on the free-running clock. -/
def Hw.twait (h : Hw) : Bool := decide (h.fld TIM_STAT_STATE < clkLocked) && !(h.tswDue h.nt).isEmpty

/-- A due tariff switch is applied at an interval end. -/
def Hw.tariffStep (h : Hw) : Hw :=
  if h.fld TIM_STAT_STATE < clkLocked then h
  else
    let due := h.tswDue h.nt
    match h.tswLatest due with
    | none => h
    | some m =>
      let h := due.foldl (fun h n =>
        let h := h.setFlag (BIL_TSW_CTL_VALID n) false
        if n = m then h else h.setFlag (BIL_TSW_CTL_SKIPPED n) true) h
      let old := h.fld BIL_TARCUR_TAR
      let new := h.fld (BIL_TSW_CTL_TAR m)
      if old = new then h
      else ((h.setFld BIL_TARCUR_TAR new).raise 89).record 0x058 19 0 (old + new * 4 + m * 16)

/-! ## Intervals (R309, R310, R325) -/

/-- The interval's samples by phase, voltage with current: those for which all of the feeder's channels delivered one (R303). -/
def Hw.ivlMeas (h : Hw) (f a b : Nat) : List (List (Config.Meas × Config.Meas)) :=
  let cur := (List.range 3).map fun p => h.meas (curCh f p) a b
  let vol := (List.range 3).map fun p => h.volMeas f p a b
  let whole (no : Nat) := (cur ++ vol).all fun l => l.any fun m => m.no == no
  (vol.zip cur).map fun x => (joined x.1 x.2).filter fun y => whole y.1.no

/-- The tariff in force at the interval's first sample (R310). -/
def Hw.ivlTariff (h : Hw) (f a b : Nat) : Nat :=
  match h.inWindow (curCh f 0) a b with
  | s :: _ => s.tar
  | [] => h.fld BIL_TARCUR_TAR

/-- All samples of an interval in one list. -/
def ivlAll (m : List (List (Config.Meas × Config.Meas))) : List Config.Meas := (m.flatten.map fun x => [x.1, x.2]).flatten

/-- A sum of products at 2^-356 over samples of 1/8,000 s, as energy at 2^-24 of a millionth of an hour's unit (R311). -/
def energyNum (x : Nat) : Nat := x * 1000000 * 2 ^ 24
def energyDen : Nat := 3600 * 8000 * 2 ^ 356

/-- The net active and reactive energy of an interval over the three phases (R310), at 2^-24 of a unit. -/
def netEnergy (reactive : Bool) (m : List (List (Config.Meas × Config.Meas))) : Int :=
  if !knownK (ivlAll m) then Config.energyOpen (if reactive then 1 else 0) (ivlAll m)
  else
    let x := (m.flatten.map fun y => physical y.1 (if reactive then y.1.shift else y.1.code) * physical y.2 y.2.code).sum
    nearQuot (x * (energyNum 1 : Int)) energyDen

/-- The apparent energy (R310): by phase the RMS of the voltage times the RMS of the current times the length, which is the root of the
product of the sums of squares. -/
def apparentEnergy (m : List (List (Config.Meas × Config.Meas))) : Nat :=
  if !knownK (ivlAll m) then (Config.energyOpen 2 (ivlAll m)).toNat
  else (m.map fun ph =>
    let sq (l : List Config.Meas) : Nat := ((l.map fun y => physical y y.code * physical y y.code).sum).toNat
    let x := sq (ph.map (·.1)) * sq (ph.map (·.2))
    nearRoot (energyNum (energyNum x)) (energyDen * energyDen)).sum

/-- The quadrant of a reactive energy (R310). -/
def quadrant (p q : Int) : Nat := if 0 < q then (if 0 ≤ p then 2 else 3) else (if 0 ≤ p then 5 else 4)

/-- The energies of an interval by quantity, at 2^-24 of a unit (R310). -/
def splitEnergy (p q : Int) (s : Nat) : List (Nat × Nat) :=
  [(if 0 ≤ p then 0 else 1, p.natAbs)] ++ (if q = 0 then [] else [(quadrant p q, q.natAbs)]) ++ [(6, s)]

/-- The energy of the interval up to a sample is added, then the pulse outputs take the units added. -/
def Hw.ivlEnergy (h : Hw) (f last : Nat) : Hw :=
  let a := (h.feed f).ivl * sampleUnit
  let b := last * sampleUnit
  let m := h.ivlMeas f a b
  if (h.flag BIL_CTRL_EN && !(ivlAll m).isEmpty && !h.bil.stopped) = false then h
  else
    let t := h.ivlTariff f a b
    let r := (splitEnergy (netEnergy false m) (netEnergy true m) (apparentEnergy m)).foldl (fun (x : Hw × List (Nat × Nat)) e =>
      let y := x.1.addEnergy (feedIdx f e.1 t) e.2
      (y.1, x.2 ++ [(e.1, y.2)])) (h, [])
    r.2.foldl (fun (h : Hw) (e : Nat × Nat) => h.pulseFeed f e.1 e.2) r.1

/-- A pending latch of a feeder is taken (R324). -/
def Hw.snapFeeder (h : Hw) (f : Nat) : Hw :=
  if h.fldBit BIL_SNAPSTAT_FPEND f = false then h
  else
    let h := (feedIdxs f).foldl (fun h i =>
      (h.setFld (bilLat i) (h.fld (bilReg i))).setFld (bilLatWrap i) (h.fld (bilWrap i))) h
    (((h.setFld (BIL_LTIME f) h.nt).setFldBit BIL_SNAPSTAT_FPEND f false).setFldBit BIL_SNAPSTAT_FDONE f true).raise 90

/-- A pending capture of a feeder is taken (R328). -/
def Hw.captureFeeder (h : Hw) (f : Nat) : Hw :=
  match h.bil.run with
  | some r => if r.feeders.contains f then h.capture (feedIdxs f) fun r => { r with feeders := r.feeders.erase f } else h
  | none => h

/-- The sample with which a feeder's interval can end now (R309): the one at which LOCKED was left; in LOCKED the newest, at a crossing,
with at most 178 samples in that state; else the 160th, of a feeder that delivers no samples the newest. -/
def Hw.ivlLast (h : Hw) (f : Nat) : Option Nat :=
  let x := h.feed f
  let n := h.mtr.num
  match x.left with
  | some k => some (min k (x.ivl + 400))
  | none =>
    if h.fEn f = false then none
    else if h.tracker f = trLocked then (if x.ivl < n then some (min n (max x.ivl x.locked + 178)) else none)
    else if x.ivl + 160 ≤ n then some (x.ivl + 160)
    else if h.feedReady f then none else some n

/-- A billing interval of a feeder ends (R309, R325). -/
def intervalEnd (f : Nat) (h : Hw) : Hw :=
  match h.ivlLast f with
  | none => h
  | some k =>
    let h := (((h.ivlEnergy f k).tariffStep).snapFeeder f).captureFeeder f
    let x := h.feed f
    h.setFeed f { x with ivl := k, left := if x.left = some k then none else x.left }

/-! ## Latches (R324) -/

def snap (fmask : BitVec 8) (heat : Bool) (h : Hw) : Hw :=
  let h := h.setFld BIL_SNAPSTAT_FPEND (h.fld BIL_SNAPSTAT_FPEND ||| fmask.toNat)
  if heat then h.setFlag BIL_SNAPSTAT_HPEND true else h

/-- A frame starts: a pending heat latch and a heat capture belong to it (R324, R328). -/
def Hw.heatArm (h : Hw) : Hw :=
  h.setBil fun b => { b with
    snapArm := h.flag BIL_SNAPSTAT_HPEND, run := b.run.map fun (r : SaveRun) => { r with armed := true } }

/-- F+600 us: the heat set's latch and capture of this frame. -/
def heatSnapshot (h : Hw) : Hw :=
  let h := if (h.flag BIL_SNAPSTAT_HPEND && h.bil.snapArm) = false then h
    else
      let h := heatIdxs.foldl (fun h i =>
        (h.setFld (bilLat i) (h.fld (bilReg i))).setFld (bilLatWrap i) (h.fld (bilWrap i))) h
      let h := (h.setBil fun b => { b with snapArm := false }).setFld BIL_HLFNUM_VALUE (h.fld FRM_FNUM)
      ((h.setFlag BIL_SNAPSTAT_HPEND false).setFlag BIL_SNAPSTAT_HDONE true).raise 90
  match h.bil.run with
  | some r => if r.heat && r.armed then h.capture (h.saveHeat.map heatIdx) fun r => { r with heat := false } else h
  | none => h

/-! ## Heat channels (R317-R323) -/

/-- A temperature lies in 2-150 degrees (R321). -/
def inHeatRange (w : Word) : Bool :=
  match exactF32 w with
  | some x => decide (2 * 2 ^ 149 ≤ x) && decide (x ≤ 150 * 2 ^ 149)
  | none => false

/-- a - b exceeds DTMIN hundredths of a kelvin. -/
def exceeds (a b : Word) (dt : Nat) : Bool :=
  match exactF32 a, exactF32 b with
  | some x, some y => decide (dt * 2 ^ 149 < 100 * (x - y))
  | _, _ => false

/-- A point as an update reads it from the IN image, a transaction of M19 (R34, R317); a refused read delivers no point (log entry 184,
DESIGN CHOICE: it counts as one that is not GOOD). -/
def Hw.heatPoint (h : Hw) (p : Nat) : Option Point :=
  if (h.rangeRefused 19 0 (0x21000000 + 8 * p) 8).isSome then none else some (h.inPoint p)

/-- The value of a read point, and whether it is GOOD. -/
def pointGood (p : Option Point) : Bool := p.any fun x => x.has stGood
def pointVal (p : Option Point) : Word := (p.map (·.val)).getD 0#32

/-- Points an update reads: flow, where FSRC selects it, forward and return temperature. -/
def Hw.heatReads (h : Hw) (c : Nat) : List Nat :=
  (if h.flag (BIL_HCFG_FSRC c) then [] else [h.fld (BIL_HCFG_FPT c)]) ++ [h.fld (BIL_HCFG_TFPT c), h.fld (BIL_HCFG_TRPT c)]

/-- The faults of an update as the bits [21:18] of HCFG: TBAD, FBAD, RANGE, REVERSE (R321). -/
def heatFaults (h : Hw) (c : Nat) : Nat :=
  let tf := h.heatPoint (h.fld (BIL_HCFG_TFPT c))
  let tr := h.heatPoint (h.fld (BIL_HCFG_TRPT c))
  let (f, r) := (pointVal tf, pointVal tr)
  let cold := h.flag (BIL_HCFG_MODE c)
  let dt := h.fld (BIL_HCFG_DTMIN c)
  b2n (!pointGood tf || !pointGood tr)
    + 2 * b2n (!h.flag (BIL_HCFG_FSRC c) && !pointGood (h.heatPoint (h.fld (BIL_HCFG_FPT c))))
    + 4 * b2n (tf.isSome && !inHeatRange f || tr.isSome && !inHeatRange r)
    + 8 * b2n (tf.isSome && tr.isSome && (if cold then exceeds f r dt else exceeds r f dt))

/-- Density or enthalpy of water at a temperature of 2-150 degrees (R320), at 2^-32: a table entry, or the interpolation between the
entries around it. -/
def waterAt (enthalpy : Bool) (w : Word) : Int :=
  let x := ((exactF32 w).getD 0 - 2 * 2 ^ 149).toNat
  let i := x / 2 ^ 148
  if x % 2 ^ 148 = 0 then Config.water enthalpy i
  else Config.cubic ((List.range 4).map fun k => Config.water enthalpy (i + k - 1)) (x % 2 ^ 148)

/-- The energy of an update at 2^-24 mWh (R318, R319): V from the flow Q in m3/h or from pulses of K litres, times density and enthalpy
difference, times 1,000 / 3.6. A negative Q or K, or one that is no number, leaves the value open (log entry 185, DESIGN CHOICE). -/
def heatEnergy (pulse : Bool) (q : Word) (dn : Nat) (tv ta tb : Word) : Nat :=
  let (n, d) : Int × Nat := if pulse then (dn * (exactF32 q).getD 0, 1000) else ((exactF32 q).getD 0, 3600)
  let e := n * waterAt false tv * (waterAt true ta - waterAt true tb)
  if (exactF32 q).isNone || decide (n < 0) then Config.heatOpen pulse q dn tv ta tb
  else (nearQuot (e * 10000 * 2 ^ 24) (d * 36 * 2 ^ (149 + 64))).toNat

/-- The matching flags are set; the first setting of a flag raises E93. -/
def Hw.heatFlags (h : Hw) (c m : Nat) : Hw :=
  let old := h.fld (BIL_HCFG_TBAD c) + 2 * h.fld (BIL_HCFG_FBAD c) + 4 * h.fld (BIL_HCFG_RANGE c) + 8 * h.fld (BIL_HCFG_REVERSE c)
  let new := old ||| m
  let h := ((h.setFld (BIL_HCFG_TBAD c) (bits new 0 1)).setFld (BIL_HCFG_FBAD c) (bits new 1 1)).setFld (BIL_HCFG_RANGE c) (bits new 2 1)
  let h := h.setFld (BIL_HCFG_REVERSE c) (bits new 3 1)
  if new = old then h else h.raise 93

/-- An update of a channel (R317-R323). Its pulse-input baseline follows in any case. -/
def Hw.heatUpdate (counts : Bool) (h : Hw) (c : Nat) : Hw :=
  if h.flag (BIL_HCFG_EN c) = false then h
  else
    let cnt := h.fld (PLS_IN_CNT (h.fld (BIL_HCFG_PIN c)))
    let dn := (cnt + 2 ^ 64 - Tab.getD h.bil.base c 0) % 2 ^ 64
    let h := h.setBil fun b => { b with base := Tab.put b.base c cnt }
    if !counts then h
    else
      let m := heatFaults h c
      let h := (h.heatReads c).foldl (fun h p => h.noteRead 19 0 (0x21000000 + 8 * p) 8) h
      if m ≠ 0 then (h.countS BIL_HSKIPCNT_COUNT BIL_HSKIPCNT_SAT 95 1).heatFlags c m
      else
        let tf := (h.inPoint (h.fld (BIL_HCFG_TFPT c))).val
        let tr := (h.inPoint (h.fld (BIL_HCFG_TRPT c))).val
        let cold := h.flag (BIL_HCFG_MODE c)
        let (ta, tb) := if cold then (tr, tf) else (tf, tr)
        if !exceeds ta tb (h.fld (BIL_HCFG_DTMIN c)) then h
        else
          let pulse := h.flag (BIL_HCFG_FSRC c)
          let q := if pulse then BitVec.ofNat 32 (h.fld (PLS_IN_K (h.fld (BIL_HCFG_PIN c)))) else (h.inPoint (h.fld (BIL_HCFG_FPT c))).val
          let e := heatEnergy pulse q dn (if h.flag (BIL_HCFG_MOUNT c) then tf else tr) ta tb
          let (h, n) := h.addEnergy (heatIdx c) e
          h.pulseHeat c n

/-- The updates of a frame; `counts` is false while the Watch holds them back (R317, R337). -/
def Hw.heatUpdates (counts : Bool) (h : Hw) : Hw :=
  if h.flag BIL_CTRL_HEATEN = false ∨ h.bil.stopped = true then h
  else
    let c := h.fld FRM_FNUM % 1000
    let h := h.heatUpdate counts c
    if c < 24 then h.heatUpdate counts (c + 1000) else h

/-- A point word names an F32 point of a used zone (R322). -/
def Hw.heatPointOk (h : Hw) (p : Nat) : Bool := !h.isUnused p && h.pointType p == 4

/-- A write of a channel's configuration words (R322). -/
def heatCfg (c word v : Nat) (h : Hw) : Hw :=
  let on := h.flag (BIL_HCFG_EN c)
  if word ≠ 0 then
    if on then h
    else h.setFld (if word = 1 then BIL_HCFG_FPT c else if word = 2 then BIL_HCFG_TFPT c else BIL_HCFG_TRPT c) v
  else
    let clr (i : Nat) (f : Fld) (h : Hw) : Hw := if bitOf v i then h.setFld f 0 else h
    let h := clr 21 (BIL_HCFG_REVERSE c) (clr 20 (BIL_HCFG_RANGE c) (clr 19 (BIL_HCFG_FBAD c) (clr 18 (BIL_HCFG_TBAD c)
      (clr 17 (BIL_HCFG_CFGREF c) h))))
    if on then h.setFld (BIL_HCFG_EN c) (bits v 0 1)
    else
      let h := ((h.setFld (BIL_HCFG_MODE c) (bits v 1 1)).setFld (BIL_HCFG_MOUNT c) (bits v 2 1)).setFld (BIL_HCFG_FSRC c) (bits v 3 1)
      let h := (h.setFld (BIL_HCFG_PIN c) (bits v 4 5)).setFld (BIL_HCFG_DTMIN c) (bits v 9 8)
      if !bitOf v 0 then h
      else if (bitOf v 3 || h.heatPointOk (h.fld (BIL_HCFG_FPT c))) && h.heatPointOk (h.fld (BIL_HCFG_TFPT c))
          && h.heatPointOk (h.fld (BIL_HCFG_TRPT c)) then
        (h.setFlag (BIL_HCFG_EN c) true).setBil fun b => { b with base := Tab.put b.base c (h.fld (PLS_IN_CNT (bits v 4 5))) }
      else h.setFlag (BIL_HCFG_CFGREF c) true

/-! ## Clearing, errors, configuration (R333, R335, R336, R343) -/

/-- Billing, latched and GAP registers with their wrap counts, by address. -/
def isBilArray (a : Nat) : Bool :=
  let o := a - bilAddr 0
  decide (bilAddr 0 ≤ a) && decide (o < 0xC000) && (decide (0x4000 ≤ o) || (decide (0x800 ≤ o) && decide (o < 0x2800) && o % 0x100 != 0xE0)
    || (decide (0x1000 ≤ o) && decide (o < 0x1400)) || (decide (0x1C00 ≤ o) && decide (o < 0x2000)))

/-- GAP registers by address. -/
def isGapArray (a : Nat) : Bool :=
  let o := a - bilAddr 0
  decide (bilAddr 0 ≤ a) && ((decide (0x2000 ≤ o) && decide (o < 0x2800)) || (decide (0xA000 ≤ o) && decide (o < 0xC000)))

/-- Every register whose address satisfies `p` returns to 0. -/
def Hw.zeroFlds (h : Hw) (p : Nat → Bool) : Hw := { h with flds := Tab.keep h.flds fun k _ => !p (k / 64) }

def bilClear (h : Hw) : Hw :=
  if h.flag MTR_CTRL_CALLOCK then h.setFlag BIL_STAT_CLRREF true
  else ((h.zeroFlds isBilArray).recordFree 0x05C 19 0).saveDue h.nt

def gapClear (h : Hw) : Hw := (h.zeroFlds isGapArray).setFld BIL_GAPSTAT_STATE 0 |>.setFld BIL_GAPSTAT_NENT 0

/-- The value of a register in the last committed save; 0 where it holds none. -/
def Bil.savedVal (b : Bil) (i : Nat) : Nat :=
  match b.saves with
  | s :: _ => Tab.getD s.vals i 0
  | [] => 0

/-- An error in a billing register (R336); a corrected one is counted (R343). -/
def bilError (i : Nat) (corrected : Bool) (h : Hw) : Hw :=
  if corrected then h.countS BIL_ECCCNT_COUNT BIL_ECCCNT_SAT 95 1
  else if 224 ≤ i ∧ i < 256 then h
  else ((h.setBilVal i (h.bil.savedVal i)).raise 95).record 0x05D 19 0 i

def saveCfg (period phase : Nat) (h : Hw) : Hw :=
  if period < 60 ∨ 3600 < period ∨ period ≤ phase then h
  else (h.setFld BIL_SAVECFG_PERIOD period).setFld BIL_SAVECFG_PHASE phase

/-- A filtered edge of a pulse input (R339). -/
def pulseEdge (n : Nat) (falling : Bool) (h : Hw) : Hw :=
  if h.flag (PLS_IN_CFG_EN n) && h.flag (PLS_IN_CFG_EDGE n) == falling && !h.bil.stopped then h.countW (PLS_IN_CNT n) 1 else h

/-! ## The gap and the start (R331-R333) -/

/-- GAP of every register that is not 0. -/
def Hw.gapVals (h : Hw) : List (Nat × Nat) :=
  (allIdxs.map fun i => (i, (h.bilVal i + 2 ^ 80 - h.bil.savedVal i) % 2 ^ 80)).filter fun e => e.2 != 0

/-- The power-fail indication (R332): open intervals end, counting stops; the record's parameter holds the entries and the
active import in mWh. -/
def Hw.gapCapture (h : Hw) : Hw :=
  let h := (List.range 8).foldl (fun (h : Hw) f => if h.fEn f then
    let k := h.mtr.num
    let h := h.ivlEnergy f k
    h.setFeed f { h.feed f with ivl := k, left := none } else h) h
  let g := h.gapVals
  let imp := ((g.filter fun e => decide (e.1 < 224) && e.1 % 28 < 4).map (·.2)).sum / 1000
  ((h.setBil fun b => { b with stopped := true }).setFld BIL_GAPTIME_VALUE h.nt).record 0x05A 19 0 (g.length + imp % 2 ^ 48 * 2 ^ 16)

/-- Payloads of the GAP records by KEY (R332). -/
def gapPayload (g : List (Nat × Nat)) (k : Nat) : List Byte :=
  let es := (g.drop (404 * k)).take 404
  if es = [] then [] else toBytes 2 es.length ++ (es.map fun e => toBytes 2 e.1 ++ toBytes 8 (e.2 % 2 ^ 64)).flatten

/-- At a start the GAP registers hold the captured values, or STATE is UNKNOWN (R333). -/
def Hw.gapResume (h : Hw) (ok : Bool) : Hw :=
  let h := h.zeroFlds isGapArray
  match h.bil.gap, ok with
  | some g, true =>
    let h := g.vals.foldl (fun (h : Hw) (e : Nat × Nat) => h.setFld (bilGap e.1) e.2) h
    ((h.setFld BIL_GAPSTAT_STATE 1).setFld BIL_GAPSTAT_NENT g.vals.length).setFld BIL_GAPTIME_VALUE g.t
  | _, _ => ((h.setFld BIL_GAPSTAT_STATE 2).setFld BIL_GAPSTAT_NENT 0).raise 95 |>.recordFree 0x05B 19 0

/-- Registers, counts and tables take the values of a save. -/
def Hw.loadSave (h : Hw) (s : BillSave) : Hw :=
  let h := s.vals.foldl (fun (h : Hw) (e : Nat × Nat) => h.setBilVal e.1 e.2) h
  let h := s.pulses.foldl (fun (h : Hw) (e : Nat × Nat) => h.setFld (PLS_IN_CNT e.1) e.2) h
  let h := s.accs.foldl (fun (h : Hw) (e : Nat × Nat) => h.setPulseOut e.1 ⟨e.2, false, none⟩) h
  let h := ((List.range 16).zip s.tsw).foldl (fun (h : Hw) (e : Nat × (Nat × Nat × Bool)) =>
    ((h.setFld (BIL_TSW_TIME e.1) e.2.1).setFld (BIL_TSW_CTL_TAR e.1) e.2.2.1).setFlag (BIL_TSW_CTL_VALID e.1) e.2.2.2) h
  ((h.setFld BIL_TARCUR_TAR s.tar).setFld BIL_SAVESEQ_SEQ s.seq).setFld BIL_SAVETIME_VALUE s.t

/-- Billing resumes at a start (R331, R333): the newest `bad` saves do not read without an uncorrectable error and
are no resume point any more; `gapOk` when the
GAP transaction is committed and the power-down-complete flag present. -/
def Hw.billResume (h : Hw) (bad : Nat) (gapOk : Bool) : Hw :=
  let h := (h.setBil fun b => { b with res := [], base := [], snapArm := false, run := none, stopped := false, out := [] }).zeroFlds isBilArray
  let h := h.setFlag BIL_STAT_RESUMED true
  let h := h.setBil fun b => { b with saves := b.saves.drop bad }
  match h.bil.saves with
  | s :: _ =>
    let old := decide (0 < bad)
    let h := (h.loadSave s).setFlag BIL_STAT_OLDSAVE old
    let h := h.record 0x059 19 0 (s.seq + s.t / 1000000000 % 2 ^ 32 * 2 ^ 32)
    (if old then h.raise 95 else h).gapResume (gapOk && !old)
  | [] => (((h.setFlag BIL_STAT_NOSAVE true).recordFree 0x059 19 0).raise 95).gapResume gapOk

/-! ## Meanings -/

def execBillingIntervalEnd (f : Fin 8) (s : State) : Host.Outcome State Fault Refusal := .next (s.onHw (intervalEnd f.val))
def execSnap (src : Src) (fmask : BitVec 8) (heat : Bool) (s : State) : Host.Outcome State Fault Refusal :=
  .next (s.onHw fun h => h.onlyD0 src (bilAddr 0x20) (snap fmask heat))
def execHeatSnapshot (s : State) : Host.Outcome State Fault Refusal := .next (s.onHw heatSnapshot)
def execSaveDue (s : State) : Host.Outcome State Fault Refusal := .next (s.onHw periodicSave)
def execSavenow (src : Src) (s : State) : Host.Outcome State Fault Refusal :=
  .next (s.onHw fun h => h.onlyD0 src (bilAddr 0x8) fun h => h.saveDue h.nt)
def execSaveDone (s : State) : Host.Outcome State Fault Refusal := .next (s.onHw saveDone)
def execClear (src : Src) (s : State) : Host.Outcome State Fault Refusal :=
  .next (s.onHw fun h => h.onlyD0 src (bilAddr 0x8) bilClear)
def execGapclr (src : Src) (s : State) : Host.Outcome State Fault Refusal :=
  .next (s.onHw fun h => h.onlyD0 src (bilAddr 0x8) gapClear)
def execHeatCfgWrite (src : Src) (c : Fin 1024) (word : Fin 4) (v : BitVec 32) (s : State) : Host.Outcome State Fault Refusal :=
  .next (s.onHw fun h => h.onlyD0 src (bilAddr (0xC000 + 0x10 * c.val + 4 * word.val)) (heatCfg c.val word.val v.toNat))
def execSavecfgWrite (src : Src) (period phase : BitVec 12) (s : State) : Host.Outcome State Fault Refusal :=
  .next (s.onHw fun h => h.onlyD0 src (bilAddr 0xC) (saveCfg period.toNat phase.toNat))
def execBillingRegisterError (i : Fin 1280) (corrected : Bool) (s : State) : Host.Outcome State Fault Refusal :=
  .next (s.onHw (bilError i.val corrected))
def execPulseInputEdge (n : Fin 32) (falling : Bool) (s : State) : Host.Outcome State Fault Refusal :=
  .next (s.onHw (pulseEdge n.val falling))
def execPulseEmit (n : Fin 8) (s : State) : Host.Outcome State Fault Refusal := .next (s.onHw (pulseEmit n.val))
def execPulseOutCfgWrite (src : Src) (n : Fin 8) (v : BitVec 32) (s : State) : Host.Outcome State Fault Refusal :=
  .next (s.onHw fun h => h.onlyD0 src (plsAddr (0x400 + 0x20 * n.val)) (pulseOutCfg n.val v.toNat))
def execPulseEnd (n : Fin 8) (s : State) : Host.Outcome State Fault Refusal := .next (s.onHw (pulseEnd n.val))

end Sys2Proof.Machine
end

