-- ==== Sys2Proof/Machine/DpeCode.lean ====
section
/-! DEFINITION. The encoding of Balsil code (06 R248, R249): the word of each instruction, and its reading. -/

namespace Sys2Proof.Machine

/-- A word from its fields. -/
def balsilWord (opc dst sa sb sc fn imm : Nat) : Word64 :=
  BitVec.ofNat 64 (opc * 2 ^ 56 + dst * 2 ^ 51 + sa * 2 ^ 46 + sb * 2 ^ 41 + sc * 2 ^ 36 + fn * 2 ^ 32 + imm)

/-- A field that names one of 16 registers, one of 8 matrices, or one of 32 vectors (R249). -/
def reg16 (n : Nat) : Option (Fin 16) := if h : n < 16 then some ⟨n, h⟩ else none
def reg8 (n : Nat) : Option (Fin 8) := if h : n < 8 then some ⟨n, h⟩ else none
def reg32 (n : Nat) : Option (Fin 32) := if h : n < 32 then some ⟨n, h⟩ else none

/-- The fields of a word. -/
structure BFields where
  opc : Nat
  dst : Nat
  sa : Nat
  sb : Nat
  sc : Nat
  fn : Nat
  imm : Nat
  deriving DecidableEq, Repr

def bFields (w : Word64) : BFields :=
  ⟨bits w.toNat 56 8, bits w.toNat 51 5, bits w.toNat 46 5, bits w.toNat 41 5, bits w.toNat 36 5, bits w.toNat 32 4, bits w.toNat 0 32⟩

/-- An instruction whose unused fields are 0. -/
def onlyIf (c : Bool) (i : Instr) : Option Instr := if c then some i else none

/-- Scalar instructions. -/
def balsilScalar (f : BFields) : Option Instr := do
  let d ← reg16 f.dst
  let a ← reg16 f.sa
  let b ← reg16 f.sb
  let c ← reg16 f.sc
  let imm := BitVec.ofNat 32 f.imm
  match f.opc with
  | 0x01 => onlyIf (f.sc == 0 && f.fn == 0 && f.imm == 0) (.dIadd d a b)
  | 0x02 => onlyIf (f.sc == 0 && f.fn == 0 && f.imm == 0) (.dIsub d a b)
  | 0x03 => onlyIf (f.sb == 0 && f.sc == 0 && f.fn == 0) (.dIaddi d a imm)
  | 0x04 => onlyIf (f.sa == 0 && f.sb == 0 && f.sc == 0 && f.fn == 0) (.dIli d imm)
  | 0x05 => onlyIf (f.sc == 0 && f.fn == 0 && f.imm == 0) (.dImul d a b)
  | 0x10 => onlyIf (f.sc == 0 && f.fn == 0 && f.imm == 0) (.dFadd d a b)
  | 0x11 => onlyIf (f.sc == 0 && f.fn == 0 && f.imm == 0) (.dFsub d a b)
  | 0x12 => onlyIf (f.sc == 0 && f.fn == 0 && f.imm == 0) (.dFmul d a b)
  | 0x13 => onlyIf (f.fn == 0 && f.imm == 0) (.dFfma d a b c)
  | 0x14 => onlyIf (f.sc == 0 && f.fn == 0 && f.imm == 0) (.dFdiv d a b)
  | 0x15 => onlyIf (f.sb == 0 && f.sc == 0 && f.fn == 0 && f.imm == 0) (.dFsqrt d a)
  | 0x16 =>
    if f.fn = 0 then onlyIf (f.sc == 0 && f.imm == 0) (.dFmm d (.max a b))
    else if f.fn = 1 then onlyIf (f.sc == 0 && f.imm == 0) (.dFmm d (.min a b))
    else onlyIf (f.fn == 2 && f.sb == 0 && f.sc == 0 && f.imm == 0) (.dFmm d (.abs a))
  | 0x17 => onlyIf (f.sa == 0 && f.sb == 0 && f.sc == 0 && f.fn == 0) (.dFli d imm)
  | 0x18 => onlyIf (f.sb == 0 && f.sc == 0 && decide (f.fn ≤ 1) && f.imm == 0) (.dCvt (f.fn == 1) d a)
  | 0x1C => onlyIf (f.sb == 0 && f.sc == 0 && decide (f.fn ≤ 1)) (.dLdw (f.fn == 1) d a imm)
  | 0x1D => onlyIf (f.dst == 0 && f.sc == 0 && decide (f.fn ≤ 1)) (.dStw (f.fn == 1) a b imm)
  | 0x5F => onlyIf (f.dst == 0 && f.sa == 0 && f.sb == 0 && f.sc == 0 && f.fn == 0 && f.imm == 0) .dNop
  | _ => none

/-- Descriptor and vector instructions. -/
def balsilVector (f : BFields) : Option Instr := do
  let d ← reg32 f.dst
  let a ← reg32 f.sa
  let b ← reg32 f.sb
  let c ← reg32 f.sc
  let n ← reg16 f.fn
  match f.opc with
  | 0x20 => do
    let i ← reg16 f.sa
    onlyIf (f.sb == 0 && f.sc == 0 && f.fn == 0 && decide (f.imm < 2 ^ 23)) (.dVdset d i (BitVec.ofNat 23 f.imm))
  | 0x21 => do
    let i ← reg16 f.sb
    let j ← reg16 f.sc
    onlyIf (f.fn == 0 && f.imm == 0) (.dVdsub d a i j)
  | 0x30 => onlyIf (f.sb == 0 && f.sc == 0 && f.fn == 0 && f.imm == 0) (.dVcpy d a)
  | 0x31 => do
    let x ← reg16 f.sc
    onlyIf (f.sa == 0 && f.sb == 0 && f.fn == 0 && f.imm == 0) (.dVset d x)
  | 0x32 => do
    let x ← reg16 f.sc
    onlyIf (f.fn == 0 && f.imm == 0) (.dVaxpy d a b x)
  | 0x33 => do
    let x ← reg16 f.sc
    onlyIf (f.imm == 0) (.dVaxpby d a b x n)
  | 0x34 => onlyIf (f.sc == 0 && f.fn == 0 && f.imm == 0) (.dVmul d a b)
  | 0x35 => onlyIf (f.sc == 0 && f.fn == 0 && f.imm == 0) (.dVdiv d a b)
  | 0x36 =>
    if f.fn = 0 then onlyIf (f.sc == 0 && f.imm == 0) (.dVmm d (.max a b))
    else if f.fn = 1 then onlyIf (f.sc == 0 && f.imm == 0) (.dVmm d (.min a b))
    else onlyIf (f.fn == 2 && f.sb == 0 && f.sc == 0 && f.imm == 0) (.dVmm d (.abs a))
  | 0x37 => onlyIf (f.fn == 0 && f.imm == 0) (.dVproj d a b c)
  | 0x3C => do
    let x ← reg16 f.dst
    onlyIf (f.sb == 0 && f.sc == 0 && decide (f.fn ≤ 2) && f.imm == 0)
      (.dVnrm (if f.fn = 0 then .inf else if f.fn = 1 then .two else .sum) x a)
  | 0x3D => do
    let x ← reg16 f.dst
    onlyIf (f.sc == 0 && f.fn == 0 && f.imm == 0) (.dVdot x a b)
  | _ => none

/-- Sparse instructions. -/
def balsilSparse (f : BFields) : Option Instr := do
  let d ← reg32 f.dst
  let a ← reg32 f.sa
  let b ← reg32 f.sb
  let c ← reg32 f.sc
  let n ← reg16 f.fn
  match f.opc with
  | 0x40 => do
    let m ← reg8 f.sa
    let x ← reg16 f.sc
    onlyIf (f.imm == 0) (.dSpmv d m b x n)
  | 0x41 => do
    let m ← reg8 f.sa
    let x ← reg16 f.sc
    onlyIf (f.imm == 0) (.dSpmvt d m b x n)
  | 0x42 => do
    let x ← reg16 f.sc
    onlyIf (f.sa == 0 && f.imm == 0) (.dSpmvs d b x n)
  | 0x44 => onlyIf (f.dst == 0 && f.sa == 0 && f.fn == 0 && f.imm == 0) (.dLdlf b c)
  | 0x45 => onlyIf (f.sb == 0 && f.sc == 0 && f.fn == 0 && f.imm == 0) (.dTrsvl d a)
  | 0x46 => onlyIf (f.sb == 0 && f.sc == 0 && f.fn == 0 && f.imm == 0) (.dTrsvu d a)
  | 0x47 => onlyIf (f.sb == 0 && f.sc == 0 && f.fn == 0 && f.imm == 0) (.dDsolve d a)
  | _ => none

/-- Condition FN of B over its registers. -/
def balsilCond (f : BFields) (a b : Fin 16) : Option DCond :=
  match f.fn with
  | 0 => if f.sa = 0 ∧ f.sb = 0 then some .always else none
  | 1 => some (.ieq a b)
  | 2 => some (.ine a b)
  | 3 => some (.ilt a b)
  | 4 => some (.ige a b)
  | 5 => some (.flt a b)
  | 6 => some (.fge a b)
  | 7 => if f.sa = 0 ∧ f.sb = 0 then some .nanf else none
  | 8 => if f.sa = 0 ∧ f.sb = 0 then some .brk else none
  | 9 => if f.sb = 0 then some (.izero a) else none
  | 10 => if f.sb = 0 then some (.inonzero a) else none
  | _ => none

/-- Control instructions. -/
def balsilControl (f : BFields) : Option Instr :=
  match f.opc with
  | 0x50 => do
    let a ← reg16 f.sa
    let b ← reg16 f.sb
    let c ← balsilCond f a b
    onlyIf (f.dst == 0 && f.sc == 0 && decide (f.imm < 2 ^ 14)) (.dB c (BitVec.ofNat 14 f.imm))
  | 0x51 => onlyIf (f.dst == 0 && f.sa == 0 && f.sb == 0 && f.sc == 0 && f.fn == 0 && decide (f.imm < 2 ^ 14))
      (.dCall (BitVec.ofNat 14 f.imm))
  | 0x52 => onlyIf (f.dst == 0 && f.sa == 0 && f.sb == 0 && f.sc == 0 && f.fn == 0 && f.imm == 0) .dRet
  | 0x54 => onlyIf (f.dst == 0 && f.sa == 0 && f.sb == 0 && f.sc == 0 && f.fn == 0 && f.imm == 0) .dItmark
  | 0x55 => do
    let a ← reg16 f.sa
    let b ← reg16 f.sb
    onlyIf (f.dst == 0 && f.sc == 0 && f.fn == 0 && f.imm == 0) (.dRpt a b)
  | 0x56 => do
    let d ← reg16 f.dst
    if h : f.fn < 5 then onlyIf (f.sa == 0 && f.sb == 0 && f.sc == 0 && f.imm == 0) (.dGstat ⟨f.fn, h⟩ d) else none
  | 0x57 => onlyIf (f.dst == 0 && f.sa == 0 && f.sb == 0 && f.sc == 0 && f.fn == 0 && f.imm == 0) .dClrf
  | 0x58 => do
    let a ← reg32 f.sa
    let r ← (match f.fn with
      | 1 => some DResult.converged
      | 2 => some DResult.capped
      | 3 => some DResult.primalInfeasible
      | 4 => some DResult.dualInfeasible
      | _ => none)
    onlyIf (f.dst == 0 && f.sb == 0 && f.sc == 0 && f.imm == 0) (.dDone r a)
  | _ => none

/-- The instruction a word spells; `none` is the OPCODE refusal of R249. -/
def balsilDecode (w : Word64) : Option Instr :=
  let f := bFields w
  if f.opc < 0x20 ∨ f.opc = 0x5F then balsilScalar f
  else if f.opc < 0x40 then balsilVector f
  else if f.opc < 0x50 then balsilSparse f
  else balsilControl f

/-- The fields of B's condition: FN, SA, SB. -/
def condFields : DCond → Nat × Nat × Nat
  | .always => (0, 0, 0)
  | .ieq a b => (1, a.val, b.val)
  | .ine a b => (2, a.val, b.val)
  | .ilt a b => (3, a.val, b.val)
  | .ige a b => (4, a.val, b.val)
  | .flt a b => (5, a.val, b.val)
  | .fge a b => (6, a.val, b.val)
  | .nanf => (7, 0, 0)
  | .brk => (8, 0, 0)
  | .izero a => (9, a.val, 0)
  | .inonzero a => (10, a.val, 0)

/-- The fields of a maximum, minimum or absolute value: FN, SA, SB. -/
def mmFields {n : Nat} : DMm (Fin n) → Nat × Nat × Nat
  | .max a b => (0, a.val, b.val)
  | .min a b => (1, a.val, b.val)
  | .abs a => (2, a.val, 0)

/-- The word of a Balsil instruction (R248). -/
def balsilEncode : Instr → Option Word64
  | .dIadd d a b => some (balsilWord 0x01 d.val a.val b.val 0 0 0)
  | .dIsub d a b => some (balsilWord 0x02 d.val a.val b.val 0 0 0)
  | .dIaddi d a imm => some (balsilWord 0x03 d.val a.val 0 0 0 imm.toNat)
  | .dIli d imm => some (balsilWord 0x04 d.val 0 0 0 0 imm.toNat)
  | .dImul d a b => some (balsilWord 0x05 d.val a.val b.val 0 0 0)
  | .dFadd d a b => some (balsilWord 0x10 d.val a.val b.val 0 0 0)
  | .dFsub d a b => some (balsilWord 0x11 d.val a.val b.val 0 0 0)
  | .dFmul d a b => some (balsilWord 0x12 d.val a.val b.val 0 0 0)
  | .dFfma d a b c => some (balsilWord 0x13 d.val a.val b.val c.val 0 0)
  | .dFdiv d a b => some (balsilWord 0x14 d.val a.val b.val 0 0 0)
  | .dFsqrt d a => some (balsilWord 0x15 d.val a.val 0 0 0 0)
  | .dFmm d f => some (balsilWord 0x16 d.val (mmFields f).2.1 (mmFields f).2.2 0 (mmFields f).1 0)
  | .dFli d imm => some (balsilWord 0x17 d.val 0 0 0 0 imm.toNat)
  | .dCvt t d a => some (balsilWord 0x18 d.val a.val 0 0 (b2n t) 0)
  | .dLdw t d a imm => some (balsilWord 0x1C d.val a.val 0 0 (b2n t) imm.toNat)
  | .dStw t a b imm => some (balsilWord 0x1D 0 a.val b.val 0 (b2n t) imm.toNat)
  | .dVdset d a base => some (balsilWord 0x20 d.val a.val 0 0 0 base.toNat)
  | .dVdsub d a b c => some (balsilWord 0x21 d.val a.val b.val c.val 0 0)
  | .dNop => some (balsilWord 0x5F 0 0 0 0 0 0)
  | .dVcpy d a => some (balsilWord 0x30 d.val a.val 0 0 0 0)
  | .dVset d c => some (balsilWord 0x31 d.val 0 0 c.val 0 0)
  | .dVaxpy d a b c => some (balsilWord 0x32 d.val a.val b.val c.val 0 0)
  | .dVaxpby d a b c f => some (balsilWord 0x33 d.val a.val b.val c.val f.val 0)
  | .dVmul d a b => some (balsilWord 0x34 d.val a.val b.val 0 0 0)
  | .dVdiv d a b => some (balsilWord 0x35 d.val a.val b.val 0 0 0)
  | .dVmm d f => some (balsilWord 0x36 d.val (mmFields f).2.1 (mmFields f).2.2 0 (mmFields f).1 0)
  | .dVproj d a b c => some (balsilWord 0x37 d.val a.val b.val c.val 0 0)
  | .dVnrm f d a => some (balsilWord 0x3C d.val a.val 0 0 (match f with | .inf => 0 | .two => 1 | .sum => 2) 0)
  | .dVdot d a b => some (balsilWord 0x3D d.val a.val b.val 0 0 0)
  | .dSpmv d m b c f => some (balsilWord 0x40 d.val m.val b.val c.val f.val 0)
  | .dSpmvt d m b c f => some (balsilWord 0x41 d.val m.val b.val c.val f.val 0)
  | .dSpmvs d b c f => some (balsilWord 0x42 d.val 0 b.val c.val f.val 0)
  | .dLdlf b c => some (balsilWord 0x44 0 0 b.val c.val 0 0)
  | .dTrsvl d a => some (balsilWord 0x45 d.val a.val 0 0 0 0)
  | .dTrsvu d a => some (balsilWord 0x46 d.val a.val 0 0 0 0)
  | .dDsolve d a => some (balsilWord 0x47 d.val a.val 0 0 0 0)
  | .dB c tgt => some (balsilWord 0x50 0 (condFields c).2.1 (condFields c).2.2 0 (condFields c).1 tgt.toNat)
  | .dCall tgt => some (balsilWord 0x51 0 0 0 0 0 tgt.toNat)
  | .dRet => some (balsilWord 0x52 0 0 0 0 0 0)
  | .dItmark => some (balsilWord 0x54 0 0 0 0 0 0)
  | .dRpt a b => some (balsilWord 0x55 0 a.val b.val 0 0 0)
  | .dGstat f d => some (balsilWord 0x56 d.val 0 0 0 f.val 0)
  | .dClrf => some (balsilWord 0x57 0 0 0 0 0 0)
  | .dDone r a => some (balsilWord 0x58 0 a.val 0 0 (match r with
      | .converged => 1 | .capped => 2 | .primalInfeasible => 3 | .dualInfeasible => 4) 0)
  | _ => none

/-- The target of a branch or call. -/
def balsilTarget : Instr → Option Nat
  | .dB _ tgt => some tgt.toNat
  | .dCall tgt => some tgt.toNat
  | _ => none

end Sys2Proof.Machine
end

