-- ==== Sys2Proof/Machine/Dpe.lean ====
section
/-! DEFINITION. The dispatch engine (06): its states, the solve, Balsil instructions, results and the mailbox
(R242-R253, R260-R275). -/

namespace Sys2Proof.Machine

/-! ## States and scratch -/

/-- Codes of DPE.STAT.STATE. -/
def dUnloaded : Nat := 0
def dIdle : Nat := 1
def dLoading : Nat := 2
def dGather : Nat := 3
def dSolving : Nat := 4
def dFinishing : Nat := 5

def Hw.dState (h : Hw) : Nat := h.fld DPE_STAT_STATE
def Hw.setDpe (h : Hw) (f : Dpe → Dpe) : Hw := { h with dpe := f h.dpe }

/-- A solve is under way. -/
def Hw.dActive (h : Hw) : Bool := decide (3 ≤ h.dState) && decide (h.dState ≤ 5)

/-- IDLE, or UNLOADED when neither image is loaded. -/
def Hw.dRest (h : Hw) : Hw :=
  h.setFld DPE_STAT_STATE (if h.flag DPE_STAT_PROGOK || h.flag DPE_STAT_PROBOK then dIdle else dUnloaded)

/-- Bytes of the scratch. -/
def scratchSize : Nat := 2 ^ 23
def Hw.scratchBytes (h : Hw) (a n : Nat) : List Byte := (List.range n).map fun i => Tab.getD h.dpe.scratch (a + i) 0#8
def Hw.scratchWord (h : Hw) (a : Nat) : Word := BitVec.ofNat 32 (ofBytes (h.scratchBytes a 4))

/-- Entries of a table outside [a, a + n) with new bytes there; zeros are not listed. -/
def spliceBytes (t : Tab Byte) (a : Nat) (bs : List Byte) : Tab Byte :=
  let n := bs.length
  (t.filter fun e => decide (e.1 < a)) ++ (((List.range n).zip bs).filterMap fun e => if e.2 = 0#8 then none else some (a + e.1, e.2))
    ++ t.filter fun e => decide (a + n ≤ e.1)

def Hw.setScratch (h : Hw) (a : Nat) (bs : List Byte) : Hw := h.setDpe fun d => { d with scratch := spliceBytes d.scratch a bs }

/-- The words of a range, and bytes of words. -/
def Hw.scratchWords (h : Hw) (a n : Nat) : List Word := (List.range n).map fun i => h.scratchWord (a + 4 * i)
def wordsBytes (ws : List Word) : List Byte := (ws.map fun w => toBytes 4 w.toNat).flatten

/-- Whether two ranges meet. -/
def rangesMeet (a n b m : Nat) : Bool := decide (0 < n) && decide (0 < m) && decide (a < b + m) && decide (b < a + n)

/-- Sections of the loaded problem. -/
def Hw.dSecs (h : Hw) : List DSection := (h.dpe.prob.map (·.secs)).getD []

/-- WARM sections in order, their bytes one after another, and such bytes written back when they fit; then WARMOK (R275). -/
def Hw.warmSecs (h : Hw) : List DSection := h.dSecs.filter fun s => s.warm
def Hw.warmBytes (h : Hw) : List Byte := (h.warmSecs.map fun s => h.scratchBytes s.off s.bytes).flatten
def Hw.warmSize (h : Hw) : Nat := (h.warmSecs.map DSection.bytes).sum
def Hw.putWarm (h : Hw) : List DSection → List Byte → Hw
  | [], _ => h
  | s :: ss, b => (h.setScratch s.off (b.take s.bytes)).putWarm ss (b.drop s.bytes)
def Hw.applyWarm (h : Hw) : Hw :=
  let b := h.dpe.warmIn
  if h.dpe.prob.isNone || b.isEmpty then h
  else
    let h := h.setDpe fun d => { d with warmIn := [] }
    if b.length = h.warmSize then (h.putWarm h.warmSecs b).setFlag DPE_STAT_WARMOK true else h

/-- Why a range may not be written in a solve: outside the scratch (2), or a section other than DATA (3) (R261). -/
def Hw.writeFault (h : Hw) (a n : Nat) : Option Nat :=
  if scratchSize < a + n then some 2
  else if h.dSecs.any fun s => s.typ != 5 && rangesMeet a n s.off s.bytes then some 3 else none

/-! ## Entries of the mailbox (R269-R271) -/

/-- Result codes of the validity word. -/
def cConverged : Nat := 1
def cCapped : Nat := 2
def cInfeasible : Nat := 3
def cLate : Nat := 4
def cAborted : Nat := 5
def cFault : Nat := 6
def cRestored : Nat := 7

/-- Bytes of a section by type. -/
def Hw.secOf (h : Hw) (typ : Nat) : Option DSection := h.dSecs.find? fun s => s.typ == typ

/-- Words of the MAILBOX section: count, validity point, information point, points. -/
def Hw.mailWord (h : Hw) (i : Nat) : Nat :=
  match h.secOf 7 with
  | some s => (h.scratchWord (s.off + 4 * i)).toNat
  | none => 0
def Hw.mailCount (h : Hw) : Nat := bits (h.mailWord 0) 0 13
def Hw.mailPoint (h : Hw) (i : Nat) : Nat := bits (h.mailWord (4 + i)) 0 17
def Hw.mailOpt (h : Hw) (i : Nat) : Option Nat := if bitOf (h.mailWord i) 17 then some (bits (h.mailWord i) 0 17) else none

/-- The entry of a result of the solve (R271). -/
def Hw.dEntry (h : Hw) (code inf : Nat) (vals : List (Nat × (Word × Bool))) (setpts : Bool) : DEntry :=
  let word := code + b2n setpts * 16 + b2n h.dpe.warmAt * 32 + inf * 64 + h.fld DPE_SEQ % 65536 * 65536
  let frames := min (h.fld FRM_FNUM - h.fld DPE_TSTART_FNUM) 65535
  ⟨vals, BitVec.ofNat 32 word, BitVec.ofNat 32 (h.fld DPE_ITER + frames * 65536), h.mailOpt 1, h.mailOpt 2⟩

/-- An entry waits for its F+0; a later staging replaces it (R269). -/
def Hw.stageEntry (h : Hw) (e : DEntry) : Hw :=
  let h := h.setDpe fun d => { d with staged := some e, staging := none }
  ((h.setFlag DPE_STAT_MBFULL true).setFld DPE_LASTVAL_WORD e.word.toNat).setFld DPE_LASTINFO_WORD e.info.toNat

def Hw.dCount (h : Hw) (c s : Fld) : Hw := h.countS c s 79 1

/-- A solve ends with FAULT of a cause (R262, R272). -/
def Hw.dpeFault (h : Hw) (cause : Nat) : Hw :=
  let h := ((h.setFld DPE_FLTINFO_CAUSE cause).setFld DPE_FLTINFO_PC h.dpe.pc).setFlag DPE_STAT_FAULT true
  let h := (h.dCount DPE_FLTCNT_COUNT DPE_FLTCNT_SAT).raise 76
  let h := if cause = 6 then h.setFlag DPE_STAT_WARMOK false else h
  (h.stageEntry (h.dEntry cFault 0 [] false)).setFld DPE_STAT_STATE dIdle

/-- A solve stops as ABORTED, or an entry that waits is replaced by it (R267). -/
def dpeAbort (h : Hw) : Hw :=
  if h.dActive then
    ((h.stageEntry (h.dEntry cAborted 0 [] false)).setFlag DPE_STAT_WARMOK true).setFld DPE_STAT_STATE dIdle
  else match h.dpe.staged with
    | none => h
    | some o =>
      let e := h.dEntry cAborted 0 [] false
      h.stageEntry { e with vpoint := o.vpoint, ipoint := o.ipoint }

/-- The deadline of a solve: LATE is staged (R266). -/
def solveDeadline (h : Hw) : Hw :=
  if h.dActive then
    let h := (h.dCount DPE_LATECNT_COUNT DPE_LATECNT_SAT).setFlag DPE_STAT_LATE true
    (((h.stageEntry (h.dEntry cLate 0 [] false)).setFlag DPE_STAT_WARMOK true).setFld DPE_STAT_STATE dIdle).raise 74
  else h

/-- DPE.CTRL.EN (R277). -/
def dpeEn (on : Bool) (h : Hw) : Hw :=
  let h := h.setFlag DPE_CTRL_EN on
  if !on && h.dActive then dpeAbort h else h

/-! ## The dispatch side at F+0 (R262, R264, R265) -/

/-- The points of an entry and its words. -/
def DEntry.lands (e : DEntry) : List (Nat × (Word × Bool)) :=
  e.vals ++ (match e.vpoint with
    | some p => [(p, (e.word, false))]
    | none => []) ++ (match e.ipoint with
    | some p => [(p, (e.info, false))]
    | none => [])

/-- A mailbox value reaches its point: a landing where the zone is an input zone of source MAILBOX, else dropped (R59-R61). -/
def Hw.landMail (h : Hw) (p : Nat) (v : Word) (clamped : Bool) : Hw :=
  if h.isUnused p then h.countDrop
  else if h.isInput p && h.zoneSrc (zoneOf p) == 3 then h.landPoint p v false clamped
  else h.countDrop.raise 25

/-- An entry lands in the snapshot that follows (R66, R265). -/
def Hw.landEntry (h : Hw) (e : DEntry) : Hw :=
  let h := e.lands.foldl (fun h v => h.landMail v.1 v.2.1 v.2.2) h
  let kept := match h.dpe.landed with
    | some o => if e.vals.isEmpty then o.vals else e.vals
    | none => e.vals
  let h := h.setDpe fun d => { d with staged := none, landed := some { e with vals := kept } }
  ((h.setFld DPE_TLAND_FNUM (h.fld FRM_FNUM)).setFlag DPE_STAT_MBFULL false).raise 73

/-- An entry with CODE RESTORED (R274, R275). -/
def DEntry.restored (e : DEntry) : DEntry :=
  { e with word := BitVec.ofNat 32 (e.word.toNat / 256 * 256 + bits e.word.toNat 5 1 * 32 + 16 + cRestored) }

/-- The first step of R265: a staged or restored entry lands. -/
def Hw.mailboxLanding (h : Hw) : Hw :=
  let h := match h.dpe.restore with
    | some e => (h.setDpe fun d => { d with restore := none }).landEntry e.restored
    | none => h
  match h.dpe.staged with
  | some e => h.landEntry e
  | none => h

/-- The deadline of the running solve is this F+0 (R266). -/
def Hw.atDeadline (h : Hw) : Bool := h.dActive && decide (h.fld DPE_TSTART_FNUM + h.dpe.tcap ≤ h.fld FRM_FNUM)

/-- A solve is due at this F+0 (R262). -/
def Hw.solveDue (h : Hw) : Bool :=
  h.dpe.due || (h.flag DPE_CTRL_AUTO && h.fld FRM_FNUM % h.fld DPE_SCFG_PERIOD == h.fld DPE_SCFG_PHASE)

/-- A due start in any state: the gather begins, or it is skipped and counted (R262). While the port of the memory island or of the
dispatch island is isolated no solve starts (R44; log entry 177, DESIGN CHOICE). -/
def Hw.solveStart (h : Hw) : Hw :=
  let due := h.solveDue
  let h := h.setDpe fun d => { d with due := false }
  if !due || h.dState == dUnloaded || h.bus.isolated.contains 18 || h.bus.isolated.contains 12 then h
  else if h.dState = dIdle ∧ h.flag DPE_CTRL_EN ∧ h.flag DPE_STAT_PROGOK ∧ h.flag DPE_STAT_PROBOK then
    let h := (h.countW DPE_SEQ 1).setFld DPE_TSTART_FNUM (h.fld FRM_FNUM)
    let h := h.setDpe fun d => { d with
      icap := h.fld DPE_CAPS_ICAP, tcap := h.fld DPE_CAPS_TCAP, warmAt := h.flag DPE_STAT_WARMOK, capTaken := false, notGood := 0 }
    ((h.setFld DPE_ITER 0).setFld DPE_CYC 0).setFld DPE_STAT_STATE dGather
  else (h.dCount DPE_SKIPCNT_COUNT DPE_SKIPCNT_SAT).raise 78

/-- Steps 2 and 3 of R265; `works` while the dispatch engine works at all (R586, R588). A SOLVE counts for the next F+0 alone (R262). -/
def Hw.dispatchFrame (h : Hw) (works : Bool) : Hw :=
  let h := if h.atDeadline then solveDeadline h else h
  if works then h.solveStart else h.setDpe fun d => { d with due := false }

/-- The value of a point as FP32 (R264). -/
def gatherValue (typ : Nat) (v : Word) : Word :=
  match typ with
  | 0 => if v.getLsbD 0 then 0x3F800000#32 else 0#32
  | 1 => F32.ofInt v.toInt 0
  | 2 => F32.ofInt v.toNat 0
  | 3 => F32.ofInt v.toInt (-16)
  | _ => v

/-- The gather completes, or fails (R262, R264). -/
def gatherComplete (failed : Bool) (h : Hw) : Hw :=
  if h.dState ≠ dGather then h
  else if failed then ((h.setFlag DPE_STAT_GFAIL true).raise 76).setFld DPE_STAT_STATE dIdle
  else
    match h.secOf 6, h.dpe.prog with
    | some s, some p =>
      let word := fun (i : Nat) => (h.scratchWord (s.off + 4 * i)).toNat
      let cnt := bits (word 0) 0 14
      let pts := (List.range cnt).map fun i => bits (word (4 + i)) 0 17
      let qs := pts.map fun p => (p, h.inPoint p)
      let vec := qs.map fun q => gatherValue (h.pointType q.1) q.2.val
      let good := qs.map fun q => q.2.has stGood
      let bytes := (List.range ((cnt + 7) / 8)).map fun i =>
        BitVec.ofNat 8 (((List.range 8).map fun j => if good.getD (8 * i + j) false then 2 ^ j else 0).sum)
      let h := (h.setScratch (bits (word 1) 0 23) (wordsBytes vec)).setScratch (bits (word 2) 0 23) bytes
      let h := h.setDpe fun d => { d with
        ir := [], fr := [], vd := (List.range 32).zip p.vds, pc := p.start, cst := [], nanf := false, capTaken := false
        notGood := (good.filter fun g => !g).length }
      (h.setFld DPE_STAT_STATE dSolving).raise 72
    | _, _ => h

/-! ## Running instructions (R243, R246, R261) -/

def Hw.iReg (h : Hw) (i : Nat) : Word := Tab.getD h.dpe.ir i 0#32
def Hw.setI (h : Hw) (i : Nat) (v : Word) : Hw := h.setDpe fun d => { d with ir := Tab.put d.ir i v }
def Hw.fReg (h : Hw) (i : Nat) : Word := Tab.getD h.dpe.fr i 0#32
def Hw.putF (h : Hw) (i : Nat) (v : Word) : Hw := h.setDpe fun d => { d with fr := Tab.put d.fr i v }
def Hw.vdOf (h : Hw) (i : Nat) : Nat × Nat := Tab.getD h.dpe.vd i (0, 0)
def Hw.setVd (h : Hw) (i : Nat) (v : Nat × Nat) : Hw := h.setDpe fun d => { d with vd := Tab.put d.vd i v }

/-- A NaN or infinite result sets NANF. -/
def Hw.nanCheck (h : Hw) (ws : List Word) : Hw :=
  if ws.any fun w => F32.isNan w || F32.isInf w then h.setDpe fun d => { d with nanf := true } else h

/-- An FP result into an f register. -/
def Hw.setF (h : Hw) (i : Nat) (v : Word) : Hw := (h.putF i v).nanCheck [v]

/-- An instruction of a solve: PC moves on and its cycles count, or it stops the solve with a fault. -/
def Hw.dpeOp (h : Hw) (cycles : Nat) (f : Hw → Except Nat Hw) : Hw :=
  if h.dState = dSolving then
    match f (h.setDpe fun d => { d with pc := (d.pc + 1) % 2 ^ 14 }) with
    | .error c => h.dpeFault c
    | .ok g => g.countW DPE_CYC cycles
  else h

/-- An instruction that cannot fault. -/
def Hw.dpeDo (h : Hw) (cycles : Nat) (f : Hw → Hw) : Hw := h.dpeOp cycles fun h => .ok (f h)

def ceilDiv (a b : Nat) : Nat := (a + b - 1) / b

/-- The elements of a descriptor; a fault outside the scratch. -/
def Hw.vecGet (h : Hw) (i : Nat) : Except Nat (List Word) :=
  let v := h.vdOf i
  if scratchSize < v.1 + 4 * v.2 then .error 2 else .ok (h.scratchWords v.1 v.2)

/-- Writes the elements of a descriptor (R261). -/
def Hw.vecPut (h : Hw) (i : Nat) (ws : List Word) : Except Nat Hw :=
  let v := h.vdOf i
  match h.writeFault v.1 (4 * ws.length) with
  | some c => .error c
  | none => .ok (h.setScratch v.1 (wordsBytes ws))

/-- The lengths of descriptors are all `n` (R251). -/
def Hw.lengths (h : Hw) (n : Nat) (is : List Nat) : Except Nat Unit :=
  if is.all fun i => (h.vdOf i).2 == n then .ok () else .error 1

/-- An element-wise instruction. -/
def Hw.vecOp (h : Hw) (d : Nat) (srcs : List Nat) (nan : Bool) (f : List (List Word) → List Word) : Except Nat Hw := do
  h.lengths (h.vdOf d).2 srcs
  let vs ← srcs.mapM fun i => h.vecGet i
  let ws := f vs
  let h ← h.vecPut d ws
  return if nan then h.nanCheck ws else h

def vecCost (h : Hw) (d : Nat) (per add : Nat) : Nat := per * ceilDiv (h.vdOf d).2 32 + add

/-- Two and three lists element by element. -/
def zip2 (f : Word → Word → Word) (a b : List Word) : List Word := (a.zip b).map fun e => f e.1 e.2
def zip3 (f : Word → Word → Word → Word) (a b c : List Word) : List Word := (a.zip (b.zip c)).map fun e => f e.1 e.2.1 e.2.2

/-- Absolute value: the sign bit alone (R246). -/
def fAbsBit (a : Word) : Word := a &&& 0x7FFFFFFF#32

/-- The sum of a product `a * x` and a product `b * y`, in one of the roundings that R246 allows. -/
def joinForm (form : Fin 3) (a x b y : Word) : Word :=
  match form with
  | 0 => F32.fma a x (F32.mul b y)
  | 1 => F32.fma b y (F32.mul a x)
  | _ => F32.add (F32.mul a x) (F32.mul b y)

/-- One element of VAXPY and of VAXPBY (R246; the roundings are open, Config). -/
def axpy (a x y : Word) : Word := if Config.axpyFused then F32.fma a x y else F32.add (F32.mul a x) y
def axpby (a x b y : Word) : Word := joinForm Config.axpbyForm a x b y

/-! ## Scalar instructions (R249 tables) -/

def dIadd (d a b : Nat) (h : Hw) : Hw := h.dpeDo 1 fun h => h.setI d (h.iReg a + h.iReg b)
def dIsub (d a b : Nat) (h : Hw) : Hw := h.dpeDo 1 fun h => h.setI d (h.iReg a - h.iReg b)
def dIaddi (d a : Nat) (imm : Word) (h : Hw) : Hw := h.dpeDo 1 fun h => h.setI d (h.iReg a + imm)
def dIli (d : Nat) (imm : Word) (h : Hw) : Hw := h.dpeDo 1 fun h => h.setI d imm
def dImul (d a b : Nat) (h : Hw) : Hw := h.dpeDo 2 fun h => h.setI d (h.iReg a * h.iReg b)
def dFadd (d a b : Nat) (h : Hw) : Hw := h.dpeDo 4 fun h => h.setF d (F32.add (h.fReg a) (h.fReg b))
def dFsub (d a b : Nat) (h : Hw) : Hw := h.dpeDo 4 fun h => h.setF d (F32.sub (h.fReg a) (h.fReg b))
def dFmul (d a b : Nat) (h : Hw) : Hw := h.dpeDo 4 fun h => h.setF d (F32.mul (h.fReg a) (h.fReg b))
def dFfma (d a b c : Nat) (h : Hw) : Hw := h.dpeDo 4 fun h => h.setF d (F32.fma (h.fReg a) (h.fReg b) (h.fReg c))
def dFdiv (d a b : Nat) (h : Hw) : Hw := h.dpeDo 16 fun h => h.setF d (F32.div (h.fReg a) (h.fReg b))
def dFsqrt (d a : Nat) (h : Hw) : Hw := h.dpeDo 16 fun h => h.setF d (F32.sqrt (h.fReg a))
def dFmm (d : Nat) (f : DMm (Fin 16)) (h : Hw) : Hw := h.dpeDo 4 fun h =>
  match f with
  | .max a b => h.setF d (F32.fmax (h.fReg a.val) (h.fReg b.val))
  | .min a b => h.setF d (F32.fmin (h.fReg a.val) (h.fReg b.val))
  | .abs a => h.setF d (fAbsBit (h.fReg a.val))
def dFli (d : Nat) (imm : Word) (h : Hw) : Hw := h.dpeDo 1 fun h => h.putF d imm
def dCvt (toInt : Bool) (d a : Nat) (h : Hw) : Hw := h.dpeDo 4 fun h =>
  if toInt then h.setI d (BitVec.ofInt 32 (F32.toRange .even 0 (-2 ^ 31) (2 ^ 31 - 1) (h.fReg a)).1)
  else h.setF d (F32.ofInt (h.iReg a).toInt 0)
def dNop (h : Hw) : Hw := h.dpeDo 1 id

/-- Byte address of LDW and STW: IMM + iSA modulo 2^32. -/
def Hw.lsAddr (h : Hw) (a : Nat) (imm : Word) : Nat := (imm + h.iReg a).toNat

def dLdw (int : Bool) (d a : Nat) (imm : Word) (h : Hw) : Hw := h.dpeOp 4 fun h =>
  let at_ := h.lsAddr a imm
  if scratchSize < at_ + 4 then .error 2
  else .ok (if int then h.setI d (h.scratchWord at_) else h.putF d (h.scratchWord at_))

def dStw (int : Bool) (a b : Nat) (imm : Word) (h : Hw) : Hw := h.dpeOp 4 fun h =>
  let at_ := h.lsAddr a imm
  match h.writeFault at_ 4 with
  | some c => .error c
  | none => .ok (h.setScratch at_ (toBytes 4 (if int then h.iReg b else h.fReg b).toNat))

def dVdset (d a base : Nat) (h : Hw) : Hw := h.dpeDo 1 fun h => h.setVd d (base, (h.iReg a).toNat % 2 ^ 15)
def dVdsub (d a b c : Nat) (h : Hw) : Hw := h.dpeDo 1 fun h =>
  h.setVd d (((h.vdOf a).1 + 4 * (h.iReg b).toNat) % 2 ^ 23, (h.iReg c).toNat % 2 ^ 15)

/-! ## Vector instructions -/

def dVcpy (d a : Nat) (h : Hw) : Hw := h.dpeOp (vecCost h d 1 8) fun h => h.vecOp d [a] false fun vs => vs.getD 0 []
def dVset (d c : Nat) (h : Hw) : Hw := h.dpeOp (vecCost h d 1 8) fun h =>
  h.vecOp d [] false fun _ => List.replicate (h.vdOf d).2 (h.fReg c)
def dVaxpy (d a b c : Nat) (h : Hw) : Hw := h.dpeOp (vecCost h d 1 8) fun h =>
  h.vecOp d [a, b] true fun vs => zip2 (axpy (h.fReg c)) (vs.getD 0 []) (vs.getD 1 [])
def dVaxpby (d a b c f : Nat) (h : Hw) : Hw := h.dpeOp (vecCost h d 1 8) fun h =>
  h.vecOp d [a, b] true fun vs => zip2 (fun x y => axpby (h.fReg c) x (h.fReg f) y) (vs.getD 0 []) (vs.getD 1 [])
def dVmul (d a b : Nat) (h : Hw) : Hw := h.dpeOp (vecCost h d 1 8) fun h =>
  h.vecOp d [a, b] true fun vs => zip2 F32.mul (vs.getD 0 []) (vs.getD 1 [])
def dVdiv (d a b : Nat) (h : Hw) : Hw := h.dpeOp (vecCost h d 4 8) fun h =>
  h.vecOp d [a, b] true fun vs => zip2 F32.div (vs.getD 0 []) (vs.getD 1 [])
def dVmm (d : Nat) (f : DMm (Fin 32)) (h : Hw) : Hw := h.dpeOp (vecCost h d 1 8) fun h =>
  match f with
  | .max a b => h.vecOp d [a.val, b.val] true fun vs => zip2 F32.fmax (vs.getD 0 []) (vs.getD 1 [])
  | .min a b => h.vecOp d [a.val, b.val] true fun vs => zip2 F32.fmin (vs.getD 0 []) (vs.getD 1 [])
  | .abs a => h.vecOp d [a.val] true fun vs => (vs.getD 0 []).map fAbsBit
def dVproj (d a b c : Nat) (h : Hw) : Hw := h.dpeOp (vecCost h d 1 8) fun h =>
  h.vecOp d [a, b, c] true fun vs =>
    zip3 (fun x lo hi => F32.fmin (F32.fmax x lo) hi) (vs.getD 0 []) (vs.getD 1 []) (vs.getD 2 [])

/-- Terms of an order of addition, and the sum it gives over products. -/
def treeLeaves : Config.SumTree → List Nat
  | .zero => []
  | .leaf i => [i]
  | .node l r => treeLeaves l ++ treeLeaves r
  | .fused l i => treeLeaves l ++ [i]
def treeSum (t : Nat → Word × Word) : Config.SumTree → Word
  | .zero => 0#32
  | .leaf i => F32.mul (t i).1 (t i).2
  | .node l r => F32.add (treeSum t l) (treeSum t r)
  | .fused l i => F32.fma (t i).1 (t i).2 (treeSum t l)

/-- A sum of products (R247): every term once, in an order that the structure `key` and their number fix (an order that is none of all
terms stands for the order of their numbers). -/
def sumTerms (key : List Nat) (ts : List (Word × Word)) : Word :=
  let n := ts.length
  let x := Config.sumTree key n
  let l := treeLeaves x
  treeSum (fun i => ts.getD i (0#32, 0#32))
    (if l.length == n && (List.range n).all fun i => l.contains i then x else (List.range n).foldl Config.SumTree.fused .zero)

def one32 : Word := 0x3F800000#32

/-- A norm or a sum. The largest absolute value is stated for elements that are no NaN (Config). -/
def vecNorm (f : DNorm) (ws : List Word) : Word :=
  match f with
  | .inf => if ws.any F32.isNan then Config.nanNorm ws else (ws.map fun w => F32.canon (fAbsBit w)).foldl F32.fmax 0#32
  | .two => F32.sqrt (sumTerms [1] (ws.map fun w => (w, w)))
  | .sum => sumTerms [2] (ws.map fun w => (w, one32))

def dVnrm (f : DNorm) (d a : Nat) (h : Hw) : Hw := h.dpeOp (vecCost h a 1 24) fun h => do
  let v ← h.vecGet a
  return h.setF d (vecNorm f v)
def dVdot (d a b : Nat) (h : Hw) : Hw := h.dpeOp (vecCost h a 1 24) fun h => do
  h.lengths (h.vdOf a).2 [b]
  let v ← h.vecGet a
  let w ← h.vecGet b
  return h.setF d (sumTerms [3] (v.zip w))

/-! ## Sparse instructions (R245, R250, R251) -/

/-- Rounds a byte count up to the next array start (R256). -/
def pad64 (n : Nat) : Nat := (n + 63) / 64 * 64

/-- A CSR block as its section holds it: rows, columns, nonzeros, and its rows as lists of (column, value). -/
structure Csr where
  rows : Nat
  cols : Nat
  nz : Nat
  rowsOf : List (List (Nat × Word))
  deriving DecidableEq, Repr

/-- Reads a CSR section at a byte source. -/
def csrOf (word : Nat → Nat) (half : Nat → Nat) : Csr :=
  let rows := word 0
  let cols := word 4
  let nz := word 8
  let cAt := 64 + pad64 (4 * (rows + 1))
  let vAt := cAt + pad64 (2 * nz)
  ⟨rows, cols, nz, (List.range rows).map fun i =>
    let a := word (64 + 4 * i)
    let b := word (64 + 4 * (i + 1))
    (List.range (b - a)).map fun j => (half (cAt + 2 * (a + j)), BitVec.ofNat 32 (word (vAt + 4 * (a + j))))⟩

/-- The CSR block of descriptor `m`: A, P or a further block; a fault of cause 9 when there is none (R245). -/
def Hw.csr (h : Hw) (m : Nat) : Except Nat Csr :=
  match h.dSecs.find? fun s => if m = 1 then s.typ == 2 else s.typ == 1 && s.mx == m with
  | some s => .ok (csrOf (fun a => ofBytes (h.scratchBytes (s.off + a) 4)) (fun a => ofBytes (h.scratchBytes (s.off + a) 2)))
  | none => .error 9

/-- Terms of a product with a block, with its transpose and with the symmetric matrix of an upper triangle stored by column. -/
def Csr.terms (c : Csr) (x : List Word) : List (List (Word × Word)) :=
  c.rowsOf.map fun r => r.map fun e => (e.2, x.getD e.1 0#32)
def Csr.termsT (c : Csr) (x : List Word) : List (List (Word × Word)) :=
  let all := ((List.range c.rowsOf.length).zip c.rowsOf).map fun r => r.2.map fun e => (e.1, (e.2, x.getD r.1 0#32))
  (List.range c.cols).map fun j => (all.flatten.filter fun e => e.1 == j).map (·.2)
def Csr.termsS (c : Csr) (x : List Word) : List (List (Word × Word)) :=
  let up := (c.termsT x).zip (c.terms x)
  let diag := fun (j : Nat) => (c.rowsOf.getD j []).filter fun e => e.1 != j
  ((List.range c.rows).zip up).map fun e => e.2.1 ++ (diag e.1).map fun d => (d.2, x.getD d.1 0#32)

/-- The structure of a block: its sizes, and each row with its columns. -/
def Csr.key (c : Csr) : List Nat := [c.rows, c.cols, c.nz] ++ (c.rowsOf.map fun r => r.length :: r.map (·.1)).flatten

/-- An element of a sparse product: alpha * the sum of its terms + beta * the old element (R247). -/
def sparseElem (key : List Nat) (alpha beta old : Word) (ts : List (Word × Word)) : Word :=
  if Config.sparseScaled then joinForm Config.sparseForm one32 (sumTerms key (ts.map fun t => (t.1, F32.mul alpha t.2))) beta old
  else joinForm Config.sparseForm alpha (sumTerms key ts) beta old

/-- A product into vdDST. -/
def Hw.spStore (h : Hw) (key : List Nat) (d c f : Nat) (terms : List (List (Word × Word))) : Except Nat Hw := do
  let old ← h.vecGet d
  let ws := (((List.range terms.length).zip terms).zip old).map fun e => sparseElem (e.1.1 :: key) (h.fReg c) (h.fReg f) e.2 e.1.2
  let h ← h.vecPut d ws
  return h.nanCheck ws

/-- Cycles of the sparse products by the block named. -/
def spCost (h : Hw) (m : Nat) (per : Nat) (cols : Bool) : Nat :=
  match h.csr m with
  | .ok c => ceilDiv c.nz per + ceilDiv (if cols then c.cols else c.rows) 8 + 16
  | .error _ => 0

def dSpmv (d m b c f : Nat) (h : Hw) : Hw := h.dpeOp (spCost h m 32 false) fun h => do
  let k ← h.csr m
  h.lengths k.cols [b]
  h.lengths k.rows [d]
  let x ← h.vecGet b
  h.spStore (4 :: k.key) d c f (k.terms x)
def dSpmvt (d m b c f : Nat) (h : Hw) : Hw := h.dpeOp (spCost h m 32 true) fun h => do
  let k ← h.csr m
  h.lengths k.rows [b]
  h.lengths k.cols [d]
  let x ← h.vecGet b
  h.spStore (5 :: k.key) d c f (k.termsT x)
def dSpmvs (d b c f : Nat) (h : Hw) : Hw := h.dpeOp (spCost h 1 16 false) fun h => do
  let k ← h.csr 1
  h.lengths k.rows [b, d]
  let x ← h.vecGet b
  h.spStore (6 :: k.key) d c f (k.termsS x)

/-- The pattern of a problem (R256): the permutation and its inverse, and the supernodes as first column, columns and rows below. -/
structure Pattern where
  perm : List Nat
  inv : List Nat
  supers : List (Nat × Nat × List Nat)
  deriving DecidableEq, Repr

/-- Reads a PATTERN section at a byte source: N columns, supernodes, row indices. A supernode's rows run from the offset of its entry to
the next entry's, or to the end (log entry 186, DEDUCED). -/
def patternOf (word half : Nat → Nat) (n supers rows : Nat) : Pattern :=
  let invAt := 64 + pad64 (2 * n)
  let supAt := invAt + pad64 (2 * n)
  let endAt := supAt + pad64 (8 * supers) + 2 * rows
  let at_ (i : Nat) : Nat := if i < supers then word (supAt + 8 * i + 4) else endAt
  ⟨(List.range n).map fun i => half (64 + 2 * i), (List.range n).map fun i => half (invAt + 2 * i),
    (List.range supers).map fun i => (half (supAt + 8 * i), half (supAt + 8 * i + 2),
      (List.range ((min (at_ (i + 1)) endAt - at_ i) / 2)).map fun j => half (at_ i + 2 * j))⟩

/-- Rows of L below the diagonal in a column. -/
def Pattern.below (p : Pattern) (j : Nat) : List Nat :=
  match p.supers.find? fun s => decide (s.1 ≤ j) && decide (j < s.1 + s.2.1) with
  | some s => ((List.range s.2.1).map (· + s.1)).filter (fun i => decide (j < i)) ++ s.2.2
  | none => []

/-- The columns left of a row's diagonal in which L has an entry there. -/
def Pattern.left (p : Pattern) (i : Nat) : List Nat := (List.range i).filter fun j => (p.below j).contains i

def Pattern.key (p : Pattern) : List Nat := (p.supers.map fun s => s.1 :: s.2.1 :: s.2.2.length :: s.2.2).flatten

/-- An entry of K between two of its columns (the problem's definition): P with sigma, A, or -1/rho; as the terms of its sum. -/
def kktTerms (a p : Csr) (sigma rho : List Word) (n x y : Nat) : List (Word × Word) :=
  let lo := min x y
  let hi := max x y
  let entry (c : Csr) (r k : Nat) : List (Word × Word) := ((c.rowsOf.getD r []).filter fun e => e.1 == k).map fun e => (e.2, one32)
  if hi < n then entry p hi lo ++ (if lo = hi then [(sigma.getD lo 0#32, one32)] else [])
  else if lo < n then entry a (hi - n) lo
  else if lo = hi then [(F32.negate (rho.getD (lo - n) 0#32), one32)] else []

/-- A quotient as the factorisation and the solve with D form it. -/
def byPivot (x d : Word) : Word := if Config.reciprocal then F32.mul x (F32.div one32 d) else F32.div x d

/-- A column of the factor: its pivot, and its values of L by row. -/
structure LCol where
  piv : Word
  vals : List (Nat × Word)
  deriving DecidableEq, Repr

def LCol.at_ (c : LCol) (i : Nat) : Word :=
  match c.vals.find? fun e => e.1 == i with
  | some e => e.2
  | none => 0#32

/-- The factorisation of K over its pattern, column by column (R250): with what the columns to the left take from an entry. -/
def ldlColumns (t : Pattern) (entry : Nat → Nat → List (Word × Word)) (n : Nat) : List LCol :=
  (List.range n).foldl (fun cs j =>
    let taken (i : Nat) : List (Word × Word) := (cs.filter fun c => (c.vals.any fun e => e.1 == i) && c.vals.any fun e => e.1 == j).map fun c =>
      (F32.negate (c.at_ i), F32.mul (c.at_ j) c.piv)
    let val (i : Nat) : Word := sumTerms ([7, i, j] ++ t.key) (entry i j ++ taken i)
    let d := val j
    cs ++ [⟨d, (t.below j).map fun i => (i, byPivot (val i) d)⟩]) []

/-- A factor and its pattern are loaded (R245). -/
def Hw.factor (h : Hw) : Except Nat DProblem :=
  match h.dpe.prob, h.secOf 4 with
  | some p, some _ => .ok p
  | _, _ => .error 9

/-- 2^-100 and -2^-100. -/
def tiny : Word := 0x0D800000#32

/-- A pivot fails the test of R250: one of the first n columns not above 2^-100, or another not below -2^-100. -/
def badPivot (n : Nat) (i : Nat) (w : Word) : Bool := if i < n then !F32.lt tiny w else !F32.lt w (F32.negate tiny)

/-- The pattern of the loaded problem. -/
def Hw.pattern (h : Hw) (p : DProblem) : Pattern :=
  match h.secOf 3 with
  | some s => patternOf (fun a => ofBytes (h.scratchBytes (s.off + a) 4)) (fun a => ofBytes (h.scratchBytes (s.off + a) 2)) (p.n + p.m) p.supers
      p.rowIdx
  | none => ⟨[], [], []⟩

/-- Scratch addresses in the FACTOR section: of the value of L at a row and column, and of an element of D, whose array follows those
values (R256). -/
def lAddr (s : DSection) (p : DProblem) (t : Pattern) (i j : Nat) : Nat := s.off + 4 * (Config.factorSlot t.supers i j % max p.nzL 1)
def dAddr (s : DSection) (p : DProblem) (k : Nat) : Nat := s.off + pad64 (4 * p.nzL) + 4 * k

/-- The factor enters its section. -/
def Hw.putFactor (h : Hw) (s : DSection) (p : DProblem) (t : Pattern) (cols : List LCol) : Hw :=
  ((List.range cols.length).zip cols).foldl (fun h c =>
    (c.2.vals.foldl (fun h e => h.setScratch (lAddr s p t e.1 c.1) (toBytes 4 e.2.toNat)) h).setScratch (dAddr s p c.1) (toBytes 4 c.2.piv.toNat)) h

/-- Forward and backward substitution with L, and the division by D (R249): the elements in order, the others as they are found. -/
def solveLower (t : Pattern) (l : Nat → Nat → Word) (b : List Word) : List Word :=
  (List.range b.length).foldl (fun y i =>
    y ++ [sumTerms ([8, i] ++ t.key) ((b.getD i 0#32, one32) :: (t.left i).map fun j => (F32.negate (l i j), y.getD j 0#32))]) []
def solveUpper (t : Pattern) (l : Nat → Nat → Word) (b : List Word) : List Word :=
  (List.range b.length).foldr (fun j z =>
    let v := sumTerms ([9, j] ++ t.key) ((b.getD j 0#32, one32) :: (t.below j).map fun i => (F32.negate (l i j), z.getD (i - (j + 1)) 0#32))
    v :: z) []

def dLdlf (b c : Nat) (h : Hw) : Hw :=
  let cost := match h.dpe.prob with
    | some p => ceilDiv p.ops 24 + 8 * (p.n + p.m) + 64
    | none => 0
  h.dpeOp cost fun h => do
    let p ← h.factor
    h.lengths p.n [b]
    h.lengths p.m [c]
    let sg ← h.vecGet b
    let rh ← h.vecGet c
    let ka ← h.csr 0
    let kp ← h.csr 1
    let t := h.pattern p
    let at_ (i : Nat) : Nat := t.perm.getD i 0
    let cols := ldlColumns t (fun i j => kktTerms ka kp sg rh p.n (at_ i) (at_ j)) (p.n + p.m)
    let bad := ((List.range (p.n + p.m)).zip cols).any fun c => badPivot p.n (at_ c.1) c.2.piv
    let h := match h.secOf 4 with
      | some s => h.putFactor s p t cols
      | none => h
    let h := h.nanCheck (cols.map fun c => c.piv :: c.vals.map (·.2)).flatten
    return (h.setDpe fun d => { d with facOk := !bad }).setFlag DPE_STAT_BRK bad

/-- The triangular and diagonal solves (R250): 0 TRSVL, 1 TRSVU, 2 DSOLVE. -/
def dSolveWith (kind d a : Nat) (h : Hw) : Hw :=
  let cost := match h.dpe.prob with
    | some p => if kind = 2 then ceilDiv (p.n + p.m) 32 + 8 else ceilDiv p.nzL 16 + ceilDiv (p.n + p.m) 32 + 16
    | none => 0
  h.dpeOp cost fun h => do
    let p ← h.factor
    if !h.dpe.facOk then throw 4
    h.lengths (p.n + p.m) [d, a]
    let v ← h.vecGet a
    let t := h.pattern p
    let s := (h.secOf 4).getD ⟨4, false, false, 0, 0, 0⟩
    let l (i j : Nat) : Word := h.scratchWord (lAddr s p t i j)
    let ws := match kind with
      | 0 => solveLower t l (t.perm.map fun i => v.getD i 0#32)
      | 1 => let z := solveUpper t l v; t.inv.map fun i => z.getD i 0#32
      | _ => ((List.range v.length).zip v).map fun e => byPivot e.2 (h.scratchWord (dAddr s p e.1))
    let h ← h.vecPut d ws
    return h.nanCheck ws

def dTrsvl (d a : Nat) (h : Hw) : Hw := dSolveWith 0 d a h
def dTrsvu (d a : Nat) (h : Hw) : Hw := dSolveWith 1 d a h
def dDsolve (d a : Nat) (h : Hw) : Hw := dSolveWith 2 d a h

/-! ## Control instructions (R251-R253) -/

def Hw.setDpc (h : Hw) (pc : Nat) : Hw := h.setDpe fun d => { d with pc := pc % 2 ^ 14 }

/-- A condition of B; a NaN makes both float orders false. -/
def Hw.dCond (h : Hw) : DCond → Bool
  | .always => true
  | .ieq a b => h.iReg a.val == h.iReg b.val
  | .ine a b => h.iReg a.val != h.iReg b.val
  | .ilt a b => decide ((h.iReg a.val).toInt < (h.iReg b.val).toInt)
  | .ige a b => decide ((h.iReg b.val).toInt ≤ (h.iReg a.val).toInt)
  | .flt a b => F32.lt (h.fReg a.val) (h.fReg b.val)
  | .fge a b => F32.lt (h.fReg b.val) (h.fReg a.val) || F32.eq (h.fReg a.val) (h.fReg b.val)
  | .nanf => h.dpe.nanf
  | .brk => h.flag DPE_STAT_BRK
  | .izero a => h.iReg a.val == 0#32
  | .inonzero a => h.iReg a.val != 0#32

def dB (c : DCond) (tgt : Nat) (h : Hw) : Hw := h.dpeDo 2 fun h => if h.dCond c then h.setDpc tgt else h
def dCall (tgt : Nat) (h : Hw) : Hw := h.dpeOp 2 fun h =>
  if 8 ≤ h.dpe.cst.length then .error 5 else .ok ((h.setDpe fun d => { d with cst := d.pc :: d.cst }).setDpc tgt)
def dRet (h : Hw) : Hw := h.dpeOp 2 fun h =>
  match h.dpe.cst with
  | [] => .error 5
  | p :: ps => .ok ((h.setDpe fun d => { d with cst := ps }).setDpc p)
def dItmark (h : Hw) : Hw := h.dpeDo 1 fun h =>
  let it := min (h.fld DPE_ITER + 1) 65535
  let h := h.setFld DPE_ITER it
  if it = h.dpe.icap ∧ h.dpe.capTaken = false then
    (h.setDpe fun d => { d with capTaken := true }).setDpc ((h.dpe.prog.map (·.cap)).getD 0)
  else h
def dRpt (a b : Nat) (h : Hw) : Hw := h.dpeDo 1 fun h =>
  (h.setFld DPE_PRES_VALUE (h.fReg a).toNat).setFld DPE_DRES_VALUE (h.fReg b).toNat
def dGstat (f d : Nat) (h : Hw) : Hw := h.dpeDo 1 fun h =>
  h.setI d (BitVec.ofNat 32 (match f with
    | 0 => h.dpe.notGood
    | 1 => b2n h.dpe.warmAt
    | 2 => b2n h.dpe.facOk
    | 3 => h.fld FRM_FNUM - h.fld DPE_TSTART_FNUM
    | _ => h.fld DPE_SEQ % 65536))
def dClrf (h : Hw) : Hw := h.dpeDo 1 fun h => h.setDpe fun d => { d with nanf := false }

/-- The value of a mailbox point from an element of the publish vector; whether the conversion saturated (R268). -/
def publishValue (typ : Nat) (w : Word) : Word × Bool :=
  match typ with
  | 0 => (if F32.lt w 0x3F000000#32 then 0#32 else 1#32, false)
  | 1 => let r := F32.toRange .even 0 (-2 ^ 31) (2 ^ 31 - 1) w; (BitVec.ofInt 32 r.1, r.2)
  | 2 => let r := F32.toRange .even 0 0 (2 ^ 32 - 1) w; (BitVec.ofInt 32 r.1, r.2)
  | 3 => let r := F32.toRange .even 16 (-2 ^ 31) (2 ^ 31 - 1) w; (BitVec.ofInt 32 r.1, r.2)
  | _ => (w, false)

/-- The set-points of a publish vector, or why the solve faults (R268). -/
def Hw.publish (h : Hw) (a : Nat) : Except Nat (List (Nat × (Word × Bool))) := do
  if (h.vdOf a).2 ≠ h.mailCount then throw 8
  let v ← h.vecGet a
  if v.any fun w => F32.isNan w || F32.isInf w then throw 7
  return ((List.range v.length).zip v).map fun e =>
    let p := h.mailPoint e.1
    (p, publishValue (h.pointType p) e.2)

/-- DONE (R253, R268). -/
def dDone (r : DResult) (a : Nat) (h : Hw) : Hw := h.dpeOp 8 fun h =>
  let capped := r == .capped || (r == .converged && h.dpe.capTaken)
  let infeasible := r == .primalInfeasible || r == .dualInfeasible
  let publishes := !infeasible && (!capped || h.flag DPE_CTRL_CAPPUB)
  match (if publishes then h.publish a else .ok []) with
  | .error c => .error c
  | .ok vals =>
    let h := if capped then h.dCount DPE_CAPCNT_COUNT DPE_CAPCNT_SAT else h
    let h := if infeasible then (h.dCount DPE_INFCNT_COUNT DPE_INFCNT_SAT).raise 75 else h
    let code := if infeasible then cInfeasible else if capped then cCapped else cConverged
    let inf := match r with
      | .primalInfeasible => 1
      | .dualInfeasible => 2
      | _ => 0
    let e := h.dEntry code inf vals publishes
    .ok (((h.setDpe fun d => { d with staging := some e }).setFlag DPE_STAT_WARMOK true).setFld DPE_STAT_STATE dFinishing)

/-- The staging completes (R262, R269). -/
def stagingComplete (h : Hw) : Hw :=
  if h.dState ≠ dFinishing then h
  else match h.dpe.staging with
    | none => h
    | some e =>
      let e := { e with info := BitVec.ofNat 32 (e.info.toNat % 65536 + min (h.fld FRM_FNUM - h.fld DPE_TSTART_FNUM) 65535 * 65536) }
      (h.stageEntry e).setFld DPE_STAT_STATE dIdle

/-- An error in scratch or code memory (R262, R276). -/
def dpeMemoryError (corrected code : Bool) (addr : Nat) (h : Hw) : Hw :=
  if corrected then h.dCount DPE_ECCCNT_COUNT DPE_ECCCNT_SAT
  else
    let h := (((h.setFld DPE_ECCADDR_ADDR addr).setFlag DPE_ECCADDR_REGION code).setFlag DPE_ECCADDR_VALID true).raise 79
    if h.dState = dSolving then h.dpeFault 6 else h

/-! ## Commands (R260, R262, R263, R277) -/

def Hw.dRefuse (h : Hw) : Hw := h.setFlag DPE_STAT_CMDREF true

/-- SOLVE. -/
def dpeSolve (h : Hw) : Hw := h.setDpe fun d => { d with due := true }

/-- Every restart and UNLOAD clear the engine's memories (R263, R273). -/
def Hw.dClear (h : Hw) : Hw :=
  let h := h.setDpe fun d => { d with code := [], prog := none, prob := none, scratch := [], vd := [], facOk := false }
  ((h.setFlag DPE_STAT_PROGOK false).setFlag DPE_STAT_PROBOK false).setFlag DPE_STAT_WARMOK false

/-- UNLOAD (R263). -/
def dpeUnload (h : Hw) : Hw :=
  if h.dState = dUnloaded ∨ h.dState = dIdle then
    (h.dClear.setDpe fun d => { d with clearing := true }).setFld DPE_STAT_STATE dUnloaded
  else h.dRefuse

/-- The clearing ends. -/
def unloadClearDone (h : Hw) : Hw := h.setDpe fun d => { d with clearing := false }

/-- LOAD_PROG and LOAD_PROB (R262); one that arrives before a clearing ends waits for it. -/
def dpeLoad (prog : Bool) (h : Hw) : Hw :=
  if h.dState = dUnloaded ∨ h.dState = dIdle then
    (h.setDpe fun d => { d with load := some ⟨prog, h.fld DPE_SRC_ADDR⟩ }).setFld DPE_STAT_STATE dLoading
  else h.dRefuse

/-- DPE.SCFG and DPE.CAPS. -/
def scfgWrite (v : Nat) (h : Hw) : Hw :=
  if bits v 0 16 = 0 ∨ bits v 0 16 ≤ bits v 16 16 then h.dRefuse
  else (h.setFld DPE_SCFG_PERIOD (bits v 0 16)).setFld DPE_SCFG_PHASE (bits v 16 16)
def capsWrite (v : Nat) (h : Hw) : Hw :=
  if bits v 0 16 = 0 ∨ bits v 16 16 = 0 then h.dRefuse
  else (h.setFld DPE_CAPS_ICAP (bits v 0 16)).setFld DPE_CAPS_TCAP (bits v 16 16)

/-- A write of the scratch (R260): a host core's, while the engine is IDLE, into a DATA section with HOSTW; any other is refused. -/
def scratchWrite (master dom off : Nat) (data : List Byte) (h : Hw) : Hw :=
  let inData := h.dSecs.any fun s => s.typ == 5 && s.hostw && decide (s.off ≤ off) && decide (off + data.length ≤ s.off + s.bytes)
  if master < 4 ∧ h.dState = dIdle ∧ inData then h.setScratch off data
  else h.violation (0x26000000 + off) master dom 7 .write .targetRule

end Sys2Proof.Machine
end

