-- ==== Sys2Proof/Machine/DpeLoad.lean ====
section
/-! DEFINITION. The loads of the dispatch engine (06): program and problem images with the checks and their refusal reasons
(R242, R249, R252, R254-R258), and the engine's commands as meanings. -/

namespace Sys2Proof.Machine

/-- Reasons of DPE.LDSTAT. -/
inductive DReason where
  | format | signature | opcode | branch | limit | sect | structure_ | pattern | direction
  deriving DecidableEq, Repr

def DReason.code : DReason → Nat
  | .format => 1 | .signature => 2 | .opcode => 3 | .branch => 4 | .limit => 5 | .sect => 6 | .structure_ => 7 | .pattern => 8
  | .direction => 9

/-- A refusal: reason, and the place DETAIL names where the rules give one (log entry 17, DESIGN CHOICE). -/
structure DRefusal where
  reason : DReason
  at_ : Option Nat
  deriving DecidableEq, Repr

/-- A little-endian number of an image. -/
def imgNum (b : List Byte) (off n : Nat) : Nat := ofBytes ((b.drop off).take n)

/-- Fails with a reason unless a condition holds. -/
def need (c : Bool) (r : DReason) (at_ : Option Nat := none) : Except DRefusal Unit := if c then .ok () else .error ⟨r, at_⟩

/-- The first element of a list that fails, as a refusal. -/
def needAll (l : List Nat) (f : Nat → Bool) (r : DReason) : Except DRefusal Unit :=
  match l.find? fun i => !f i with
  | some i => .error ⟨r, some i⟩
  | none => .ok ()

/-! ## Program images (R249, R252, R254) -/

/-- A descriptor of the program's table lies wholly in a DATA section (R257). -/
def vdInData (secs : List DSection) (v : Nat × Nat) : Bool :=
  v.2 == 0 || secs.any fun s => s.typ == 5 && decide (s.off ≤ v.1) && decide (v.1 + 4 * v.2 ≤ s.off + s.bytes)

/-- Header and descriptor table of a program image. -/
def progHead (b : List Byte) : Except DRefusal DProgram := do
  let w0 := imgNum b 0 8
  let w1 := imgNum b 8 8
  let vds := (List.range 32).map fun i => imgNum b (16 + 8 * i) 8
  let cnt := bits w0 32 15
  need (bits w0 0 32 == 0x42534C31 && bits w0 47 17 == 0 && decide (1 ≤ cnt) && decide (cnt ≤ 16384)) .format (some 0)
  need (bits w1 14 2 == 0 && bits w1 30 34 == 0 && decide (bits w1 0 14 < cnt) && decide (bits w1 16 14 < cnt)) .format (some 8)
  need (vds.all fun v => bits v 38 26 == 0 && bits v 0 2 == 0 && decide (bits v 23 15 ≤ 24576)) .format
  return ⟨cnt, bits w1 0 14, bits w1 16 14, vds.map fun v => (bits v 0 23, bits v 23 15)⟩

/-- The checks of a program image: program and code. -/
def Hw.checkProg (h : Hw) (b sig : List Byte) : Except DRefusal (DProgram × List Word64) := do
  let p ← progHead b
  let node := 272
  need (h.fld (KEY_K_W0_STATE node) == 1 && h.fld (KEY_K_W0_KIND node) == 2 && Config.verifyByHash (h.pubkeyOf node) b sig) .signature
  let code := (List.range p.count).map fun i => BitVec.ofNat 64 (imgNum b (272 + 8 * i) 8)
  let ins := code.map balsilDecode
  needAll (List.range p.count) (fun i => (ins.getD i none).isSome) .opcode
  needAll (List.range p.count) (fun i => match (ins.getD i none).bind balsilTarget with
    | some t => decide (t < p.count)
    | none => true) .branch
  need (h.dpe.prob.isNone || p.vds.all (vdInData h.dSecs)) .sect
  return (p, code)

/-! ## Problem images (R242, R255-R257) -/

/-- An entry of the section table with its ZERO flag and payload offset. -/
structure DSecEntry where
  sec : DSection
  zero : Bool
  payload : Nat
  deriving DecidableEq, Repr

/-- Entry `i` of the section table. -/
def secEntry (b : List Byte) (i : Nat) : DSecEntry :=
  let w0 := imgNum b (64 + 16 * i) 8
  let w1 := imgNum b (72 + 16 * i) 8
  ⟨⟨bits w0 0 8, bitOf w0 8, bitOf w0 9, bits w0 11 3, bits w0 32 32, bits w1 0 32⟩, bitOf w0 10, bits w1 32 32⟩

/-- The header of a problem image (R255), and its limits (R242). -/
def probHead (b : List Byte) : Except DRefusal DProblem := do
  let w := fun i => imgNum b (8 * i) 8
  let cnt := bits (w 0) 32 5
  need (bits (w 0) 0 32 == 0x42535031 && bits (w 0) 37 27 == 0 && decide (1 ≤ cnt)) .format (some 0)
  need (decide (cnt ≤ 16)) .limit (some 0)
  need (bits (w 1) 14 18 == 0 && bits (w 1) 47 17 == 0 && bits (w 2) 19 13 == 0 && bits (w 2) 48 16 == 0 && bits (w 3) 21 11 == 0
    && bits (w 3) 47 17 == 0 && bits (w 4) 18 46 == 0 && w 6 == 0 && w 7 == 0) .format
  let n := bits (w 1) 0 14
  let m := bits (w 1) 32 15
  need (decide (1 ≤ n) && decide (n ≤ 8192) && decide (1 ≤ m) && decide (m ≤ 16384) && decide (n + m ≤ 24576)) .limit (some 8)
  need (decide (bits (w 2) 0 19 ≤ 262144) && decide (bits (w 2) 32 16 ≤ 32768)) .limit (some 16)
  need (decide (bits (w 3) 0 21 ≤ 1048576) && decide (bits (w 3) 32 15 ≤ n + m)) .limit (some 24)
  need (decide (bits (w 4) 0 18 ≤ 131072)) .limit (some 32)
  return ⟨n, m, bits (w 2) 0 19, bits (w 2) 32 16, bits (w 3) 0 21, bits (w 3) 32 15, bits (w 4) 0 18, w 5, []⟩

/-- The types and descriptor numbers a problem must hold (R257). -/
def secTypesOk (es : List DSecEntry) : Bool :=
  let cnt := fun (t : Nat) => (es.filter fun e => e.sec.typ == t).length
  let mx : List Nat := (es.filter fun e => e.sec.typ == 1).map fun e => e.sec.mx
  [2, 3, 4, 6, 7].all (fun t => cnt t == 1) && mx.contains 0 && mx.all (fun k => k == 0 || decide (3 ≤ k)) && decide mx.Nodup
    && es.all fun e => decide (1 ≤ e.sec.typ) && decide (e.sec.typ ≤ 7)

/-- SECTION of R257 for one entry: inside the scratch, aligned, flags its type allows. -/
def secEntryOk (e : DSecEntry) : Bool :=
  decide (e.sec.off + e.sec.bytes ≤ scratchSize) && e.sec.off % 64 == 0
    && ((!e.sec.hostw && !e.sec.warm) || e.sec.typ == 5) && (e.sec.mx == 0 || e.sec.typ == 1)
    && (e.sec.typ != 4 || e.zero) && (!e.zero || e.payload == 0)

/-- Bytes a CSR block takes. -/
def csrBytes (rows nz : Nat) : Nat := 64 + pad64 (4 * (rows + 1)) + pad64 (2 * nz) + 4 * nz

/-- What a section holds after the load: its payload, or zeros. -/
def payloadOf (b : List Byte) (e : DSecEntry) : List Byte :=
  if e.zero then List.replicate e.sec.bytes 0#8 else (b.drop e.payload).take e.sec.bytes

/-- The CSR block of a payload. -/
def payloadCsr (b : List Byte) : Csr := csrOf (fun a => imgNum b a 4) (fun a => imgNum b a 2)

/-- Ascending numbers. -/
def rises : List Nat → Bool
  | [] => true
  | [_] => true
  | a :: b :: t => decide (a < b) && rises (b :: t)

/-- STRUCTURE of R257 for a CSR or P section. -/
def csrOk (b : List Byte) (c : Csr) : Bool :=
  let ptr := (List.range (c.rows + 1)).map fun i => imgNum b (64 + 4 * i) 4
  ptr.head? == some 0 && ptr.getLast? == some c.nz && ((ptr.zip (ptr.drop 1)).all fun e => decide (e.1 ≤ e.2))
    && c.rowsOf.all fun r => rises (r.map (·.1)) && r.all fun e => decide (e.1 < c.cols)

/-- STRUCTURE of R257 for the pattern: the permutation and its inverse, and supernodes that cover the columns in order. -/
def patternStructOk (t : Pattern) (n : Nat) : Bool :=
  t.perm.all (fun i => decide (i < n)) && ((List.range n).all fun i => t.inv.getD (t.perm.getD i n) n == i)
    && (t.supers.foldl (fun at_ e => if at_ = some e.1 ∧ 0 < e.2.1 then some (e.1 + e.2.1) else none) (some 0)) == some n

/-- PATTERN of R257: the counts of the header, and a place in L, or on the diagonal, for every nonzero of A and P; an entry of A stands
below those of P in K. -/
def patternOk (t : Pattern) (p : DProblem) (a q : Csr) : Bool :=
  let place (x y : Nat) : Bool :=
    let i := t.inv.getD x 0
    let j := t.inv.getD y 0
    i == j || (t.below (min i j)).contains (max i j)
  let all (c : Csr) (f : Nat → Nat → Bool) : Bool := ((List.range c.rowsOf.length).zip c.rowsOf).all fun r => r.2.all fun e => f r.1 e.1
  (t.supers.map fun s => Config.superStored s.2.1 s.2.2.length).sum == p.nzL
    && (t.supers.map fun s => Config.superUpdates s.2.1 s.2.2.length).sum == p.ops
    && all q (fun c r => place r c) && all a fun r c => place (p.n + r) c

/-- Whether a range lies in a DATA section. -/
def inData (es : List DSecEntry) (a n : Nat) : Bool :=
  n == 0 || es.any fun e => e.sec.typ == 5 && decide (e.sec.off ≤ a) && decide (a + n ≤ e.sec.off + e.sec.bytes)

/-- The payload of the section of a type. -/
def payloadFor (b : List Byte) (es : List DSecEntry) (typ : Nat) : List Byte :=
  match es.find? fun e => e.sec.typ == typ with
  | some e => payloadOf b e
  | none => []

/-- Words of a GATHER or MAILBOX section. -/
def listWords (b : List Byte) : List Nat := (List.range (b.length / 4)).map fun i => imgNum b (4 * i) 4

/-- DIRECTION of R257. -/
def Hw.directionOk (h : Hw) (gather mail : List Nat) : Bool :=
  let g := (gather.drop 4).take (bits (gather.getD 0 0) 0 14)
  let pts := ((mail.drop 4).take (bits (mail.getD 0 0) 0 13)).map fun w => bits w 0 17
  let opt := fun (i : Nat) => if bitOf (mail.getD i 0) 17 then [bits (mail.getD i 0) 0 17] else []
  let words := opt 1 ++ opt 2
  g.all (fun w => !h.isUnused (bits w 0 17)) && (pts ++ words).all (fun p => h.isInput p && h.zoneSrc (zoneOf p) == 3)
    && words.all (fun p => h.pointType p == 2) && decide (pts ++ words).Nodup

/-- The checks of a problem image in the order of R257. -/
def Hw.checkProb (h : Hw) (b : List Byte) : Except DRefusal (DProblem × List DSecEntry) := do
  let p ← probHead b
  let cnt := bits (imgNum b 0 8) 32 5
  let es := (List.range cnt).map fun i => secEntry b i
  need ((List.range cnt).all fun i => bits (imgNum b (64 + 16 * i) 8) 14 18 == 0) .format
  need (secTypesOk es) .format
  let gather := listWords (payloadFor b es 6)
  let mail := listWords (payloadFor b es 7)
  let csrs := (es.filter fun e => e.sec.typ == 1 || e.sec.typ == 2).map fun e => (e, payloadOf b e)
  let heads := csrs.map fun c => (c.1, imgNum c.2 0 4, imgNum c.2 4 4, imgNum c.2 8 4)
  need (heads.all fun c => decide (c.2.1 ≤ 24576) && decide (c.2.2.1 ≤ 8192)) .limit
  need (decide (bits (gather.getD 0 0) 0 14 ≤ 8192) && decide (bits (mail.getD 0 0) 0 13 ≤ 4096)) .limit
  need (decide ((es.map fun e => e.sec.bytes).sum ≤ scratchSize)) .limit
  needAll (List.range cnt) (fun i => secEntryOk (es.getD i (secEntry b i))) .sect
  need ((List.range cnt).all fun i => (List.range i).all fun j =>
    let x := (secEntry b i).sec
    let y := (secEntry b j).sec
    !rangesMeet x.off x.bytes y.off y.bytes) .sect
  need (heads.all fun c => decide (csrBytes c.2.1 c.2.2.2 ≤ c.1.sec.bytes)) .sect
  need (inData es (bits (gather.getD 1 0) 0 23) (4 * bits (gather.getD 0 0) 0 14)
    && inData es (bits (gather.getD 2 0) 0 23) ((bits (gather.getD 0 0) 0 14 + 7) / 8)) .sect
  need (match h.dpe.prog with
    | some g => g.vds.all (vdInData (es.map (·.sec)))
    | none => true) .sect
  need (csrs.all fun c =>
    let k := payloadCsr c.2
    csrOk c.2 k && (if c.1.sec.typ = 2 then k.rows == p.n && k.cols == p.n && k.nz == p.nzP
      else c.1.sec.mx != 0 || (k.rows == p.m && k.cols == p.n && k.nz == p.nzA))) .structure_
  let pat := payloadFor b es 3
  let t := patternOf (fun x => imgNum pat x 4) (fun x => imgNum pat x 2) (p.n + p.m) p.supers p.rowIdx
  need (patternStructOk t (p.n + p.m)) .structure_
  let block := fun (typ : Nat) => payloadCsr (match es.find? fun e => e.sec.typ == typ && e.sec.mx == 0 with
    | some e => payloadOf b e
    | none => [])
  need (patternOk t p (block 1) (block 2)) .pattern
  need (h.directionOk gather mail) .direction
  return ({ p with secs := es.map (·.sec) }, es)

/-! ## The verdict (R254, R258) -/

/-- Length of a problem image: its header, table and payloads. -/
def probLength (b : List Byte) : Nat :=
  let cnt := bits (imgNum b 0 8) 32 5
  (List.range cnt).foldl (fun n i => let e := secEntry b i; if e.zero then n else max n (e.payload + e.sec.bytes)) (64 + 16 * cnt)

/-- Bytes that the header of an image says: a program with its code, or a problem's header and table. -/
def dHeadLength (prog : Bool) (hd : List Byte) : Nat :=
  if prog then 272 + 8 * min (bits (imgNum hd 0 8) 32 15) 16384 else 64 + 16 * bits (imgNum hd 0 8) 32 5

/-- The bytes of the image a load names, read as M18 with D0: a program with its key and signature, or a problem; none when a read ends
with an error. The second is the hardware after the reads: banks awake, what was refused or failed recorded (R377, R378, R368). -/
def Hw.dImage (h : Hw) (mem : List Host.Cell) (fate : ReadFate) (prog : Bool) (addr : Nat) : Option (List Byte × List Byte) × Hw :=
  let rd := fun (n : Nat) => match h.readAs mem 18 0 addr n with
    | .error _ => (none, h.noteRefused 18 0 addr n .read)
    | .ok b => if (h.failsAt 18 addr fate).any fun o => decide (o < n) then (none, h.noteFate 18 0 addr fate) else (some b, h.wake addr n)
  match rd 64 with
  | (none, g) => (none, g)
  | (some hd, _) =>
    let n := dHeadLength prog hd
    if prog then ((rd (n + 96)).1.map fun b => (b.take n, b.drop n), (rd (n + 96)).2)
    else match rd n with
      | (none, g) => (none, g)
      | (some tb, _) => ((rd (probLength tb)).1.map fun b => (b, []), (rd (probLength tb)).2)

/-- A refused load: nothing of its kind stays loaded (R258). -/
def Hw.loadRefused (h : Hw) (prog : Bool) (r : DRefusal) : Hw :=
  let detail := match r.at_ with
    | some a => a
    | none => h.freeVal 24
  let h := if r.at_.isNone then h.useFree else h
  let h := ((h.setFld DPE_LDSTAT_VERDICT 2).setFld DPE_LDSTAT_REASON r.reason.code).setFld DPE_LDSTAT_DETAIL detail
  if prog then (h.setDpe fun d => { d with prog := none, code := [] }).setFlag DPE_STAT_PROGOK false
  else ((h.setDpe fun d => { d with prob := none, facOk := false }).setFlag DPE_STAT_PROBOK false).setFlag DPE_STAT_WARMOK false

/-- An admitted load. -/
def Hw.loadAdmitted (h : Hw) : Hw :=
  ((h.setFld DPE_LDSTAT_VERDICT 1).setFld DPE_LDSTAT_REASON 0).setFld DPE_LDSTAT_DETAIL 0

/-- A load ends with its verdict; not before a clearing has ended (R258, R262, R263). -/
def loadVerdict (mem : List Host.Cell) (fate : ReadFate) (h : Hw) : Hw :=
  match h.dpe.load with
  | none => h
  | some l =>
    if h.dpe.clearing then h
    else
      let h := h.setDpe fun d => { d with load := none }
      let (got, h) := h.dImage mem fate l.prog l.addr
      let h := match got with
        | none => h.loadRefused l.prog ⟨.format, none⟩
        | some (b, sig) =>
          if l.prog then
            match h.checkProg b sig with
            | .error r => h.loadRefused true r
            | .ok (p, code) =>
              ((h.loadAdmitted).setDpe fun d => { d with prog := some p, code := (List.range code.length).zip code }).setFlag
                DPE_STAT_PROGOK true
          else
            match h.checkProb b with
            | .error r => h.loadRefused false r
            | .ok (p, es) =>
              let h := h.loadAdmitted.setDpe fun d => { d with prob := some p, facOk := false }
              let h := es.foldl (fun (h : Hw) (e : DSecEntry) =>
                h.setScratch e.sec.off (if e.zero then List.replicate e.sec.bytes 0#8 else payloadOf b e)) h
              ((h.setFlag DPE_STAT_PROBOK true).setFlag DPE_STAT_WARMOK false).applyWarm
      h.dRest.raise 77

/-! ## Meanings -/

def execLoadProg (s : State) : Host.Outcome State Fault Refusal := .next (s.onHw (dpeLoad true))
def execLoadProb (s : State) : Host.Outcome State Fault Refusal := .next (s.onHw (dpeLoad false))
def execLoadVerdict (fate : ReadFate) (s : State) : Host.Outcome State Fault Refusal := .next (s.onHw (loadVerdict s.mem fate))
def execDpeSolve (s : State) : Host.Outcome State Fault Refusal := .next (s.onHw dpeSolve)
def execDpeAbort (s : State) : Host.Outcome State Fault Refusal := .next (s.onHw dpeAbort)
def execDpeUnload (s : State) : Host.Outcome State Fault Refusal := .next (s.onHw dpeUnload)
def execUnloadClearDone (s : State) : Host.Outcome State Fault Refusal := .next (s.onHw unloadClearDone)
def execDpeEn (on : Bool) (s : State) : Host.Outcome State Fault Refusal := .next (s.onHw (dpeEn on))
def execScfgWrite (val : BitVec 32) (s : State) : Host.Outcome State Fault Refusal := .next (s.onHw (scfgWrite val.toNat))
def execCapsWrite (val : BitVec 32) (s : State) : Host.Outcome State Fault Refusal := .next (s.onHw (capsWrite val.toNat))
def execScratchWrite (src : Src) (off : BitVec 23) (data : List Byte) (s : State) : Host.Outcome State Fault Refusal :=
  .next (s.onHw fun h => h.asWrite src (0x26000000 + off.toNat) data.length
    (scratchWrite src.master.val src.dom.toNat off.toNat data))
def execGatherComplete (failed : Bool) (s : State) : Host.Outcome State Fault Refusal := .next (s.onHw (gatherComplete failed))
def execStagingComplete (s : State) : Host.Outcome State Fault Refusal := .next (s.onHw stagingComplete)
def execSolveDeadline (s : State) : Host.Outcome State Fault Refusal := .next (s.onHw solveDeadline)
def execDpeMemoryError (corrected code : Bool) (addr : BitVec 23) (s : State) : Host.Outcome State Fault Refusal :=
  .next (s.onHw (dpeMemoryError corrected code addr.toNat))

def execDIadd (d a b : Fin 16) (s : State) : Host.Outcome State Fault Refusal := .next (s.onHw (dIadd d.val a.val b.val))
def execDIsub (d a b : Fin 16) (s : State) : Host.Outcome State Fault Refusal := .next (s.onHw (dIsub d.val a.val b.val))
def execDIaddi (d a : Fin 16) (imm : Word) (s : State) : Host.Outcome State Fault Refusal := .next (s.onHw (dIaddi d.val a.val imm))
def execDIli (d : Fin 16) (imm : Word) (s : State) : Host.Outcome State Fault Refusal := .next (s.onHw (dIli d.val imm))
def execDImul (d a b : Fin 16) (s : State) : Host.Outcome State Fault Refusal := .next (s.onHw (dImul d.val a.val b.val))
def execDFadd (d a b : Fin 16) (s : State) : Host.Outcome State Fault Refusal := .next (s.onHw (dFadd d.val a.val b.val))
def execDFsub (d a b : Fin 16) (s : State) : Host.Outcome State Fault Refusal := .next (s.onHw (dFsub d.val a.val b.val))
def execDFmul (d a b : Fin 16) (s : State) : Host.Outcome State Fault Refusal := .next (s.onHw (dFmul d.val a.val b.val))
def execDFfma (d a b c : Fin 16) (s : State) : Host.Outcome State Fault Refusal :=
  .next (s.onHw (dFfma d.val a.val b.val c.val))
def execDFdiv (d a b : Fin 16) (s : State) : Host.Outcome State Fault Refusal := .next (s.onHw (dFdiv d.val a.val b.val))
def execDFsqrt (d a : Fin 16) (s : State) : Host.Outcome State Fault Refusal := .next (s.onHw (dFsqrt d.val a.val))
def execDFmm (d : Fin 16) (f : DMm (Fin 16)) (s : State) : Host.Outcome State Fault Refusal := .next (s.onHw (dFmm d.val f))
def execDFli (d : Fin 16) (imm : Word) (s : State) : Host.Outcome State Fault Refusal := .next (s.onHw (dFli d.val imm))
def execDCvt (toInt : Bool) (d a : Fin 16) (s : State) : Host.Outcome State Fault Refusal := .next (s.onHw (dCvt toInt d.val a.val))
def execDLdw (int : Bool) (d a : Fin 16) (imm : Word) (s : State) : Host.Outcome State Fault Refusal :=
  .next (s.onHw (dLdw int d.val a.val imm))
def execDStw (int : Bool) (a b : Fin 16) (imm : Word) (s : State) : Host.Outcome State Fault Refusal :=
  .next (s.onHw (dStw int a.val b.val imm))
def execDVdset (d : Fin 32) (a : Fin 16) (base : BitVec 23) (s : State) : Host.Outcome State Fault Refusal :=
  .next (s.onHw (dVdset d.val a.val base.toNat))
def execDVdsub (d a : Fin 32) (b c : Fin 16) (s : State) : Host.Outcome State Fault Refusal :=
  .next (s.onHw (dVdsub d.val a.val b.val c.val))
def execDNop (s : State) : Host.Outcome State Fault Refusal := .next (s.onHw dNop)
def execDVcpy (d a : Fin 32) (s : State) : Host.Outcome State Fault Refusal := .next (s.onHw (dVcpy d.val a.val))
def execDVset (d : Fin 32) (c : Fin 16) (s : State) : Host.Outcome State Fault Refusal := .next (s.onHw (dVset d.val c.val))
def execDVaxpy (d a b : Fin 32) (c : Fin 16) (s : State) : Host.Outcome State Fault Refusal :=
  .next (s.onHw (dVaxpy d.val a.val b.val c.val))
def execDVaxpby (d a b : Fin 32) (c f : Fin 16) (s : State) : Host.Outcome State Fault Refusal :=
  .next (s.onHw (dVaxpby d.val a.val b.val c.val f.val))
def execDVmul (d a b : Fin 32) (s : State) : Host.Outcome State Fault Refusal := .next (s.onHw (dVmul d.val a.val b.val))
def execDVdiv (d a b : Fin 32) (s : State) : Host.Outcome State Fault Refusal := .next (s.onHw (dVdiv d.val a.val b.val))
def execDVmm (d : Fin 32) (f : DMm (Fin 32)) (s : State) : Host.Outcome State Fault Refusal := .next (s.onHw (dVmm d.val f))
def execDVproj (d a b c : Fin 32) (s : State) : Host.Outcome State Fault Refusal :=
  .next (s.onHw (dVproj d.val a.val b.val c.val))
def execDVnrm (f : DNorm) (d : Fin 16) (a : Fin 32) (s : State) : Host.Outcome State Fault Refusal :=
  .next (s.onHw (dVnrm f d.val a.val))
def execDVdot (d : Fin 16) (a b : Fin 32) (s : State) : Host.Outcome State Fault Refusal :=
  .next (s.onHw (dVdot d.val a.val b.val))
def execDSpmv (d : Fin 32) (m : Fin 8) (b : Fin 32) (c f : Fin 16) (s : State) : Host.Outcome State Fault Refusal :=
  .next (s.onHw (dSpmv d.val m.val b.val c.val f.val))
def execDSpmvt (d : Fin 32) (m : Fin 8) (b : Fin 32) (c f : Fin 16) (s : State) : Host.Outcome State Fault Refusal :=
  .next (s.onHw (dSpmvt d.val m.val b.val c.val f.val))
def execDSpmvs (d b : Fin 32) (c f : Fin 16) (s : State) : Host.Outcome State Fault Refusal :=
  .next (s.onHw (dSpmvs d.val b.val c.val f.val))
def execDLdlf (b c : Fin 32) (s : State) : Host.Outcome State Fault Refusal := .next (s.onHw (dLdlf b.val c.val))
def execDTrsvl (d a : Fin 32) (s : State) : Host.Outcome State Fault Refusal := .next (s.onHw (dTrsvl d.val a.val))
def execDTrsvu (d a : Fin 32) (s : State) : Host.Outcome State Fault Refusal := .next (s.onHw (dTrsvu d.val a.val))
def execDDsolve (d a : Fin 32) (s : State) : Host.Outcome State Fault Refusal := .next (s.onHw (dDsolve d.val a.val))
def execDB (c : DCond) (tgt : BitVec 14) (s : State) : Host.Outcome State Fault Refusal := .next (s.onHw (dB c tgt.toNat))
def execDCall (tgt : BitVec 14) (s : State) : Host.Outcome State Fault Refusal := .next (s.onHw (dCall tgt.toNat))
def execDRet (s : State) : Host.Outcome State Fault Refusal := .next (s.onHw dRet)
def execDItmark (s : State) : Host.Outcome State Fault Refusal := .next (s.onHw dItmark)
def execDRpt (a b : Fin 16) (s : State) : Host.Outcome State Fault Refusal := .next (s.onHw (dRpt a.val b.val))
def execDGstat (f : Fin 5) (d : Fin 16) (s : State) : Host.Outcome State Fault Refusal := .next (s.onHw (dGstat f.val d.val))
def execDClrf (s : State) : Host.Outcome State Fault Refusal := .next (s.onHw dClrf)
def execDDone (r : DResult) (a : Fin 32) (s : State) : Host.Outcome State Fault Refusal := .next (s.onHw (dDone r a.val))

end Sys2Proof.Machine
end

