-- ==== Sys2Proof/Machine/Mooring.lean ====
section
/-! DEFINITION. The Mooring pool (10): cells, packets and queues, the operations of producers and consumers, flush, bank
withdrawal and quarantine (R421-R436). -/

namespace Sys2Proof.Machine

/-! ## Cells -/

def MorQueue.empty : MorQueue := ⟨[], [], []⟩
def Hw.morQ (h : Hw) (q : Nat) : MorQueue := Tab.getD h.mor.queues q MorQueue.empty
def Hw.setMorQ (h : Hw) (q : Nat) (x : MorQueue) : Hw :=
  { h with mor := { h.mor with queues := Tab.put h.mor.queues q x } }

/-- Cells a packet holds: those whose last word is not popped (R425). -/
def MorPacket.held (p : MorPacket) : List Nat := p.cells.drop (p.read / 8)

/-- Cells a queue holds, open packets included (R430). -/
def MorQueue.held (x : MorQueue) : List Nat :=
  (x.pkts.map MorPacket.held).flatten ++ (x.building.map fun e => e.2.cells).flatten

/-- Cells in use. -/
def Hw.cellsUsed (h : Hw) : List Nat := (h.mor.queues.map fun e => e.2.held ++ e.2.unreached).flatten

/-- Bank of a cell. -/
def bankOf (c : Nat) : Nat := c / 4096

/-- Cells out of service in the enabled banks: in use, quarantined or lost. -/
def Hw.cellsOut (h : Hw) : List Nat :=
  ((h.cellsUsed ++ h.mor.quar ++ h.mor.lost).filter fun c => h.fldBit MOR_BANKEN_EN (bankOf c)).eraseDups

/-- Whether a cell is on the free list (R432, R434, R435). -/
def Hw.cellFree (h : Hw) (c : Nat) : Bool := h.fldBit MOR_BANKEN_EN (bankOf c) && !h.cellsOut.contains c

/-- Free cells. -/
def Hw.cellsFree (h : Hw) : Nat :=
  4096 * ((List.range 16).filter fun b => h.fldBit MOR_BANKEN_EN b).length - h.cellsOut.length

/-- A fresh cell. The order of the free list is not stated: the first free cell at or after a free value (log entry 21, DESIGN CHOICE). -/
def Hw.freshCell (h : Hw) : Option Nat :=
  if h.cellsFree = 0 then none
  else ((List.range 65536).map fun i => (h.freeVal 16 + i) % 65536).find? fun c => h.cellFree c

/-- Open packets of the pool (R423). -/
def Hw.morOpen (h : Hw) : Nat := (h.mor.queues.map fun e => e.2.building.length).sum

/-- The counts of R430 and R439 after an operation on queue `q`. -/
def Hw.morShow (h : Hw) (q : Nat) : Hw :=
  let x := h.morQ q
  let h := (h.setFld (MOR_Q_PKTS q) x.pkts.length).setFld (MOR_Q_WORDS q) (x.pkts.map fun p => p.words - p.read).sum
  let h := (h.setFld (MOR_Q_CELLS q) (x.held.length + x.unreached.length)).setFld MOR_STAT_FREE h.cellsFree
  h.setFld MOR_STAT_OPEN h.morOpen

/-- Cells have been freed: quarantined ones raise E116 (R435), and a withdrawing bank whose last cell this was is OFF (R434). -/
def Hw.cellsFreed (h : Hw) (cs : List Nat) : Hw :=
  cs.foldl (fun h c =>
    let h := if h.mor.quar.contains c then h.raise 116 else h
    let b := bankOf c
    if h.fldBit MOR_BANKST_DRAIN b && h.cellsUsed.all fun d => bankOf d != b then
      ((h.setFldBit MOR_BANKST_DRAIN b false).setFldBit MOR_BANKST_OFF b true).raise 115
    else h) h

/-- Reads and writes a word of a packet. -/
def Hw.morWord (h : Hw) (p : MorPacket) (i : Nat) : Word64 := Tab.getD h.mor.pool (p.cells.getD (i / 8) 0 * 8 + i % 8) 0#64
def Hw.setMorWord (h : Hw) (p : MorPacket) (i : Nat) (w : Word64) : Hw :=
  { h with mor := { h.mor with pool := Tab.put h.mor.pool (p.cells.getD (i / 8) 0 * 8 + i % 8) w } }

/-! ## Producers (R422, R423, R428, R429) -/

def Hw.dropP (h : Hw) (q : Nat) : Hw := h.countS (MOR_Q_DROPP_COUNT q) (MOR_Q_DROPP_SAT q) 114 1
def Hw.dropW (h : Hw) (q : Nat) : Hw := h.countS (MOR_Q_DROPW_COUNT q) (MOR_Q_DROPW_SAT q) 114 1

/-- Operations on the queue are discarded: it is BROKEN or disabled, or the pool is not in service (R428, R439, log
entry 22, DESIGN CHOICE). -/
def Hw.morOff (h : Hw) (q : Nat) : Bool :=
  !h.flag MOR_CTRL_EN || !h.flag (MOR_Q_CFG_EN q) || h.flag (MOR_Q_STAT_BROKEN q)

/-- A packet takes a cell for its next word, or is marked dropped (R429). -/
def Hw.morGrow (h : Hw) (q : Nat) (p : MorPacket) : Hw × MorPacket :=
  let held := (h.morQ q).held.length + (h.morQ q).unreached.length
  if h.fld (MOR_Q_CFG_QUOTA q) ≤ held then (h, { p with dropped := true })
  else match h.freshCell with
    | some c => (h.useFree, { p with cells := p.cells ++ [c] })
    | none => (h, { p with dropped := true })

/-- The open packet of a producer goes: its cells are freed. -/
def Hw.morDiscard (h : Hw) (q prod : Nat) (p : MorPacket) : Hw :=
  let x := h.morQ q
  (h.setMorQ q { x with building := Tab.del x.building prod }).cellsFreed p.cells

/-- BEGIN (R422, R423). -/
def Hw.qBegin (h : Hw) (q prod : Nat) : Hw :=
  if h.morOff q then h.dropW q
  else
    let h := match Tab.get? (h.morQ q).building prod with
      | some p => (h.morDiscard q prod p).dropP q
      | none => h
    let h := if 256 ≤ h.morOpen then h
      else
        let (h, p) := h.morGrow q ⟨[], 1, 0, false⟩
        let x := h.morQ q
        h.setMorQ q { x with building := Tab.put x.building prod p }
    h.morShow q

/-- PUSH (R422). -/
def Hw.qPush (h : Hw) (q prod : Nat) (w : Word64) : Hw :=
  if h.morOff q then h.dropW q
  else match Tab.get? (h.morQ q).building prod with
    | none => h.dropW q
    | some p =>
      if p.dropped then h
      else
        let (h, p) := if p.words % 8 = 0 then h.morGrow q p else (h, p)
        let h := if p.dropped then h else h.setMorWord p p.words w
        let p := if p.dropped then p else { p with words := p.words + 1 }
        let x := h.morQ q
        (h.setMorQ q { x with building := Tab.put x.building prod p }).morShow q

/-- END (R422, R424, R429). The length of a packet without words and LAST above 0 is not stated: a free value. -/
def Hw.qEnd (h : Hw) (q prod flags last : Nat) : Hw :=
  if h.morOff q then h.dropW q
  else match Tab.get? (h.morQ q).building prod with
    | none => h.setFlag (MOR_Q_STAT_SEQERR q) true
    | some p =>
      if p.dropped then ((h.morDiscard q prod p).dropP q).morShow q
      else
        let n := p.words - 1
        let len := if last = 0 then 8 * n else if n = 0 then h.freeVal 32 else 8 * n - (8 - last)
        let h := if last ≠ 0 ∧ n = 0 then h.useFree else h
        let h := h.setMorWord p 0 (BitVec.ofNat 64 (2 ^ 63 + flags % 256 * 2 ^ 32 + len))
        let x := h.morQ q
        (h.setMorQ q { x with building := Tab.del x.building prod, pkts := x.pkts ++ [p] }).morShow q

/-- A write of MOR.QCELL by the Keeper (R435). -/
def morQcell (op cell : Nat) (h : Hw) : Hw :=
  let h := (h.setFld MOR_QCELL_CELL cell).setFld MOR_QCELL_OP op
  let q := if op = 1 then (if h.mor.quar.contains cell then h.mor.quar else cell :: h.mor.quar)
    else if op = 2 then h.mor.quar.filter fun c => c != cell else h.mor.quar
  let h := { h with mor := { h.mor with quar := q } }
  (h.setFld MOR_QCNT_COUNT q.length).setFld MOR_STAT_FREE h.cellsFree

/-- The Keeper's own quarantine (R618, log entry 188, DESIGN CHOICE); it stops on the power-fail indication (R619). -/
def Hw.keeperQuarantine (h : Hw) (cell : Nat) : Hw := if h.sys.down.isSome then h else morQcell 1 cell h

/-! ## Consumers (R425-R428) -/

/-- The idle item (R424). -/
def idleItem : Word64 := 0x8000FFFFFFFFFFFF#64

/-- An uncorrectable error is counted and its place shown (R427, R439); the Keeper quarantines the cell (R618). -/
def Hw.poolUe (h : Hw) (q cell word : Nat) (link : Bool) : Hw :=
  let h := h.countS MOR_UECNT_COUNT MOR_UECNT_SAT 114 1
  let h := ((h.setFld MOR_UEADDR_CELL cell).setFld MOR_UEADDR_WORD word).setFlag MOR_UEADDR_LINK link
  ((h.setFld MOR_UEADDR_QUEUE q).setFlag MOR_UEADDR_VALID true).keeperQuarantine cell

/-- The queue becomes BROKEN (R428); its links no longer reach `lost`. -/
def Hw.breakQ (h : Hw) (q : Nat) (lost : List Nat) : Hw :=
  let x := h.morQ q
  let keep := fun (p : MorPacket) => { p with cells := p.cells.filter fun c => !lost.contains c || p.cells.idxOf c < p.read / 8 }
  let h := h.setMorQ q { x with pkts := x.pkts.map keep, unreached := x.unreached ++ lost }
  ((h.setFlag (MOR_Q_STAT_BROKEN q) true).raise 113).morShow q

/-- The check of a packet before its length word is returned (R427, R428): whether it carries UE; `none` when the queue
breaks. -/
def Hw.morCheck (h : Hw) (q : Nat) (p : MorPacket) (err : PoolErr) : Hw × Option Bool :=
  match err with
  | .none => (h, some false)
  | .corrected => (h.countS MOR_CECNT_COUNT MOR_CECNT_SAT 114 1, some false)
  | .data i =>
    if i = 0 ∨ p.words ≤ i then (h, some false)
    else
      let h := h.poolUe q (p.cells.getD (i / 8) 0) (i % 8) false
      (((h.setMorWord p i (BitVec.ofNat 64 (h.freeVal 64))).useFree).raise 112, some true)
  | .length => ((h.poolUe q (p.cells.getD 0 0) 0 false).breakQ q [], none)
  | .link k =>
    if p.cells.length ≤ k then (h, some false)
    else
      let rest := p.cells.drop (k + 1) ++ ((h.morQ q).pkts.drop 1 |>.map MorPacket.held).flatten
      ((h.poolUe q (p.cells.getD k 0) 0 true).breakQ q rest, none)

/-- The next word of the head packet is removed; its cell is freed with its last word (R425). -/
def Hw.morAdvance (h : Hw) (q : Nat) : Hw :=
  let x := h.morQ q
  match x.pkts with
  | [] => h
  | p :: ps =>
    let p' := { p with read := p.read + 1 }
    let ends := decide (p.words ≤ p'.read)
    let freed := if ends then p.cells.drop (p.read / 8) else if p'.read % 8 = 0 then [p.cells.getD (p.read / 8) 0] else []
    ((h.setMorQ q { x with pkts := if ends then ps else p' :: ps }).cellsFreed freed).morShow q

/-- A pop: the word, or `none` for the idle item; whether the word is a length word, and whether it carries UE (R425, R427). -/
def Hw.qPop (h : Hw) (q : Nat) (err : PoolErr) : Hw × Option (Word64 × Bool × Bool) :=
  if h.morOff q then (h, none)
  else match (h.morQ q).pkts with
    | [] => (h, none)
    | p :: _ =>
      if p.read = 0 then
        match h.morCheck q p err with
        | (h, none) => (h, none)
        | (h, some ue) => (h.morAdvance q, some (h.morWord p 0 ||| (if ue then 1#64 <<< 40 else 0#64), true, ue))
      else (h.morAdvance q, some (h.morWord p p.read, false, false))

/-- The next data word for a Tender channel, length words left out; `none` without a complete packet or at one with UE
(R426). -/
def Hw.qPopData (fuel : Nat) (h : Hw) (q : Nat) (err : PoolErr) : Hw × Option Word64 :=
  match fuel with
  | 0 => (h, none)
  | n + 1 =>
    match h.qPop q err with
    | (h, none) => (h, none)
    | (h, some (w, isLen, ue)) => if ue then (h, none) else if isLen then Hw.qPopData n h q .none else (h, some w)

/-- A whole packet taken by the packet engine: its length word and its data words; a head packet that another reader has
begun is discarded and has no length word (log entry 23, DEDUCED). -/
def Hw.qTake (h : Hw) (q : Nat) (err : PoolErr) : Hw × Option (Word64 × List Word64) :=
  if h.morOff q then (h, none)
  else match (h.morQ q).pkts with
    | [] => (h, none)
    | p :: _ =>
      match (if p.read = 0 then h.morCheck q p err else (h, some true)) with
      | (h, none) => (h, none)
      | (h, some ue) =>
        let len := if p.read = 0 then h.morWord p 0 else 0#64
        let ws := (List.range (p.words - 1)).map fun i => h.morWord p (i + 1)
        let x := h.morQ q
        let h := ((h.setMorQ q { x with pkts := x.pkts.drop 1 }).cellsFreed p.held).morShow q
        (h, some (len ||| (if ue then 1#64 <<< 40 else 0#64), ws))

/-! ## Whole packets of the packet engine (R407) -/

/-- Producer numbers: a host core by its number, a Tender channel as 64 + n, a port of the packet engine as 128 + port. -/
def portProd (port : Nat) : Nat := 128 + port

/-- Whether a domain may operate on a queue (R431). -/
def Hw.morDom (h : Hw) (q dom : Nat) : Bool := dom == 0 || h.fld (MOR_Q_CFG_DOM q) == dom

/-- Address of a queue register. -/
def morAddr (q off : Nat) : Nat := 0x30191000 + 0x40 * q + off

/-- A refused operation (R431). -/
def Hw.morRefuse (h : Hw) (q off master dom : Nat) (kind : TKind) : Hw :=
  h.violation (morAddr q off) master dom 8 kind .targetRule

/-- A packet of `len` bytes is pushed whole by a port of the packet engine; whether it has joined the queue. -/
def Hw.pushWhole (h : Hw) (port dom q : Nat) (ws : List Word64) (len : Nat) : Hw × Bool :=
  if h.morDom q dom then
    let n := (h.morQ q).pkts.length
    let h := h.qBegin q (portProd port)
    let h := ws.foldl (fun h w => h.qPush q (portProd port) w) h
    let h := h.qEnd q (portProd port) 0 (len % 8)
    (h, decide (n < (h.morQ q).pkts.length))
  else ((h.morRefuse q 8 20 dom .write).dropP q, false)

/-- Words of a byte string, the last padded with 0 (R408). -/
def toWords (fuel : Nat) (l : List Byte) : List Word64 :=
  match fuel with
  | 0 => []
  | n + 1 => if l.isEmpty then [] else BitVec.ofNat 64 (ofBytes (l.take 8)) :: toWords n (l.drop 8)

/-! ## Flush, banks, quarantine (R432-R435) -/

/-- FLUSH (R432). -/
def morFlush (q : Nat) (h : Hw) : Hw :=
  let x := h.morQ q
  let h := h.setMorQ q MorQueue.empty
  let h := { h with mor := { h.mor with lost := h.mor.lost ++ x.unreached } }
  let h := h.setFld MOR_LOSTCELLS_COUNT h.mor.lost.length
  ((h.setFlag (MOR_Q_STAT_BROKEN q) false).cellsFreed x.held).morShow q

/-- A write of MOR.BANKEN (R434). -/
def morBanken (v : Nat) (h : Hw) : Hw :=
  let old := h.fld MOR_BANKEN_EN
  let h := h.setFld MOR_BANKEN_EN v
  let h := (List.range 16).foldl (fun h b =>
    if old.testBit b && !v.testBit b then
      if h.cellsUsed.all fun c => bankOf c != b then (h.setFldBit MOR_BANKST_OFF b true).raise 115
      else h.setFldBit MOR_BANKST_DRAIN b true
    else if v.testBit b then (h.setFldBit MOR_BANKST_OFF b false).setFldBit MOR_BANKST_DRAIN b false
    else h) h
  h.setFld MOR_STAT_FREE h.cellsFree

/-- Masters other than M4 may not write MOR.QCELL. -/
def Hw.keeperOnly (h : Hw) (src : Src) (addr : Nat) (f : Hw → Hw) : Hw := if isKeeper src then f h else h.refuseReg src addr

/-- An operation of a master through the registers of a queue. -/
def Hw.queueOp (h : Hw) (src : Src) (q off : Nat) (f : Hw → Hw) : Hw :=
  if h.morDom q src.dom.toNat then f h else h.morRefuse q off src.master.val src.dom.toNat .write

/-- A pop through MOR.Qn_POP. -/
def morPop (src : Src) (q : Nat) (err : PoolErr) (h : Hw) : Hw :=
  if h.morDom q src.dom.toNat then
    match h.qPop q err with
    | (h, some (w, _, _)) => h.respond (toBytes 8 w.toNat)
    | (h, none) => h.respond (toBytes 8 idleItem.toNat)
  else h.morRefuse q 0x18 src.master.val src.dom.toNat .read

/-! ## Meanings -/

def execMorBegin (src : Src) (q : Fin 64) (s : State) : Host.Outcome State Fault Refusal :=
  .next (s.onHw fun h => h.queueOp src q.val 8 fun h => h.qBegin q.val src.master.val)
def execMorPush (src : Src) (q : Fin 64) (w : BitVec 64) (s : State) : Host.Outcome State Fault Refusal :=
  .next (s.onHw fun h => h.queueOp src q.val 0x10 fun h => h.qPush q.val src.master.val w)
def execPacketEnd (src : Src) (q : Fin 64) (flags : BitVec 8) (last : BitVec 3) (s : State) : Host.Outcome State Fault Refusal :=
  .next (s.onHw fun h => h.queueOp src q.val 0xC fun h => h.qEnd q.val src.master.val flags.toNat last.toNat)
def execMorPop (src : Src) (q : Fin 64) (err : PoolErr) (s : State) : Host.Outcome State Fault Refusal :=
  .next (s.onHw (morPop src q.val err))
def execMorFlush (q : Fin 64) (s : State) : Host.Outcome State Fault Refusal := .next (s.onHw (morFlush q.val))
def execBanken (en : BitVec 16) (s : State) : Host.Outcome State Fault Refusal := .next (s.onHw (morBanken en.toNat))
def execQuarantine (src : Src) (cell : BitVec 16) (s : State) : Host.Outcome State Fault Refusal :=
  .next (s.onHw fun h => h.keeperOnly src 0x30190010 (morQcell 1 cell.toNat))
def execQuarantineReturn (src : Src) (cell : BitVec 16) (s : State) : Host.Outcome State Fault Refusal :=
  .next (s.onHw fun h => h.keeperOnly src 0x30190010 (morQcell 2 cell.toNat))

end Sys2Proof.Machine
end

