-- ==== Sys2Proof/Machine/Stations.lean ====
section
/-! DEFINITION. The station table (04): station writes, the state machine at period ends, RIO.SUM (R193-R202, R206, R681), and
the build sum of the packet engine's ports (10 R414). -/

namespace Sys2Proof.Machine

/-! ## Station entries -/

/-- Register images of RIO.SCFGn and RIO.SMAPn in force. -/
def Hw.scfg (h : Hw) (n : Nat) : Nat :=
  h.fld (RIO_SCFG_EN n) + h.fld (RIO_SCFG_TRANSPORT n) * 2 + h.fld (RIO_SCFG_PORT n) * 2 ^ 2 + h.fld (RIO_SCFG_PERIOD n) * 2 ^ 5
    + h.fld (RIO_SCFG_LOSTCNT n) * 2 ^ 13 + h.fld (RIO_SCFG_MSGS n) * 2 ^ 21 + h.fld (RIO_SCFG_NOTIFY n) * 2 ^ 24
    + h.fld (RIO_SCFG_NOTIFYEN n) * 2 ^ 27 + h.fld (RIO_SCFG_PHASE n) * 2 ^ 28
def Hw.smap (h : Hw) (n : Nat) : Nat :=
  h.fld (RIO_SMAP_IN_BASE n) + h.fld (RIO_SMAP_IN_CNT n) * 2 ^ 17 + h.fld (RIO_SMAP_OUT_BASE n) * 2 ^ 28
    + h.fld (RIO_SMAP_OUT_CNT n) * 2 ^ 45

/-- An entry as last written, a write that waits for its F+0 included (R414; what a read of the register returns, log
entry 24, DEDUCED). -/
def Hw.stationWritten (h : Hw) (n : Nat) (map : Bool) : Nat :=
  match h.img.stWrites.reverse.find? fun w => w.n == n && w.map == map with
  | some w => w.val
  | none => if map then h.smap n else h.scfg n

def Hw.setScfg (h : Hw) (n v : Nat) : Hw :=
  let h := ((h.setFld (RIO_SCFG_EN n) (bits v 0 1)).setFld (RIO_SCFG_TRANSPORT n) (bits v 1 1)).setFld (RIO_SCFG_PORT n) (bits v 2 3)
  let h := ((h.setFld (RIO_SCFG_PERIOD n) (bits v 5 8)).setFld (RIO_SCFG_LOSTCNT n) (bits v 13 8)).setFld (RIO_SCFG_MSGS n) (bits v 21 3)
  ((h.setFld (RIO_SCFG_NOTIFY n) (bits v 24 3)).setFld (RIO_SCFG_NOTIFYEN n) (bits v 27 1)).setFld (RIO_SCFG_PHASE n) (bits v 28 8)
def Hw.setSmap (h : Hw) (n v : Nat) : Hw :=
  (((h.setFld (RIO_SMAP_IN_BASE n) (bits v 0 17)).setFld (RIO_SMAP_IN_CNT n) (bits v 17 11)).setFld (RIO_SMAP_OUT_BASE n)
    (bits v 28 17)).setFld (RIO_SMAP_OUT_CNT n) (bits v 45 11)

/-! ## The build sum (R414) -/

/-- Stations whose PKT entry has OUTEN. -/
def Hw.outStations (h : Hw) : List Nat := (List.range 1536).filter fun n => h.flag (PKT_ST_W0_OUTEN n)

/-- What a station adds to the sum of `port`, its RIO entry given by its images. -/
def sumPart (port cfg map out2 : Nat) : Nat :=
  if bits cfg 1 1 = 0 ∧ bits cfg 2 3 = port then 96 + bits map 45 11 + out2 else 0

/-- The build sum of a port but for station `but`. -/
def Hw.sumOthers (h : Hw) (port but : Nat) : Nat :=
  ((h.outStations.filter fun n => n != but).map fun n =>
    sumPart port (h.stationWritten n false) (h.stationWritten n true) (h.fld (PKT_ST_W2_OUT2_CNT n))).sum

/-- PKT.Pn_OLOAD shows the sums. -/
def Hw.showLoads (h : Hw) : Hw := (List.range 6).foldl (fun h p => h.setFld (PKT_P_OLOAD p) (h.sumOthers p 1536)) h

/-! ## Station writes (R201) -/

/-- A range lies in zones that satisfy `ok`; an empty one always does. -/
def rangeZones (base cnt : Nat) (ok : Nat → Bool) : Bool :=
  cnt == 0 || (decide (base + cnt ≤ 131072) && ((List.range 17).map fun i => base / 128 + i).all fun z =>
    decide ((base + cnt - 1) / 128 < z) || ok z)

/-- Whether a write leaves an entry that R201 refuses: new images of SCFG and SMAP. -/
def Hw.stationBad (h : Hw) (n cfg map : Nat) : Bool :=
  let old := h.stationWritten n false
  let oldMap := h.stationWritten n true
  bits cfg 5 8 == 0 || bits cfg 13 8 == 0 || decide (bits cfg 5 8 ≤ bits cfg 28 8)
    || (bits cfg 1 1 == 0 && decide (5 < bits cfg 2 3))
    || !(rangeZones (bits map 0 17) (bits map 17 11) fun z => h.zoneDir z == 1 && h.zoneSrc z == 0)
    || !(rangeZones (bits map 28 17) (bits map 45 11) fun z => h.zoneDir z == 2)
    || (h.flag (PKT_ST_W0_OUTEN n) && (bits map 45 11 != bits oldMap 45 11 || bits cfg 1 4 != bits old 1 4)
      && bits cfg 1 1 == 0
      && decide (94400 < h.sumOthers (bits cfg 2 3) n + sumPart (bits cfg 2 3) cfg map (h.fld (PKT_ST_W2_OUT2_CNT n))))

/-- A write of RIO.SCFGn or RIO.SMAPn; the bits that hold no field are ignored (R3). -/
def stationWrite (n : Nat) (map : Bool) (v : Nat) (h : Hw) : Hw :=
  let v := v % 2 ^ (if map then 56 else 36)
  let cfg := if map then h.stationWritten n false else v
  let m := if map then v else h.stationWritten n true
  if h.stationBad n cfg m then (h.setFlag RIO_STAT_REFUSED true).setFld RIO_STAT_STATION n
  else ({ h with img := { h.img with stWrites := h.img.stWrites ++ [⟨n, map, v⟩] } } : Hw).showLoads

/-- A write of RIO.CTRL.EN waits for the next F+0 (R681). -/
def stationSupervision (on : Bool) (h : Hw) : Hw := { h with img := { h.img with rioEn := some on } }

/-! ## States (R195-R200) -/

/-- RIO.SUM follows. -/
def Hw.showStations (h : Hw) : Hw :=
  let sts := (List.range 1536).map fun n => h.fld (RIO_SSTAT_STATE n)
  let cnt := fun (s : Nat) => (sts.filter fun t => t == s).length
  ((h.setFld RIO_SUM_NGOOD (cnt stnGood)).setFld RIO_SUM_NDEG (cnt stnDegraded)).setFld RIO_SUM_NLOST (cnt stnLost)
    |>.setFld RIO_SUM_NWAIT (cnt stnWait)

/-- The STATION event of the Lantern a station names (R200). -/
def Hw.stationEvent (h : Hw) (n : Nat) : Hw :=
  if h.flag (RIO_SCFG_NOTIFYEN n) then h.raise (32 + 4 * h.fld (RIO_SCFG_NOTIFY n) + 2) else h

/-- STATION_STATE (R200). -/
def Hw.stationRecord (h : Hw) (n old new : Nat) : Hw := h.record 0x032 25 0 (n + old * 2 ^ 16 + new * 2 ^ 20)

/-- A station takes a state; a change raises its event and is recorded (R200). -/
def Hw.stationTo (h : Hw) (n st : Nat) : Hw :=
  let old := h.fld (RIO_SSTAT_STATE n)
  let h := h.setFld (RIO_SSTAT_STATE n) st
  if old = st then h else (h.stationEvent n).stationRecord n old st

/-- A station enters LOST (R195, R206). -/
def Hw.stationLost (h : Hw) (n : Nat) : Hw :=
  let ev := 32 + 4 * h.fld (RIO_SCFG_NOTIFY n) + 2
  let was := h.flag (RIO_SCNT_SAT n)
  let cnt := h.fld (RIO_SCNT_LOSTS n)
  let h := if was then h
    else if cnt + 1 < 2 ^ 31 - 1 then h.setFld (RIO_SCNT_LOSTS n) (cnt + 1)
    else
      let h := (h.setFld (RIO_SCNT_LOSTS n) (2 ^ 31 - 1)).setFlag (RIO_SCNT_SAT n) true
      if h.flag (RIO_SCFG_NOTIFYEN n) then h.raise ev else h
  h.stationTo n stnLost

/-- A message arrives (R193). -/
def Hw.messageArrives (h : Hw) (n msg : Nat) : Hw :=
  if h.fld (RIO_SSTAT_STATE n) = stnOff then h else h.setFldBit (RIO_SSTAT_RXMASK n) msg true

/-- The state machine of R195 at a period end of station `n`. -/
def Hw.periodEnd (h : Hw) (n : Nat) : Hw :=
  let need := 2 ^ (h.fld (RIO_SCFG_MSGS n) + 1) - 1
  let complete := h.fld (RIO_SSTAT_RXMASK n) % (need + 1) = need
  let st := h.fld (RIO_SSTAT_STATE n)
  let miss := h.fld (RIO_SSTAT_MISS n)
  let lost := h.fld (RIO_SCFG_LOSTCNT n)
  let h := h.setFld (RIO_SSTAT_RXMASK n) 0
  if complete then
    let h := h.setFld (RIO_SSTAT_LASTF n) (h.fld FRM_FNUM)
    if st = stnGood then h else (h.setFld (RIO_SSTAT_MISS n) 0).stationTo n stnGood
  else if st = stnLost then h
  else if st = stnGood then
    let h := h.setFld (RIO_SSTAT_MISS n) 1
    if 1 < lost then h.stationTo n stnDegraded else h.stationLost n
  else if miss + 1 < lost then h.setFld (RIO_SSTAT_MISS n) (miss + 1)
  else (h.setFld (RIO_SSTAT_MISS n) lost).stationLost n

/-- The F+0 is a period end of the station (R194). -/
def Hw.atPeriodEnd (h : Hw) (n : Nat) : Bool :=
  let p := h.fld (RIO_SCFG_PERIOD n)
  p != 0 && h.fld FRM_FNUM % p == h.fld (RIO_SCFG_PHASE n)

/-! ## The station table at F+0 (R194-R196, R201, R202, R681) -/

/-- A station enters WAIT, or OFF, as its EN and RIO.CTRL.EN say (R201). -/
def Hw.stationEnter (h : Hw) (n : Nat) : Hw :=
  let h := h.setFld (RIO_SSTAT_RXMASK n) 0
  if h.flag (RIO_SCFG_EN n) && h.flag RIO_CTRL_EN then (h.setFld (RIO_SSTAT_MISS n) 0).stationTo n stnWait
  else h.stationTo n stnOff

/-- A point of a station's ranges satisfies `f`. -/
def Hw.stationPoints (h : Hw) (n : Nat) (f : Nat → Bool) : Bool :=
  ((List.range (h.fld (RIO_SMAP_IN_CNT n))).any fun i => f (h.fld (RIO_SMAP_IN_BASE n) + i))
    || (List.range (h.fld (RIO_SMAP_OUT_CNT n))).any fun i => f (h.fld (RIO_SMAP_OUT_BASE n) + i)

/-- Stations whose points a layout load removed or turned go OFF (R202). -/
def Hw.stationLayout (h : Hw) (changed : Nat → Bool) : Hw :=
  ((List.range 1536).filter fun n => h.flag (RIO_SCFG_EN n) && h.stationPoints n changed).foldl (fun h n =>
    let old := h.fld (RIO_SSTAT_STATE n)
    let h := (h.setFlag (RIO_SCFG_EN n) false).setFld (RIO_SSTAT_RXMASK n) 0
    if old = stnOff then h.stationRecord n 0 0 else h.stationTo n stnOff) h

/-- A load at an idle frame start acts on the entry that a waiting write will leave: its EN is cleared, and the station is OFF (R201,
R202). -/
def Hw.waitingLayout (h : Hw) (changed : Nat → Bool) : Hw :=
  ((List.range 1536).filter fun n => h.img.stWrites.any fun w => w.n == n).foldl (fun h n =>
    let cfg := h.stationWritten n false
    let map := h.stationWritten n true
    let hit := ((List.range (bits map 17 11)).any fun i => changed (bits map 0 17 + i))
      || (List.range (bits map 45 11)).any fun i => changed (bits map 28 17 + i)
    if bitOf cfg 0 && hit then
      let old := h.fld (RIO_SSTAT_STATE n)
      let off : StationWrite := ⟨n, false, cfg - 1⟩
      let h : Hw := { h with img := { h.img with stWrites := h.img.stWrites ++ [off] } }
      if old = stnOff then h.stationRecord n 0 0 else h.stationTo n stnOff
    else h) h

/-- The table at F+0: held writes take effect, a layout load acts, and the periods that end here are judged. -/
def Hw.stationsAtFrame (h : Hw) (changed : Option (Nat → Bool)) : Hw :=
  let ws := h.img.stWrites
  let h := ws.foldl (fun h w => if w.map then h.setSmap w.n w.val else h.setScfg w.n w.val) h
  let was := h.flag RIO_CTRL_EN
  let on := h.img.rioEn.getD was
  let h := { h.setFlag RIO_CTRL_EN on with img := { h.img with stWrites := [], rioEn := none } }
  let todo := (List.range 1536).filter fun n =>
    ws.any (fun w => w.n == n) || (was != on && (h.flag (RIO_SCFG_EN n) || h.fld (RIO_SSTAT_STATE n) != stnOff))
  let h := todo.foldl (fun h n => h.stationEnter n) h
  let h := match changed with
    | some f => h.stationLayout f
    | none => h
  let ends := (List.range 1536).filter fun n => h.fld (RIO_SSTAT_STATE n) != stnOff && !todo.contains n && h.atPeriodEnd n
  let h := ends.foldl (fun h n => h.periodEnd n) h
  let h := { h with img := { h.img with ends := ends } }
  if ws.isEmpty && was == on && changed.isNone && ends.isEmpty then h else h.showStations

/-! ## PKT station entries (R414) -/

/-- A write of word `k` of a PKT station entry. -/
def pktStationWrite (n k v : Nat) (h : Hw) : Hw :=
  let cfg := h.stationWritten n false
  let checked := (k == 0 && bitOf v 61) || (k == 2 && h.flag (PKT_ST_W0_OUTEN n) && bits v 17 11 != h.fld (PKT_ST_W2_OUT2_CNT n))
  let out2 := if k = 2 then bits v 17 11 else h.fld (PKT_ST_W2_OUT2_CNT n)
  if checked && bits cfg 1 1 == 0
      && decide (94400 < h.sumOthers (bits cfg 2 3) n + sumPart (bits cfg 2 3) cfg (h.stationWritten n true) out2) then
    (h.setFlag PKT_STAT_STREF true).raise 105
  else if k = 0 then
    let h := ((h.setFld (PKT_ST_W0_IP n) (bits v 0 32)).setFld (PKT_ST_W0_UDPPORT n) (bits v 32 16)).setFld (PKT_ST_W0_VID n) (bits v 48 12)
    (((h.setFld (PKT_ST_W0_VTAG n) (bits v 60 1)).setFld (PKT_ST_W0_OUTEN n) (bits v 61 1)).setFld (PKT_ST_W0_SRCCHK n) (bits v 62 1)).showLoads
  else if k = 1 then h.setFld (PKT_ST_W1_MAC n) (bits v 0 48)
  else ((h.setFld (PKT_ST_W2_OUT2_BASE n) (bits v 0 17)).setFld (PKT_ST_W2_OUT2_CNT n) (bits v 17 11)).showLoads

/-! ## Meanings -/

def execStationWrite (n : Fin 1536) (map : Bool) (val : BitVec 64) (s : State) : Host.Outcome State Fault Refusal :=
  .next (s.onHw (stationWrite n.val map val.toNat))
def execStationSupervision (on : Bool) (s : State) : Host.Outcome State Fault Refusal := .next (s.onHw (stationSupervision on))
def execPktStationWrite (src : Src) (n : Fin 1536) (word : Fin 3) (val : BitVec 64) (s : State) :
    Host.Outcome State Fault Refusal :=
  .next (s.onHw fun h => h.onlyD0 src (0x30184000 + 0x20 * n.val + 8 * word.val) (pktStationWrite n.val word.val val.toNat))

end Sys2Proof.Machine
end

