-- ==== Sys2Proof/Machine/Packet.lean ====
section
/-! DEFINITION. The packet engine (10): receiving and classifying frames, landings, output datagrams, transmitting (R401-R420,
R437). -/

namespace Sys2Proof.Machine

/-! ## Frame bytes -/

/-- A big-endian number of `n` bytes at an offset (the order of bytes on the wire, log entry 25, PRESUMED). -/
def be (l : List Byte) (off n : Nat) : Nat := ((l.drop off).take n).foldl (fun v b => v * 256 + b.toNat) 0

/-- Big-endian bytes of a number. -/
def beBytes (n v : Nat) : List Byte := (toBytes n v).reverse

/-- A little-endian number in a frame. -/
def le (l : List Byte) (off n : Nat) : Nat := ofBytes ((l.drop off).take n)

/-- Sum of the 16-bit words of a byte string, folded to ones' complement (IPv4 and UDP checksums). -/
def onesSum (l : List Byte) : Nat → Nat
  | 0 => 0
  | n + 1 => match l with
    | [] => 0
    | [a] => a.toNat * 256
    | a :: b :: t => let s := a.toNat * 256 + b.toNat + onesSum t n; s % 65536 + s / 65536
def checksum (l : List Byte) : Nat := 65535 - (let s := onesSum l l.length; s % 65536 + s / 65536)

/-- What the engine reads of a frame: tagged, VID, PCP, EtherType, offset of the layer above (R404). -/
structure FrameHead where
  tagged : Bool
  vid : Nat
  pcp : Nat
  etype : Nat
  up : Nat
  deriving DecidableEq, Repr

def frameHead (pvid : Nat) (f : List Byte) : FrameHead :=
  if be f 12 2 = 0x8100 then
    let vid := be f 14 2 % 4096
    ⟨true, if vid = 0 then pvid else vid, be f 14 2 / 8192, be f 16 2, 18⟩
  else ⟨false, pvid, 0, be f 12 2, 14⟩

/-- The frame is IPv4; it is a fragment; its header's bytes; its protocol; it holds a whole UDP header (log entry 26, PRESUMED). -/
def FrameHead.isIp (d : FrameHead) (f : List Byte) : Bool := d.etype == 0x0800 && be f d.up 1 / 16 == 4
def FrameHead.isFragment (d : FrameHead) (f : List Byte) : Bool := be f (d.up + 6) 2 % 16384 != 0
def FrameHead.ipLen (d : FrameHead) (f : List Byte) : Nat := be f d.up 1 % 16 * 4
def FrameHead.proto (d : FrameHead) (f : List Byte) : Nat := be f (d.up + 9) 1
def FrameHead.udpAt (d : FrameHead) (f : List Byte) : Nat := d.up + d.ipLen f
def FrameHead.isUdp (d : FrameHead) (f : List Byte) : Bool :=
  d.isIp f && !d.isFragment f && d.proto f == 17 && decide (d.udpAt f + 8 ≤ f.length)

/-- The IPv4 header checksum is correct. -/
def FrameHead.ipSumOk (d : FrameHead) (f : List Byte) : Bool :=
  decide (20 ≤ d.ipLen f ∧ d.up + d.ipLen f ≤ f.length) && checksum ((f.drop d.up).take (d.ipLen f)) == 0

/-- Pseudo header and UDP bytes. -/
def FrameHead.udpBytes (d : FrameHead) (f : List Byte) : List Byte :=
  let n := be f (d.udpAt f + 4) 2
  ((f.drop (d.up + 12)).take 8) ++ beBytes 2 17 ++ beBytes 2 n ++ ((f.drop (d.udpAt f)).take n)

/-- The UDP checksum is correct or 0. -/
def FrameHead.udpSumOk (d : FrameHead) (f : List Byte) : Bool :=
  !d.isUdp f || be f (d.udpAt f + 6) 2 == 0
    || (decide (d.udpAt f + be f (d.udpAt f + 4) 2 ≤ f.length) && checksum (d.udpBytes f) == 0)

/-- CSUMOK and CSUMBAD (R408). -/
def FrameHead.sumOk (d : FrameHead) (f : List Byte) : Bool := d.isIp f && d.ipSumOk f && d.udpSumOk f
def FrameHead.sumBad (d : FrameHead) (f : List Byte) : Bool := d.isIp f && !(d.ipSumOk f && d.udpSumOk f)

/-! ## Classification (R405, R406) -/

/-- Rule `n` matches a frame of a port. -/
def Hw.ruleHits (h : Hw) (port : Nat) (d : FrameHead) (f : List Byte) (n : Nat) : Bool :=
  let ip := d.isIp f && !d.isFragment f
  h.flag (PKT_CR_ACT_EN n) && h.fldBit (PKT_CR_M1_PORTS n) port
    && (!h.flag (PKT_CR_M0_MACEN n) || h.fld (PKT_CR_M0_DMAC n) == be f 0 6)
    && (!h.flag (PKT_CR_M0_VIDEN n) || h.fld (PKT_CR_M0_VID n) == d.vid)
    && (!h.flag (PKT_CR_M1_ETEN n) || h.fld (PKT_CR_M1_ETYPE n) == d.etype)
    && (!h.flag (PKT_CR_M1_PROTEN n) || (ip && h.fld (PKT_CR_M1_PROTO n) == d.proto f))
    && (!h.flag (PKT_CR_M1_UDPEN n) || (d.isUdp f && h.fld (PKT_CR_M1_UDPPORT n) == be f (d.udpAt f + 2) 2))

/-- A dropped received frame (R406, R407). -/
def Hw.rxDrop (h : Hw) (port : Nat) : Hw := h.countS (PKT_P_RXDROP_COUNT port) (PKT_P_RXDROP_SAT port) 102 1

/-- A timestamp of a port: network time less the external delay (R465; log entry 192, DEDUCED). -/
def Hw.stamp (h : Hw) (lat : Nat) : Nat := (h.nt + 2 ^ 64 - lat) % 2 ^ 64

/-- A receive packet into a queue (R407, R408). -/
def Hw.rxQueue (h : Hw) (port q dom rule : Nat) (d : FrameHead) (f : List Byte) : Hw :=
  let w1 := port + rule * 8 + d.vid * 2 ^ 12 + d.pcp * 2 ^ 24 + b2n d.tagged * 2 ^ 27 + b2n (d.sumOk f) * 2 ^ 28
    + b2n (d.sumBad f) * 2 ^ 29
  let ws := BitVec.ofNat 64 w1 :: BitVec.ofNat 64 (h.stamp (h.fld (TIM_P_LAT_RXLAT port))) :: toWords f.length f
  match h.pushWhole port dom q ws (16 + f.length) with
  | (h, true) => h
  | (h, false) => h.rxDrop port

/-- FORWARD: a transmit packet into the class queue of each port named; one that does not fit is a drop of the ingress port
(R406, R407). -/
def Hw.forward (h : Hw) (port rule : Nat) (d : FrameHead) (f : List Byte) : Hw :=
  ((List.range 6).filter fun p => h.fldBit (PKT_CR_ACT_FWD rule) p && h.flag (PKT_P_TXEN p d.pcp)).foldl (fun h p =>
    match h.pushWhole port (h.fld (PKT_CR_ACT_DOM rule)) (h.fld (PKT_P_TXQ p d.pcp)) (0#64 :: toWords f.length f) (8 + f.length) with
    | (h, true) => h
    | (h, false) => h.rxDrop port) h

/-! ## Descriptors the engine writes -/

/-- The bytes of a Tender descriptor (R387). -/
def descBytes (src dst len : Nat) (sq dq bgn end_ : Bool) (next : Nat) : List Byte :=
  toBytes 8 src ++ toBytes 8 dst
    ++ toBytes 8 (len + b2n sq * 2 ^ 24 + b2n dq * 2 ^ 25 + b2n bgn * 2 ^ 29 + b2n end_ * 2 ^ 30) ++ toBytes 8 next

/-- A block writes bytes to general memory as a master with a domain. -/
def State.putBlock (s : State) (master dom addr : Nat) (b : List Byte) : State :=
  match s.hw.writeAs master dom addr b.length with
  | some _ => s.onHw fun h => h.noteRefused master dom addr b.length .write
  | none => s.blockWrite addr b

/-- The same with D0. -/
def State.putAs (s : State) (master addr : Nat) (b : List Byte) : State := s.putBlock master 0 addr b

/-- A request of the packet engine or CAN block to a channel (R390). -/
def Hw.request (n : Nat) (h : Hw) : Hw := if h.flag (TND_CH_CFG_REQ n) then h.trigger (Hw.route id 203) n else h

/-! ## Landing (R410-R412) -/

/-- A datagram is rejected (R410); `has`: the frame reaches to its station number (log entry 190, DESIGN CHOICE). -/
def Hw.landReject (h : Hw) (port reason station : Nat) (has : Bool) : Hw :=
  let h := if has && decide (station < 1536) then h.countS (PKT_ST_REJ station) (PKT_ST_REJ_SAT station) 102 1 else h
  let h := ((h.setFld PKT_LRJINFO_REASON reason).setFld PKT_LRJINFO_STATION station).setFld PKT_LRJINFO_PORT port
  (if h.flag PKT_STAT_LREJ then h else h.raise 104).setFlag PKT_STAT_LREJ true

/-- The checks of R410 before the queue: the reason that fails first, 0 for none. -/
def Hw.landReason (h : Hw) (port : Nat) (d : FrameHead) (f : List Byte) : Nat :=
  let u := d.udpAt f + 8
  let st := le f (u + 2) 2
  let cnt := le f (u + 6) 2
  if d.sumBad f then 1
  else if !d.isUdp f || be f u 1 != 0x49 || be f (u + 1) 1 % 16 != 1 || cnt == 0 || be f (d.udpAt f + 4) 2 != 20 + 4 * cnt
      || decide (f.length < u + 12 + 4 * cnt) then 2
  else if 1536 ≤ st ∨ h.flag (RIO_SCFG_EN st) = false then 3
  else if h.fld (RIO_SCFG_TRANSPORT st) ≠ 0 ∨ h.fld (RIO_SCFG_PORT st) ≠ port then 4
  else if h.flag (PKT_ST_W0_SRCCHK st) ∧ be f (d.up + 12) 4 ≠ h.fld (PKT_ST_W0_IP st) then 5
  else if h.fld (RIO_SCFG_MSGS st) < be f (u + 1) 1 / 16 % 8 ∨ h.fld (RIO_SMAP_IN_CNT st) < le f (u + 4) 2 + cnt then 6
  else 0

/-- The messages of a landing rule, oldest first. -/
def Hw.landQ (h : Hw) (k : Nat) : List LandMsg := Tab.getD h.pkt.land k []
def Hw.setLandQ (h : Hw) (k : Nat) (l : List LandMsg) : Hw := { h with pkt := { h.pkt with land := Tab.put h.pkt.land k l } }

/-- The next message of a rule starts to land when the channel is IDLE and earlier ones have completed: the engine writes its
descriptor and triggers the channel (R411). -/
def State.landNext (k : Nat) (s : State) : State :=
  match s.hw.landQ k with
  | [] => s
  | m :: ms =>
    let ch := s.hw.fld (PKT_LR_CFG_CHAN k)
    if m.started || s.hw.fld (TND_CH_STAT_STATE ch) != chIdle then s
    else
      let dst := s.hw.fld (PKT_LR_VBASE k) + 8 * m.point
      let b := descBytes (s.hw.fld (PKT_LR_CFG_QUEUE k)) dst (8 * m.count) true false false false 0
      let s := s.putAs 20 (s.hw.fld (PKT_LR_DADDR k) / 32 * 32) b
      s.onHw fun h => (h.setLandQ k ({ m with started := true } :: ms)).request ch

/-- LAND: an accepted datagram goes into the landing queue and waits for its landing (R410, R411). A rule that is not enabled
lands nothing (log entry 27, DEDUCED). -/
def State.landFrame (port rule : Nat) (d : FrameHead) (f : List Byte) (s : State) : State :=
  let k := s.hw.fld (PKT_CR_ACT_LAND rule)
  if !s.hw.flag (PKT_LR_CFG_EN k) then s.onHw fun h => h.rxDrop port
  else
    let u := d.udpAt f + 8
    let st := le f (u + 2) 2
    let cnt := le f (u + 6) 2
    let why := s.hw.landReason port d f
    let has := d.isUdp f && decide (u + 4 ≤ f.length)
    if why ≠ 0 then s.onHw fun h => h.landReject port why (if has then st else 0) has
    else
      let ws := (List.range cnt).map fun i => BitVec.ofNat 64 (le f (u + 12 + 4 * i) 4)
      match s.hw.pushWhole port (s.hw.fld (PKT_CR_ACT_DOM rule)) (s.hw.fld (PKT_LR_CFG_QUEUE k)) ws (8 * cnt) with
      | (h, false) => { s with hw := (h.rxDrop port).landReject port 7 st true }
      | (h, true) =>
        let m : LandMsg := ⟨st, be f (u + 1) 1 / 16 % 8, h.fld (RIO_SMAP_IN_BASE st) + le f (u + 4) 2, cnt, false⟩
        ({ s with hw := h.setLandQ k (h.landQ k ++ [m]) } : State).landNext k

/-- The landing under way of a channel ends: the message arrives unless its landing failed (R412), and the next one starts. -/
def State.landDone (ch : Nat) (failed : Bool) (s : State) : State :=
  match (List.range 16).find? fun k => s.hw.fld (PKT_LR_CFG_CHAN k) == ch && ((s.hw.landQ k).head?.any fun m => m.started) with
  | none => s
  | some k =>
    match s.hw.landQ k with
    | [] => s
    | m :: ms => s.onHw fun h =>
        let h := h.setLandQ k ms
        if failed then h else (h.countW (PKT_ST_RXMSG m.station) 1).messageArrives m.station m.msg

/-- Landings that waited for an IDLE channel start. -/
def State.landIdle (ch : Nat) (s : State) : State :=
  ((List.range 16).filter fun k => s.hw.fld (PKT_LR_CFG_CHAN k) == ch).foldl (fun s k => s.landNext k) s

/-! ## Receiving (R402-R406) -/

/-- A frame reaches a port. -/
def State.frameReceived (port : Nat) (fcsOk : Bool) (f : List Byte) (s : State) : State :=
  let h := s.hw
  if !(h.flag PKT_CTRL_EN && h.flag (PKT_P_CFG_EN port)) then s
  else if !fcsOk || decide (f.length + 4 < 64) || decide (9216 < f.length + 4) then
    s.onHw fun h => h.countS (PKT_P_RXERR_COUNT port) (PKT_P_RXERR_SAT port) 102 1
  else
    let s := s.onHw fun h => h.countW (PKT_P_RXFRM port) 1
    let d := frameHead (h.fld (PKT_P_CFG_PVID port)) f
    if d.etype = 0x8808 ∧ be f d.up 2 = 1 then s.onHw fun h => h.rxDrop port
    else
      match (List.range 256).find? fun n => h.ruleHits port d f n with
      | none => s.onHw fun h =>
          if h.flag (PKT_P_CFG_DEFDROP port) then h.rxDrop port else h.rxQueue port (h.fld (PKT_P_CFG_DEFQ port)) 0 0x1FF d f
      | some n =>
        let s := s.onHw fun h => h.countW (PKT_CR_HITS n) 1
        match h.fld (PKT_CR_ACT_ACTION n) with
        | 0 => s
        | 1 => s.onHw fun h => h.rxQueue port (h.fld (PKT_CR_ACT_QUEUE n)) (h.fld (PKT_CR_ACT_DOM n)) n d f
        | 2 => s.landFrame port n d f
        | _ => s.onHw fun h => h.forward port n d f

/-! ## Output datagrams (R416-R420) -/

def Hw.buildOf (h : Hw) (port : Nat) : List Nat := Tab.getD h.pkt.build port []
def Hw.setBuild (h : Hw) (port : Nat) (l : List Nat) : Hw := { h with pkt := { h.pkt with build := Tab.put h.pkt.build port l } }
def Hw.outqOf (h : Hw) (port : Nat) : List (List Byte) := Tab.getD h.pkt.outq port []
def Hw.setOutq (h : Hw) (port : Nat) (l : List (List Byte)) : Hw := { h with pkt := { h.pkt with outq := Tab.put h.pkt.outq port l } }

/-- A frame with its IPv4 header checksum and its UDP checksum inserted (R415 CSUM). -/
def insertSums (f : List Byte) : List Byte :=
  let d := frameHead 0 f
  if !d.isIp f then f
  else
    let put := fun (f : List Byte) (at_ v : Nat) => f.take at_ ++ beBytes 2 v ++ f.drop (at_ + 2)
    let g := put f (d.up + 10) 0
    let g := put g (d.up + 10) (checksum ((g.drop d.up).take (d.ipLen g)))
    if !d.isUdp g then g
    else
      let z := put g (d.udpAt g + 6) 0
      let c := checksum (d.udpBytes z)
      put z (d.udpAt z + 6) (if c = 0 then 65535 else c)

/-- The output datagram of a station (R409, R417): `vals` are the bytes 0-3 of each point. -/
def Hw.datagram (h : Hw) (port n : Nat) (vals : List Byte) : List Byte :=
  let cnt := vals.length / 4
  let up := h.fld (PKT_ST_W0_UDPPORT n)
  let tag := if h.flag (PKT_ST_W0_VTAG n) then beBytes 2 0x8100 ++ beBytes 2 (h.fld (PKT_ST_W0_VID n) + 7 * 8192) else []
  let ip := beBytes 2 0x4500 ++ beBytes 2 (40 + 4 * cnt) ++ beBytes 2 0 ++ beBytes 2 0x4000 ++ beBytes 1 64 ++ beBytes 1 17
    ++ beBytes 2 0 ++ beBytes 4 (h.fld (PKT_P_IP port)) ++ beBytes 4 (h.fld (PKT_ST_W0_IP n))
  let udp := beBytes 2 up ++ beBytes 2 up ++ beBytes 2 (20 + 4 * cnt) ++ beBytes 2 0
  let head := toBytes 1 0x4F ++ toBytes 1 1 ++ toBytes 2 n ++ toBytes 2 0 ++ toBytes 2 cnt ++ toBytes 4 h.pkt.fnum
  insertSums (beBytes 6 (h.fld (PKT_ST_W1_MAC n)) ++ beBytes 6 (h.fld (PKT_P_MAC port)) ++ tag ++ beBytes 2 0x0800 ++ ip ++ udp
    ++ head ++ vals)

/-- The ranges of a station's outputs that are not empty: base and count (R416). -/
def Hw.outRanges (h : Hw) (n : Nat) : List (Nat × Nat) :=
  [(h.fld (RIO_SMAP_OUT_BASE n), h.fld (RIO_SMAP_OUT_CNT n)), (h.fld (PKT_ST_W2_OUT2_BASE n), h.fld (PKT_ST_W2_OUT2_CNT n))].filter
    fun r => r.2 != 0

/-- Stations a port builds for at F+880 us (R416). -/
def Hw.buildList (h : Hw) (port : Nat) : List Nat :=
  h.outStations.filter fun n => h.fld (RIO_SCFG_TRANSPORT n) == 0 && h.fld (RIO_SCFG_PORT n) == port && h.img.ends.contains n
    && [stnWait, stnGood, stnDegraded].contains (h.fld (RIO_SSTAT_STATE n)) && !(h.outRanges n).isEmpty

/-- The build of the first station that waits starts: its descriptors are written and the output channel is triggered
(R416). -/
def State.buildStart (port : Nat) (s : State) : State :=
  match s.hw.buildOf port with
  | [] => s
  | n :: _ =>
    let h := s.hw
    let at_ := h.fld (PKT_P_ODADDR port) / 64 * 64
    let rs := h.outRanges n
    let s := ((List.range rs.length).zip rs).foldl (fun s e =>
      let last := e.1 + 1 == rs.length
      let b := descBytes (h.fld (PKT_P_OVBASE port) + 8 * e.2.1) (h.fld (PKT_P_OCFG_OQUEUE port)) (8 * e.2.2) false true (e.1 == 0) last
        (if last then 0 else at_ + 32)
      s.putAs 20 (at_ + 32 * e.1) b) s
    s.onHw fun h => h.request (h.fld (PKT_P_OCFG_OCHAN port))

/-- Discards output datagrams that have not started, and the builds that have not ended (R420). -/
def Hw.outLate (h : Hw) (port : Nat) : Hw :=
  let n := (h.outqOf port).length + (h.buildOf port).length
  let h := (h.setOutq port []).setBuild port []
  if n = 0 then h
  else (List.range n).foldl (fun h _ => (h.countS (PKT_P_OLATE_COUNT port) (PKT_P_OLATE_SAT port) 102 1).raise 103) h

/-- F+880 us: late datagrams go, and each port with OEN starts its builds (R416, R420); `hold` while the unit sends no
outputs (R587). -/
def State.outputBuild (hold : Bool) (s : State) : State :=
  let s := s.onHw fun h => { h with pkt := { h.pkt with fnum := h.fld FRM_FNUM } }
  (List.range 6).foldl (fun s p =>
    let s := s.onHw fun h => { h.outLate p with pkt := { (h.outLate p).pkt with bad := h.pkt.bad.filter fun b => b != p } }
    if hold || !s.hw.flag PKT_CTRL_EN || !s.hw.flag (PKT_P_OCFG_OEN p) then s
    else (s.onHw fun h => h.setBuild p (h.buildList p)).buildStart p) s

/-- A build under way on a channel has met a fault: nothing of its message is sent (R394). -/
def Hw.buildFault (h : Hw) (ch : Nat) : Hw :=
  { h with pkt := { h.pkt with bad := h.pkt.bad ++ (List.range 6).filter fun p =>
      !(h.buildOf p).isEmpty && h.fld (PKT_P_OCFG_OCHAN p) == ch } }

/-- The output channel has ended its chain: the datagram is made of the packet it pushed, and the next build starts. -/
def State.buildDone (ch : Nat) (s : State) : State :=
  ((List.range 6).filter fun p => !(s.hw.buildOf p).isEmpty && s.hw.fld (PKT_P_OCFG_OCHAN p) == ch).foldl (fun s p =>
    match s.hw.buildOf p with
    | [] => s
    | n :: ns =>
      let bad := s.hw.pkt.bad.contains p
      let s := s.onHw fun h =>
        match h.qTake (h.fld (PKT_P_OCFG_OQUEUE p)) .none with
        | (h, none) => h
        | (h, some (len, ws)) =>
          if bad || len.getLsbD 40 then h
          else h.setOutq p (h.outqOf p ++ [h.datagram p n (ws.map fun w => toBytes 4 w.toNat).flatten])
      let s := s.onHw fun h =>
        let h := h.setBuild p ns
        { h with pkt := { h.pkt with bad := h.pkt.bad.filter fun b => b != p } }
      s.buildStart p) s

/-! ## Transmitting (R415, R419) -/

/-- A frame leaves: padded to 60 bytes, with its FCS. -/
def Hw.sendFrame (h : Hw) (port : Nat) (f : List Byte) : Hw :=
  let g := f ++ List.replicate (60 - f.length) 0#8
  let h := { h with pkt := { h.pkt with wire := Tab.put h.pkt.wire port (g ++ toBytes 4 (crc32 g)) } }
  h.countW (PKT_P_TXFRM port) 1

/-- A transmit packet leaves or is discarded (R415). -/
def Hw.sendPacket (h : Hw) (port : Nat) (len : Word64) (ws : List Word64) : Hw :=
  let n := bits len.toNat 0 32
  let f := ((ws.drop 1).map fun w => toBytes 8 w.toNat).flatten.take (n - 8)
  let ctl := (ws.headD 0#64).toNat
  if n < 22 ∨ 9220 < n ∨ len.getLsbD 40 then h.countS (PKT_P_TXDROP_COUNT port) (PKT_P_TXDROP_SAT port) 102 1
  else
    let h := h.sendFrame port (if bitOf ctl 0 then insertSums f else f)
    if bitOf ctl 1 && h.flag PKT_TSQ_EN then
      (h.pushWhole port 0 (h.fld PKT_TSQ_QUEUE)
        [BitVec.ofNat 64 (port + bits ctl 2 16 * 8), BitVec.ofNat 64 (h.stamp (h.fld (TIM_P_LAT_TXLAT port)))] 16).1
    else h

/-- The next frame of a port: output datagrams ahead of every class, then, once none waits or is still to be built (log entry
189, DESIGN CHOICE), the highest class with a packet. -/
def pktTransmit (port : Nat) (err : PoolErr) (h : Hw) : Hw :=
  if !(h.flag PKT_CTRL_EN && h.flag (PKT_P_CFG_EN port)) then h
  else match h.outqOf port with
    | f :: fs => (h.setOutq port fs).sendFrame port f
    | [] =>
      if !(h.buildOf port).isEmpty then h
      else match ([7, 6, 5, 4, 3, 2, 1, 0].filter fun c => h.flag (PKT_P_TXEN port c)).find? fun c =>
          let q := h.fld (PKT_P_TXQ port c)
          !h.morOff q && !(h.morQ q).pkts.isEmpty with
      | none => h
      | some c =>
        match h.qTake (h.fld (PKT_P_TXQ port c)) err with
        | (h, none) => h
        | (h, some (len, ws)) => h.sendPacket port len ws

/-- A link changes (R437); its loss at the port of TIM.CTRL.SRCPORT acts on the clock (R470). -/
def linkChange (port : Nat) (up : Bool) (h : Hw) : Hw :=
  if h.flag (PKT_P_STAT_LINK port) = up then h else 
    let h := (h.setFlag (PKT_P_STAT_LINK port) up).raise (96 + port)
    if !up && h.fld TIM_CTRL_SRCPORT == port then h.servoLoss else h

/-! ## Meanings -/

def execFrameReceived (port : Fin 6) (fcsOk : Bool) (frame : List Byte) (s : State) : Host.Outcome State Fault Refusal :=
  .next (s.frameReceived port.val fcsOk frame)
def execPktTransmit (port : Fin 6) (err : PoolErr) (s : State) : Host.Outcome State Fault Refusal :=
  .next (s.onHw (pktTransmit port.val err))
def execLinkChange (port : Fin 6) (up : Bool) (s : State) : Host.Outcome State Fault Refusal :=
  .next (s.onHw (linkChange port.val up))

end Sys2Proof.Machine
end

