-- ==== Sys2Proof/Machine/Can.lean ====
section
/-! DEFINITION. The CAN FD channels (11): message objects, the FIFO, cancelling, errors, rate detection and remote I/O
(R440-R462). -/

namespace Sys2Proof.Machine

def Can.reset : Can := ⟨none, none, [], false, none, 0, [], [], [], [], 0, 0, none⟩
def Hw.ch (h : Hw) (n : Nat) : Can := Tab.getD h.can n Can.reset
def Hw.setCh (h : Hw) (n : Nat) (c : Can) : Hw := { h with can := Tab.put h.can n c }

/-- CAN_OBJ, CAN_BUS, CAN_IDCOLL and CAN_ALERT of a channel (R462). -/
def canEv (n k : Nat) : Nat := 128 + 4 * n + k
def Hw.canAlert (h : Hw) (n : Nat) : Hw := h.raise (canEv n 3)

/-- Modes of CANn.CTRL.MODE. -/
def mNormal : Nat := 0
def mListen : Nat := 1
def mAbd : Nat := 2
def mLoopback : Nat := 3

/-- Bytes of a frame by its DLC (ISO 11898-1). -/
def dlcBytes (fdf : Bool) (dlc : Nat) : Nat :=
  if dlc ≤ 8 then dlc else if fdf then [12, 16, 20, 24, 32, 48, 64].getD (dlc - 9) 64 else 8

/-- The arbitration field of a frame as a number: the lower one wins the bus (R446). -/
def arbKey (id : Nat) (ide rtr : Bool) : Nat :=
  if ide then id / 2 ^ 18 % 2 ^ 11 * 2 ^ 21 + 2 ^ 20 + 2 ^ 19 + id % 2 ^ 18 * 2 + b2n rtr else id % 2 ^ 11 * 2 ^ 21 + b2n rtr * 2 ^ 20

/-! ## Objects -/

/-- The 16 data words of an object, and its writing. -/
def Hw.objWords (h : Hw) (n m : Nat) : List Nat := (List.range 16).map fun i => h.fld (CAN_OBJ_DATA n m i)
def Hw.setObjWords (h : Hw) (n m : Nat) (ws : List Nat) : Hw :=
  ((List.range ws.length).zip ws).foldl (fun h e => h.setFld (CAN_OBJ_DATA n m e.1) e.2) h

/-- The frame of words under a DLC. -/
def wordBytes (ws : List Nat) (fdf rtr : Bool) (dlc : Nat) : List Byte :=
  if rtr then [] else ((ws.map fun w => toBytes 4 w).flatten).take (dlcBytes fdf dlc)

/-- The frame a send object sends. -/
def Hw.objFrame (h : Hw) (n m : Nat) : CanFrame :=
  let fdf := h.flag (CAN_OBJ_CTL_FDF n m)
  let rtr := h.flag (CAN_OBJ_CTL_RTR n m) && !fdf
  let dlc := h.fld (CAN_OBJ_CTL_DLC n m)
  ⟨h.fld (CAN_OBJ_ID n m), h.flag (CAN_OBJ_ID_IDE n m), fdf, h.flag (CAN_OBJ_CTL_BRS n m) && fdf, rtr, h.fld (CAN_STAT_BSTATE n) == 1,
    Fin.ofNat 16 dlc, wordBytes (h.objWords n m) fdf rtr dlc⟩

/-- SYNC's frame (R456). -/
def Hw.syncFrame (h : Hw) (n fnum : Nat) : CanFrame :=
  let fd := h.flag (CAN_CTRL_FDEN n)
  ⟨h.fld (CAN_SYNC_ID n), h.flag (CAN_SYNC_IDE n), fd, fd, false, h.fld (CAN_STAT_BSTATE n) == 1, 4, toBytes 4 fnum⟩

/-- The frame of a candidate; a FIFO entry's ESI is the controller's when it is sent. -/
def Hw.candFrame (h : Hw) (n : Nat) : CanCand → Option CanFrame
  | .sync f => some (h.syncFrame n f)
  | .obj m => some (h.objFrame n m)
  | .fifo => (h.ch n).fifo.head?.map fun e => { e.frame with esi := h.fld (CAN_STAT_BSTATE n) == 1 }

/-! ## Candidates (R446) -/

/-- Send objects that compete: TXRQ, enabled, not being filled, FD frames only with FDEN (log entry 28, DEDUCED). -/
def Hw.objCands (h : Hw) (n : Nat) : List Nat :=
  (List.range 128).filter fun m => h.flag (CAN_OBJ_CTL_TXRQ n m) && h.flag (CAN_OBJ_CTL_EN n m) && h.flag (CAN_OBJ_CTL_DIR n m)
    && !((h.ch n).fill ++ (h.ch n).filled).contains m && (!h.flag (CAN_OBJ_CTL_FDF n m) || h.flag (CAN_CTRL_FDEN n))

/-- Pending frames, in the order that decides among identical arbitration fields. -/
def Hw.cands (h : Hw) (n : Nat) : List CanCand :=
  (match (h.ch n).sync with
    | some f => [CanCand.sync f]
    | none => []) ++ (h.objCands n).map CanCand.obj ++ (match (h.ch n).fifo with
    | e :: _ => if e.frame.fdf && !h.flag (CAN_CTRL_FDEN n) then [] else [CanCand.fifo]
    | [] => [])

/-- The first candidate with the lowest arbitration field. -/
def Hw.candidate (h : Hw) (n : Nat) : List CanCand → Option CanCand
  | [] => none
  | c :: cs =>
    let key := fun (c : CanCand) => match h.candFrame n c with
      | some f => arbKey f.id f.ide f.rtr
      | none => 0
    match h.candidate n cs with
    | some d => if key d < key c then some d else some c
    | none => some c

/-- The controller may transmit. -/
def Hw.canSends (h : Hw) (n : Nat) : Bool :=
  h.flag (CAN_CTRL_EN n) && (h.fld (CAN_CTRL_MODE n) == mNormal || h.fld (CAN_CTRL_MODE n) == mLoopback)
    && h.fld (CAN_STAT_BSTATE n) != 2

/-! ## Receive objects (R443, R447) -/

/-- An object as its registers give it now. -/
def Hw.rxNow (h : Hw) (n m : Nat) : RxObj :=
  ⟨h.flag (CAN_OBJ_CTL_EN n m) && !h.flag (CAN_OBJ_CTL_DIR n m), h.flag (CAN_OBJ_ID_IDE n m), h.fld (CAN_OBJ_ID n m),
    h.fld (CAN_OBJ_MASK n m), h.flag (CAN_OBJ_CTL_IE n m), h.flag (CAN_OBJ_RIO_EN n m), h.fld (CAN_OBJ_RIO_STATION n m),
    h.fld (CAN_OBJ_RIO_MSGIDX n m), h.fld (CAN_OBJ_RIO_POFF n m)⟩

/-- An object as the frame on the bus finds it: as it was at that frame's start (R447). -/
def Hw.rxObj (h : Hw) (n m : Nat) : RxObj :=
  match (h.ch n).before.bind fun t => Tab.get? t m with
  | some o => o
  | none => h.rxNow n m

/-- An object is about to be written: the frame on the bus keeps what it found. -/
def Hw.rxKeep (h : Hw) (n m : Nat) : Hw :=
  match (h.ch n).before with
  | none => h
  | some t => if (Tab.get? t m).isSome then h else h.setCh n { h.ch n with before := some (Tab.put t m (h.rxNow n m)) }

/-- The frame on the bus has ended: writes count from now on. -/
def Hw.frameOver (h : Hw) (n : Nat) : Hw := h.setCh n { h.ch n with before := none }

/-- A start of frame on the bus (R446). -/
def startOfFrame (n : Nat) (h : Hw) : Hw :=
  let c := h.ch n
  if !h.flag (CAN_CTRL_EN n) || c.arb.isSome then h
  else
    let c := { c with sof := h.nt, before := some [] }
    let h := h.setCh n c
    if !h.canSends n then h
    else match h.candidate n (h.cands n) with
      | none => h
      | some (.sync f) => h.setCh n { c with arb := some (.sync f), sync := none }
      | some (.obj m) => (h.setCh n { c with arb := some (.obj m) }).setFlag (CAN_OBJ_STAT_ARB n m) true
      | some .fifo => h.setCh n { c with arb := some .fifo }

/-! ## The end of a frame (R446, R449, R450, R460) -/

/-- TXF_STAT.COUNT follows. -/
def Hw.showFifo (h : Hw) (n : Nat) : Hw := h.setFld (CAN_TXF_STAT_COUNT n) (h.ch n).fifo.length

/-- An object leaves arbitration; data held under R460 are written and TXRQ is set again. -/
def Hw.objLeaves (h : Hw) (n m : Nat) : Hw :=
  let c := h.ch n
  let h := (h.setCh n { c with arb := none }).setFlag (CAN_OBJ_STAT_ARB n m) false
  match Tab.get? c.hold m with
  | none => h
  | some ws =>
    let h := h.setCh n { h.ch n with hold := Tab.del c.hold m }
    let h := ws.foldl (fun h e => h.setFld (CAN_OBJ_DATA n m e.1) e.2) h
    if (c.fill ++ c.filled).contains m then h else h.setFlag (CAN_OBJ_CTL_TXRQ n m) true

/-- The FIFO head goes. -/
def Hw.fifoDrop (h : Hw) (n : Nat) : Hw :=
  let c := h.ch n
  (h.setCh n { c with fifo := c.fifo.drop 1, fifoCancel := false, arb := none }).showFifo n

/-- A SYNC that did not get through is pending again; one that a newer has replaced is lost (R456). -/
def Hw.syncBack (h : Hw) (n f : Nat) : Hw :=
  let c := h.ch n
  let h := h.setCh n { c with arb := none, sync := some (c.sync.getD f) }
  if c.sync.isSome then h.countS (CAN_SYNCLOST_COUNT n) (CAN_SYNCLOST_SAT n) (canEv n 3) 1 else h

/-- A frame loses arbitration or meets an error: a held cancel takes effect, else it competes again (R446, R449, R450). -/
def Hw.frameFails (h : Hw) (n : Nat) : Hw :=
  match (h.ch n).arb with
  | none => h
  | some (.sync f) => h.syncBack n f
  | some (.obj m) =>
    let h := if h.flag (CAN_OBJ_CTL_CANCEL n m) then
        ((h.setFlag (CAN_OBJ_CTL_CANCEL n m) false).setFlag (CAN_OBJ_CTL_TXRQ n m) false).setFlag (CAN_OBJ_STAT_CANCELLED n m) true
      else h
    h.objLeaves n m
  | some .fifo =>
    if (h.ch n).fifoCancel then (h.setFld (CAN_TXF_STAT_FLUSHED n) (h.fld (CAN_TXF_STAT_FLUSHED n) + 1)).fifoDrop n
    else h.setCh n { h.ch n with arb := none }

def arbitrationLost (n : Nat) (h : Hw) : Hw := h.frameFails n

/-- A completion with IE (R462). -/
def Hw.canDone (h : Hw) (n m : Nat) (ie : Bool) : Hw :=
  if ie then
    (if m < 128 then h.setFldBit (CAN_IPEND_PEND n (m / 32)) (m % 32) true else h.setFldBit (CAN_IPENDF_PEND n) 0 true).raise
      (canEv n 0)
  else h

/-! ## Receiving (R443, R444, R454, R457, R458) -/

/-- The receive object that takes a frame (R443). -/
def Hw.matchObj (h : Hw) (n : Nat) (f : CanFrame) : Option Nat :=
  (List.range 128).find? fun m =>
    let o := h.rxObj n m
    o.en && o.ide == f.ide && (o.id ^^^ f.id) &&& o.mask == 0

/-- A rejected landing or fill (R457, R459). -/
def Hw.rioReject (h : Hw) (n m reason : Nat) : Hw :=
  let h := h.countS (CAN_RIOREJ_COUNT n) (CAN_RIOREJ_SAT n) (canEv n 3) 1
  ((h.setFld (CAN_RIOINFO_REASON n) reason).setFld (CAN_RIOINFO_OBJ n) m).canAlert n

/-- The checks of R457: the reason that fails first, 0 for none. -/
def Hw.canLandReason (h : Hw) (n m points : Nat) (o : RxObj) : Nat :=
  let st := o.station
  if (h.ch n).land.any fun l => l.obj == m then 1
  else if 1536 ≤ st ∨ h.flag (RIO_SCFG_EN st) = false ∨ h.fld (RIO_SCFG_TRANSPORT st) ≠ 1 ∨ h.fld (RIO_SCFG_PORT st) ≠ n then 2
  else if h.fld (RIO_SCFG_MSGS st) < o.msg ∨ points = 0
      ∨ h.fld (RIO_SMAP_IN_CNT st) < o.poff + points then 3
  else 0

/-- The landing view of an object (R458). -/
def Hw.viewOf (h : Hw) (n m : Nat) : Nat := h.fld (CAN_RIO_LVBASE_ADDR n) + 0x8000 + 0x80 * m

/-- The next landing of a channel starts when ICHAN is IDLE: the descriptor is written and the channel triggered (R458). -/
def State.canLandNext (n : Nat) (s : State) : State :=
  match (s.hw.ch n).land with
  | [] => s
  | l :: ls =>
    let ch := s.hw.fld (CAN_RIO_CFG_ICHAN n)
    if l.started || s.hw.fld (TND_CH_STAT_STATE ch) != chIdle then s
    else
      let b := descBytes (s.hw.viewOf n l.obj) (s.hw.fld (CAN_RIO_VBASE_ADDR n) + 8 * l.point) (8 * l.count) false false false false 0
      let s := s.putBlock 21 (s.hw.fld (CAN_CTRL_DOM n)) (s.hw.fld (CAN_RIO_IDADDR_ADDR n) / 32 * 32) b
      s.onHw fun h => (h.setCh n { h.ch n with land := { l with started := true } :: ls }).request ch

/-- A frame is stored in an object (R444), and landed when it is a landing object (R457). -/
def State.storeFrame (n : Nat) (f : CanFrame) (s : State) : State :=
  match s.hw.matchObj n f with
  | none => s.onHw fun h => h.countW (CAN_RXNOMATCH_COUNT n) 1
  | some m =>
    let bytes := if f.rtr then 0 else dlcBytes f.fdf f.dlc.val
    let data := f.data.take bytes ++ List.replicate (64 - (f.data.take bytes).length) 0#8
    let o := s.hw.rxObj n m
    let busy := s.hw.canLandReason n m (bytes / 4) o
    let s := s.onHw fun h =>
      let h := (h.setFld (CAN_OBJ_RXID n m) f.id).setFlag (CAN_OBJ_RXID_RXIDE n m) f.ide
      let h := ((h.setFld (CAN_OBJ_STAT_RXDLC n m) f.dlc.val).setFlag (CAN_OBJ_STAT_RXFDF n m) f.fdf).setFlag (CAN_OBJ_STAT_RXBRS n m) f.brs
      let h := (h.setFlag (CAN_OBJ_STAT_RXRTR n m) f.rtr).setFlag (CAN_OBJ_STAT_ESI n m) f.esi
      let h := h.setObjWords n m ((List.range 16).map fun i => ofBytes ((data.drop (4 * i)).take 4))
      let h := h.setFld (CAN_OBJ_TIME n m) (h.ch n).sof
      let h := if o.rio then h
        else (if h.flag (CAN_OBJ_STAT_NEWDAT n m) then h.setFlag (CAN_OBJ_STAT_MSGLST n m) true else h).setFlag (CAN_OBJ_STAT_NEWDAT n m) true
      h.canDone n m o.ie
    if !o.rio then s
    else if busy ≠ 0 then s.onHw fun h => h.rioReject n m busy
    else
      let l : CanLand := ⟨m, o.station, o.msg, s.hw.fld (RIO_SMAP_IN_BASE o.station) + o.poff, bytes / 4, false⟩
      (s.onHw fun h => h.setCh n { h.ch n with land := (h.ch n).land ++ [l] }).canLandNext n

/-- The landing under way on a channel ends: the message arrives unless it failed, and the next one starts (R458). -/
def State.canLandDone (ch : Nat) (failed : Bool) (s : State) : State :=
  (List.range 8).foldl (fun s n =>
    if s.hw.fld (CAN_RIO_CFG_ICHAN n) != ch then s
    else match (s.hw.ch n).land with
      | l :: ls =>
        if l.started then s.onHw fun h =>
          let h := h.setCh n { h.ch n with land := ls }
          if failed then h else h.messageArrives l.station l.msg
        else s
      | [] => s) s

def State.canLandIdle (ch : Nat) (s : State) : State :=
  ((List.range 8).filter fun n => s.hw.fld (CAN_RIO_CFG_ICHAN n) == ch).foldl (fun s n => s.canLandNext n) s

/-! ## Bit-rate detection (R454, R455) -/

/-- The candidates in use, nominal before NOK and data after it. -/
def Hw.abdCands (h : Hw) (n : Nat) : List Nat :=
  (List.range 16).filter fun k =>
    if h.flag (CAN_ABDSTAT_NOK n) then h.flag (CAN_ABD_DBT_VALID n k) else h.flag (CAN_ABD_NBT_VALID n k)

/-- The candidate in use: the first at or after `k`, cyclically. -/
def Hw.abdAt (h : Hw) (n k : Nat) : Option Nat :=
  match (h.abdCands n).find? fun j => decide (k ≤ j) with
  | some j => some j
  | none => (h.abdCands n).head?

/-- Writes CANn.NBT and CANn.DBT from their layouts. -/
def Hw.setNbt (h : Hw) (n v : Nat) : Hw :=
  (((h.setFld (CAN_NBT_NBRP n) (bits v 0 5)).setFld (CAN_NBT_NTSEG1 n) (bits v 5 8)).setFld (CAN_NBT_NTSEG2 n) (bits v 13 7)).setFld
    (CAN_NBT_NSJW n) (bits v 20 7)
def Hw.setDbt (h : Hw) (n v : Nat) : Hw :=
  (((h.setFld (CAN_DBT_DBRP n) (bits v 0 5)).setFld (CAN_DBT_DTSEG1 n) (bits v 5 5)).setFld (CAN_DBT_DTSEG2 n) (bits v 10 4)).setFld
    (CAN_DBT_DSJW n) (bits v 14 4)

/-- A frame without error while the rate is detected: the fourth in a row accepts the candidate. -/
def Hw.abdFrame (h : Hw) (n : Nat) (f : CanFrame) : Hw :=
  let c := h.ch n
  match h.abdAt n c.abdK with
  | none => h
  | some k =>
    let nok := h.flag (CAN_ABDSTAT_NOK n)
    if nok && !f.brs then h
    else if c.abdOk + 1 < 4 then h.setCh n { c with abdK := k, abdOk := c.abdOk + 1 }
    else
      let h := h.setCh n { c with abdK := 0, abdOk := 0 }
      if nok then
        let h := ((h.setDbt n (h.fld (CAN_ABD_DBT_TIMING n k))).setFlag (CAN_ABDSTAT_DOK n) true).setFld (CAN_ABDSTAT_DIDX n) k
        (h.setFld (CAN_CTRL_MODE n) mListen).canAlert n
      else
        let h := ((h.setNbt n (h.fld (CAN_ABD_NBT_TIMING n k))).setFlag (CAN_ABDSTAT_NOK n) true).setFld (CAN_ABDSTAT_NIDX n) k
        h.canAlert n

/-- The first error moves to the next candidate. -/
def Hw.abdError (h : Hw) (n : Nat) : Hw :=
  let c := h.ch n
  match h.abdAt n c.abdK with
  | none => h
  | some k => h.setCh n { c with abdK := (h.abdAt n (k + 1)).getD 0, abdOk := 0 }

/-! ## Error counters (R451-R453) -/

/-- TEC, REC and the state of fault confinement (ISO 11898-1); each change of state raises CAN_BUS, an entry into bus-off is
counted (R451, R452). -/
def Hw.counters (h : Hw) (n tec rec_ : Nat) : Hw :=
  let old := h.fld (CAN_STAT_BSTATE n)
  let tec := min tec 511
  let rec_ := min rec_ 255
  let new := if old = 2 ∨ 255 < tec then 2 else if 127 < tec ∨ 127 < rec_ then 1 else 0
  let h := ((h.setFld (CAN_ERRC_TEC n) tec).setFld (CAN_ERRC_REC n) rec_).setFld (CAN_STAT_BSTATE n) new
  let h := if new = 2 ∧ old ≠ 2 then h.countS (CAN_BOFFCNT_COUNT n) (CAN_BOFFCNT_SAT n) (canEv n 3) 1 else h
  if new = old then h else h.raise (canEv n 1)

/-- REC after a frame received without error: one less, or a value from 119 to 127 of the standard's choice. -/
def Hw.recGood (h : Hw) (n : Nat) : Hw :=
  let r := h.fld (CAN_ERRC_REC n)
  if 127 < r then (h.counters n (h.fld (CAN_ERRC_TEC n)) (119 + h.freeVal 8 % 9)).useFree
  else h.counters n (h.fld (CAN_ERRC_TEC n)) (r - 1)

/-- What a frame received without error does. -/
def State.canReceive (n : Nat) (f : CanFrame) (s : State) : State :=
  let h := s.hw
  if !h.flag (CAN_CTRL_EN n) || h.fld (CAN_STAT_BSTATE n) == 2 || h.fld (CAN_CTRL_MODE n) == mLoopback
      || (f.fdf && !h.flag (CAN_CTRL_FDEN n) && h.fld (CAN_CTRL_MODE n) != mAbd) then s
  else
    let s := s.onHw fun h => h.recGood n
    if h.fld (CAN_CTRL_MODE n) = mAbd then s.onHw fun h => h.abdFrame n f else s.storeFrame n f

/-- A frame has been received without error. -/
def State.canFrameStored (n : Nat) (f : CanFrame) (s : State) : State := (s.canReceive n f).onHw fun h => h.frameOver n

/-- What the completion of a transmitted frame does (R446, R449, R450). -/
def State.canTransmit (n : Nat) (s : State) : State :=
  match (s.hw.ch n).arb with
  | none => s
  | some cand =>
    let f := s.hw.candFrame n cand
    let s := s.onHw fun h =>
      let h := h.counters n (h.fld (CAN_ERRC_TEC n) - 1) (h.fld (CAN_ERRC_REC n))
      let h := h.setCh n { h.ch n with wire := f }
      match cand with
      | .sync _ => h.setCh n { h.ch n with arb := none }
      | .obj m =>
        let h := (h.setFlag (CAN_OBJ_CTL_TXRQ n m) false).setFlag (CAN_OBJ_STAT_TXOK n m) true
        let h := if h.flag (CAN_OBJ_CTL_CANCEL n m) then
            (h.setFlag (CAN_OBJ_CTL_CANCEL n m) false).setFlag (CAN_OBJ_STAT_CANCEL_LATE n m) true else h
        let h := (h.setFld (CAN_OBJ_TIME n m) (h.ch n).sof).canDone n m (h.flag (CAN_OBJ_CTL_IE n m))
        h.objLeaves n m
      | .fifo =>
        let ie := (h.ch n).fifo.head?.any fun e => e.ie
        let h := if (h.ch n).fifoCancel then h.setFlag (CAN_TXF_STAT_CANCEL_LATE n) true else h
        ((h.countW (CAN_TXF_DONE_COUNT n) 1).fifoDrop n).canDone n 128 ie
    match f with
    | some f => if s.hw.fld (CAN_CTRL_MODE n) = mLoopback then s.storeFrame n f else s
    | none => s

/-- A transmitted frame completes. -/
def State.canFrameSent (n : Nat) (s : State) : State := (s.canTransmit n).onHw fun h => h.frameOver n

/-- An identifier collision (R453). -/
def Hw.idCollision (h : Hw) (n : Nat) : Hw :=
  match (h.ch n).arb with
  | none => h
  | some cand =>
    let (id, ide) := match h.candFrame n cand with
      | some f => (f.id, f.ide)
      | none => (0, false)
    let h := h.countS (CAN_IDCOLLCNT_COUNT n) (CAN_IDCOLLCNT_SAT n) (canEv n 3) 1
    let h := ((h.setFld (CAN_COLLID_ID n) id).setFlag (CAN_COLLID_IDE n) ide).setFlag (CAN_COLLID_FIFO n) (cand == .fifo)
    let h := h.raise (canEv n 2)
    if !h.flag (CAN_CTRL_COLLSTOP n) then h.frameFails n
    else match cand with
      | .sync _ => h.setCh n { h.ch n with arb := none }
      | .obj m => ((h.setFlag (CAN_OBJ_CTL_CANCEL n m) false).setFlag (CAN_OBJ_CTL_TXRQ n m) false).setFlag (CAN_OBJ_STAT_COLLIDED n m) true
          |>.objLeaves n m
      | .fifo => (h.setFlag (CAN_TXF_STAT_COLLIDED n) true).fifoDrop n

/-- A detected error (R451, R453, R454). -/
def canError (n : Nat) (e : CanErr) (h : Hw) : Hw :=
  if !h.flag (CAN_CTRL_EN n) || h.fld (CAN_STAT_BSTATE n) == 2 then h
  else
    let tec := h.fld (CAN_ERRC_TEC n)
    let rec_ := h.fld (CAN_ERRC_REC n)
    let h := (if h.fld (CAN_CTRL_MODE n) = mAbd then h.abdError n else h).frameOver n
    match e with
    | .receive => h.counters n tec (rec_ + 1)
    | .receive8 => h.counters n tec (rec_ + 8)
    | .transmit => (h.frameFails n).counters n (tec + 8) rec_
    | .transmitUncounted => h.frameFails n
    | .collision => (h.idCollision n).counters n (tec + 8) rec_
    | .flag8 => h.counters n (tec + 8) rec_

/-- Bus-off recovery (R452). -/
def busOffRecovery (n : Nat) (h : Hw) : Hw :=
  if h.fld (CAN_STAT_BSTATE n) = 2 then
    (((h.setFld (CAN_STAT_BSTATE n) 0).setFld (CAN_ERRC_TEC n) 0).setFld (CAN_ERRC_REC n) 0).raise (canEv n 1)
  else h

/-! ## Register commands (R441, R446-R450, R455, R461) -/

def canAddr (n off : Nat) : Nat := 0x30200000 + 0x10000 * n + off

/-- Objects and the FIFO staging are written by D0 or by the channel's domain (R461). -/
def Hw.canDom (h : Hw) (src : Src) (n off : Nat) (f : Hw → Hw) : Hw :=
  if isD0 src || h.fld (CAN_CTRL_DOM n) == src.dom.toNat then f h else h.refuseReg src (canAddr n off)

/-- CANCEL (R449). -/
def canCancel (n m : Nat) (h : Hw) : Hw :=
  if !h.flag (CAN_OBJ_CTL_TXRQ n m) then h
  else if h.flag (CAN_OBJ_STAT_ARB n m) then h.setFlag (CAN_OBJ_CTL_CANCEL n m) true
  else (h.setFlag (CAN_OBJ_CTL_TXRQ n m) false).setFlag (CAN_OBJ_STAT_CANCELLED n m) true

/-- TXRQ (R446). -/
def canTxrq (n m : Nat) (h : Hw) : Hw := h.setFlag (CAN_OBJ_CTL_TXRQ n m) true

/-- PUSH (R448). -/
def fifoPush (n : Nat) (h : Hw) : Hw :=
  let c := h.ch n
  if 32 ≤ c.fifo.length then (h.setFlag (CAN_STAT_FIFOREF n) true).canAlert n
  else
    let fdf := h.flag (CAN_TXF_CTL_FDF n)
    let rtr := h.flag (CAN_TXF_CTL_RTR n) && !fdf
    let dlc := h.fld (CAN_TXF_CTL_DLC n)
    let ws := (List.range 16).map fun i => h.fld (CAN_TXF_DATA n i)
    let f : CanFrame := ⟨h.fld (CAN_TXF_ID n), h.flag (CAN_TXF_ID_IDE n), fdf, h.flag (CAN_TXF_CTL_BRS n) && fdf, rtr, false,
      Fin.ofNat 16 dlc, wordBytes ws fdf rtr dlc⟩
    (h.setCh n { c with fifo := c.fifo ++ [⟨f, h.flag (CAN_TXF_CTL_IE n)⟩] }).showFifo n

/-- FLUSH (R450). -/
def fifoFlush (n : Nat) (h : Hw) : Hw :=
  let c := h.ch n
  let inArb := c.arb == some .fifo
  let keep := if inArb then c.fifo.take 1 else []
  let h := h.setCh n { c with fifo := keep, fifoCancel := inArb }
  (h.setFld (CAN_TXF_STAT_FLUSHED n) (c.fifo.length - keep.length)).showFifo n

/-- Whether a pair of timing words is within R441. -/
def timingOk (nbt dbt : Nat) : Bool :=
  let p := (bits nbt 0 5 + 1) * (1 + (bits nbt 5 8 + 1) + (bits nbt 13 7 + 1))
  let q := (bits dbt 0 5 + 1) * (1 + (bits dbt 5 5 + 1) + (bits dbt 10 4 + 1))
  decide (80 ≤ p ∧ p ≤ 8000 ∧ 16 ≤ q ∧ q ≤ p ∧ bits nbt 20 7 ≤ bits nbt 13 7 ∧ bits dbt 14 4 ≤ bits dbt 10 4)

/-- The words of CANn.NBT and CANn.DBT. -/
def Hw.nbt (h : Hw) (n : Nat) : Nat :=
  h.fld (CAN_NBT_NBRP n) + h.fld (CAN_NBT_NTSEG1 n) * 2 ^ 5 + h.fld (CAN_NBT_NTSEG2 n) * 2 ^ 13 + h.fld (CAN_NBT_NSJW n) * 2 ^ 20
def Hw.dbt (h : Hw) (n : Nat) : Nat :=
  h.fld (CAN_DBT_DBRP n) + h.fld (CAN_DBT_DTSEG1 n) * 2 ^ 5 + h.fld (CAN_DBT_DTSEG2 n) * 2 ^ 10 + h.fld (CAN_DBT_DSJW n) * 2 ^ 14

/-- A write of CANn.NBT or CANn.DBT (R441). -/
def timingWrite (n : Nat) (data : Bool) (v : Nat) (h : Hw) : Hw :=
  if h.flag (CAN_CTRL_EN n) || !(if data then timingOk (h.nbt n) v else timingOk v (h.dbt n)) then
    h.setFlag (CAN_STAT_CMDREF n) true
  else if data then h.setDbt n v else h.setNbt n v

/-- The controller leaves the bus or stops sending: what it has in arbitration ends (log entry 29, DEDUCED). -/
def Hw.canStops (h : Hw) (n : Nat) : Hw := if h.canSends n then h else h.frameFails n

/-- A write of MODE (R455): detection starts afresh, NOK and DOK clear. -/
def canMode (n mode : Nat) (h : Hw) : Hw :=
  let h := ((h.setFld (CAN_CTRL_MODE n) mode).setFlag (CAN_ABDSTAT_NOK n) false).setFlag (CAN_ABDSTAT_DOK n) false
  (h.setCh n { h.ch n with abdK := 0, abdOk := 0 }).canStops n

/-- Whether an object is closed to writes (R447). -/
def Hw.objClosed (h : Hw) (n m : Nat) : Bool := h.flag (CAN_OBJ_CTL_TXRQ n m) || h.flag (CAN_OBJ_STAT_ARB n m)

/-- A write of a guarded object register (R447). -/
def Hw.objGuard (h : Hw) (n m : Nat) (f : Hw → Hw) : Hw := if h.objClosed n m then h.setFlag (CAN_STAT_OBJREF n) true else f (h.rxKeep n m)

/-- A write of OBJm_CTL: TXRQ and CANCEL act at any time; a change of the other bits of a closed object is ignored with OBJREF
(R447, log entry 30, DEDUCED). -/
def Hw.objCtl (h : Hw) (n m v : Nat) : Hw :=
  let cur := h.fld (CAN_OBJ_CTL_EN n m) + h.fld (CAN_OBJ_CTL_DIR n m) * 2 + h.fld (CAN_OBJ_CTL_FDF n m) * 4
    + h.fld (CAN_OBJ_CTL_BRS n m) * 8 + h.fld (CAN_OBJ_CTL_RTR n m) * 16 + h.fld (CAN_OBJ_CTL_DLC n m) * 32 + h.fld (CAN_OBJ_CTL_IE n m) * 512
  let h := if h.objClosed n m then (if bits v 0 10 = cur then h else h.setFlag (CAN_STAT_OBJREF n) true)
    else
      let h := h.rxKeep n m
      let h := ((h.setFld (CAN_OBJ_CTL_EN n m) (bits v 0 1)).setFld (CAN_OBJ_CTL_DIR n m) (bits v 1 1)).setFld (CAN_OBJ_CTL_FDF n m) (bits v 2 1)
      let h := ((h.setFld (CAN_OBJ_CTL_BRS n m) (bits v 3 1)).setFld (CAN_OBJ_CTL_RTR n m) (bits v 4 1)).setFld (CAN_OBJ_CTL_DLC n m) (bits v 5 4)
      h.setFld (CAN_OBJ_CTL_IE n m) (bits v 9 1)
  let h := if bitOf v 10 then canTxrq n m h else h
  if bitOf v 11 then canCancel n m h else h

/-- A write of a word of object `m` at offset 4 * `word` (R447, R463). -/
def objectWrite (n m word v : Nat) (h : Hw) : Hw :=
  match word with
  | 0 => h.objGuard n m fun h => (h.setFld (CAN_OBJ_ID n m) (bits v 0 29)).setFld (CAN_OBJ_ID_IDE n m) (bits v 29 1)
  | 1 => h.objGuard n m fun h => h.setFld (CAN_OBJ_MASK n m) (bits v 0 29)
  | 2 => h.objCtl n m v
  | 3 =>
    let w1c := fun (h : Hw) (i : Nat) (f : Fld) => if bitOf v i then h.setFlag f false else h
    let h := w1c (w1c (w1c h 0 (CAN_OBJ_STAT_NEWDAT n m)) 1 (CAN_OBJ_STAT_MSGLST n m)) 2 (CAN_OBJ_STAT_TXOK n m)
    w1c (w1c (w1c h 3 (CAN_OBJ_STAT_CANCELLED n m)) 4 (CAN_OBJ_STAT_CANCEL_LATE n m)) 5 (CAN_OBJ_STAT_COLLIDED n m)
  | 6 => h.objGuard n m fun h =>
      ((h.setFld (CAN_OBJ_RIO_EN n m) (bits v 0 1)).setFld (CAN_OBJ_RIO_STATION n m) (bits v 1 11)).setFld (CAN_OBJ_RIO_MSGIDX n m)
        (bits v 12 3) |>.setFld (CAN_OBJ_RIO_POFF n m) (bits v 15 11)
  | w => if w < 16 then h else h.objGuard n m fun h => h.setFld (CAN_OBJ_DATA n m (w - 16)) v

/-- A write of word `i` of a landing view (R459, R460, R463): an object being filled takes it, in arbitration into its held
words. -/
def canViewWrite (n m i v : Nat) (h : Hw) : Hw :=
  let c := h.ch n
  if c.fill.contains m then
    if h.flag (CAN_OBJ_STAT_ARB n m) then
      h.setCh n { c with hold := Tab.put c.hold m (Tab.put (Tab.getD c.hold m []) i (v % 2 ^ 32)) }
    else h.setFld (CAN_OBJ_DATA n m i) v
  else h.objGuard n m fun h => h.setFld (CAN_OBJ_DATA n m i) v

/-! ## Frame-synchronous outputs (R456, R459, R460) -/

/-- F+0: SYNC becomes pending (R456). -/
def Hw.canSync (h : Hw) : Hw :=
  (List.range 8).foldl (fun h n =>
    if h.flag (CAN_SYNC_EN n) then
      let c := h.ch n
      let h := if c.sync.isSome then h.countS (CAN_SYNCLOST_COUNT n) (CAN_SYNCLOST_SAT n) (canEv n 3) 1 else h
      h.setCh n { c with sync := some (h.fld FRM_FNUM % 2 ^ 32) }
    else h) h

/-- Points a send object carries. -/
def Hw.objPoints (h : Hw) (n m : Nat) : Nat := dlcBytes (h.flag (CAN_OBJ_CTL_FDF n m)) (h.fld (CAN_OBJ_CTL_DLC n m)) / 4

/-- Send objects whose station takes outputs in this frame (R459). -/
def Hw.fillList (h : Hw) (n : Nat) : List Nat :=
  (List.range 128).filter fun m => h.flag (CAN_OBJ_RIO_EN n m) && h.flag (CAN_OBJ_CTL_DIR n m) && (
    let st := h.fld (CAN_OBJ_RIO_STATION n m)
    decide (st < 1536) && h.fld (RIO_SCFG_TRANSPORT st) == 1 && h.fld (RIO_SCFG_PORT st) == n && h.img.ends.contains st
      && [stnWait, stnGood, stnDegraded].contains (h.fld (RIO_SSTAT_STATE st)))

/-- F+880 us: each channel fills its send objects (R459, R460); `hold` while the unit sends no outputs (R587). -/
def State.outputFill (hold : Bool) (s : State) : State :=
  (List.range 8).foldl (fun s n =>
    if hold then s
    else
      let all := s.hw.fillList n
      let fits := fun (h : Hw) (m : Nat) =>
        decide (h.fld (CAN_OBJ_RIO_POFF n m) + h.objPoints n m ≤ h.fld (RIO_SMAP_OUT_CNT (h.fld (CAN_OBJ_RIO_STATION n m))))
      let ms := all.filter fun m => fits s.hw m
      let s := s.onHw fun h => (all.filter fun m => !fits h m).foldl (fun h m => h.rioReject n m 3) h
      if ms.isEmpty then s
      else
        let s := s.onHw fun h => (ms.filter fun m => h.flag (CAN_OBJ_CTL_TXRQ n m)).foldl (fun h _ =>
          (h.countS (CAN_OLATE_COUNT n) (CAN_OLATE_SAT n) (canEv n 3) 1).canAlert n) h
        let h := s.hw
        let at_ := h.fld (CAN_RIO_ODADDR_ADDR n) / 4096 * 4096
        let s := ((List.range ms.length).zip ms).foldl (fun s e =>
          let st := h.fld (CAN_OBJ_RIO_STATION n e.2)
          let b := descBytes (h.fld (CAN_RIO_OVBASE_ADDR n) + 8 * (h.fld (RIO_SMAP_OUT_BASE st) + h.fld (CAN_OBJ_RIO_POFF n e.2)))
            (h.viewOf n e.2) (8 * h.objPoints n e.2) false false false false (if e.1 + 1 = ms.length then 0 else at_ + 32 * (e.1 + 1))
          s.putBlock 21 (h.fld (CAN_CTRL_DOM n)) (at_ + 32 * e.1) b) s
        s.onHw fun h => (h.setCh n { h.ch n with fill := ms, filled := [] }).request (h.fld (CAN_RIO_CFG_OCHAN n))) s

/-- A descriptor of the output chain of a channel ends, well or in a fault (R394, R459). -/
def Hw.fillStep (h : Hw) (ch : Nat) (failed : Bool) : Hw :=
  ((List.range 8).filter fun n => h.fld (CAN_RIO_CFG_OCHAN n) == ch).foldl (fun h n =>
    let c := h.ch n
    match c.fill with
    | [] => h
    | m :: ms =>
      if failed then
        let h := h.setCh n { c with fill := ms, hold := Tab.del c.hold m }
        if h.flag (CAN_OBJ_STAT_ARB n m) then h else h.setFlag (CAN_OBJ_CTL_TXRQ n m) false
      else h.setCh n { c with fill := ms, filled := c.filled ++ [m] }) h

/-- The output chain of a channel is complete: every filled object is requested (R459, R460). -/
def Hw.fillDone (h : Hw) (ch : Nat) : Hw :=
  ((List.range 8).filter fun n => h.fld (CAN_RIO_CFG_OCHAN n) == ch).foldl (fun h n =>
    let c := h.ch n
    let h := h.setCh n { c with fill := [], filled := [] }
    c.filled.foldl (fun h m => if h.flag (CAN_OBJ_STAT_ARB n m) then h else h.setFlag (CAN_OBJ_CTL_TXRQ n m) true) h) h

/-! ## Meanings -/

def execCanFrameStored (n : Fin 8) (f : CanFrame) (s : State) : Host.Outcome State Fault Refusal := .next (s.canFrameStored n.val f)
def execStartOfFrame (n : Fin 8) (s : State) : Host.Outcome State Fault Refusal := .next (s.onHw (startOfFrame n.val))
def execCanFrameSent (n : Fin 8) (s : State) : Host.Outcome State Fault Refusal := .next (s.canFrameSent n.val)
def execCanError (n : Fin 8) (e : CanErr) (s : State) : Host.Outcome State Fault Refusal := .next (s.onHw (canError n.val e))
def execBusOffRecovery (n : Fin 8) (s : State) : Host.Outcome State Fault Refusal := .next (s.onHw (busOffRecovery n.val))
def execCanTxrq (src : Src) (n : Fin 8) (m : Fin 128) (s : State) : Host.Outcome State Fault Refusal :=
  .next (s.onHw fun h => h.canDom src n.val (0x1008 + 0x80 * m.val) (canTxrq n.val m.val))
def execCanCancel (src : Src) (n : Fin 8) (m : Fin 128) (s : State) : Host.Outcome State Fault Refusal :=
  .next (s.onHw fun h => h.canDom src n.val (0x1008 + 0x80 * m.val) (canCancel n.val m.val))
def execFifoPush (src : Src) (n : Fin 8) (s : State) : Host.Outcome State Fault Refusal :=
  .next (s.onHw fun h => h.canDom src n.val 0x280 (fifoPush n.val))
def execFifoFlush (src : Src) (n : Fin 8) (s : State) : Host.Outcome State Fault Refusal :=
  .next (s.onHw fun h => h.canDom src n.val 0x280 (fifoFlush n.val))
def execTimingWrite (src : Src) (n : Fin 8) (data : Bool) (val : BitVec 32) (s : State) : Host.Outcome State Fault Refusal :=
  .next (s.onHw fun h => h.onlyD0 src (canAddr n.val (if data then 0x10 else 0xC)) (timingWrite n.val data val.toNat))
def execCanMode (src : Src) (n : Fin 8) (mode : BitVec 2) (s : State) : Host.Outcome State Fault Refusal :=
  .next (s.onHw fun h => h.onlyD0 src (canAddr n.val 0) (canMode n.val mode.toNat))
def execObjectWrite (src : Src) (n : Fin 8) (m : Fin 128) (word : Fin 32) (val : BitVec 32) (s : State) :
    Host.Outcome State Fault Refusal :=
  .next (s.onHw fun h =>
    let off := 0x1000 + 0x80 * m.val + 4 * word.val
    if word.val = 6 then h.onlyD0 src (canAddr n.val off) (objectWrite n.val m.val word.val val.toNat)
    else h.canDom src n.val off (objectWrite n.val m.val word.val val.toNat))
def execArbitrationLost (n : Fin 8) (s : State) : Host.Outcome State Fault Refusal := .next (s.onHw (arbitrationLost n.val))

end Sys2Proof.Machine
end

