-- ==== Sys2Proof/Machine/Force.lean ====
section
/-! DEFINITION. The force table (04), zone owners and the layout load (02): R80, R81, R106, R178-R187. -/

namespace Sys2Proof.Machine

/-! ## Force entries (R178-R187) -/

/-- An entry's register image. -/
def Hw.forceImage (h : Hw) (n : Nat) : Nat :=
  h.fld (FRC_ENT_POINT n) + h.fld (FRC_ENT_SCOPE n) * 2 ^ 17 + h.fld (FRC_ENT_ACTIVE n) * 2 ^ 18
    + h.fld (FRC_ENT_ORPHAN n) * 2 ^ 19 + h.fld (FRC_ENT_DOMAIN n) * 2 ^ 20 + h.fld (FRC_ENT_VALUE n) * 2 ^ 32

/-- Sets an entry from its register image. -/
def Hw.setForce (h : Hw) (n v : Nat) : Hw :=
  let h := ((h.setFld (FRC_ENT_POINT n) (bits v 0 17)).setFld (FRC_ENT_SCOPE n) (bits v 17 1)).setFld (FRC_ENT_ACTIVE n) (bits v 18 1)
  ((h.setFld (FRC_ENT_ORPHAN n) (bits v 19 1)).setFld (FRC_ENT_DOMAIN n) (bits v 20 8)).setFld (FRC_ENT_VALUE n) (bits v 32 32)

/-- Active entries in ascending number. -/
def Hw.activeForces (h : Hw) : List Nat := (List.range 4096).filter fun n => h.flag (FRC_ENT_ACTIVE n)

/-- FRC.STAT.NACTIVE follows. -/
def Hw.showActive (h : Hw) : Hw := h.setFld FRC_STAT_NACTIVE h.activeForces.length

/-- While RETAIN is 1 a change of an entry is committed with the 256 entries of its record (R185, R501). The payload's
layout is not stated: its bytes are free (log entry 14, DESIGN CHOICE). -/
def Hw.retainForce (h : Hw) (n : Nat) : Hw :=
  if h.flag FRC_CTRL_RETAIN then
    let k := n / 256
    let vals := ((List.range 256).map fun i => (k * 256 + i, h.forceImage (k * 256 + i))).filter fun e => e.2 != 0
    ((h.submit 0x7001 k (toBytes 2048 (h.freeVal 16384)) (.force k vals)).useFree).place
  else h

/-- PARAM of FORCE_SET, FORCE_RELEASE and FORCE_ORPHAN (R187). -/
def forceParam (n v : Nat) : Nat := bits v 0 18 + n * 2 ^ 18 + bits v 32 32 * 2 ^ 32

/-- A Logbook record of the force table. -/
def Hw.forceRecord (h : Hw) (code : Nat) (src : Src) (n v : Nat) : Hw := h.record code src.master.val 0 (forceParam n v)

/-- The reason for which a write is refused (R178): NOT_YOURS first, then 1 to 4. -/
def Hw.forceReason (h : Hw) (src : Src) (n v : Nat) : Nat :=
  let p := bits v 0 17
  let scope := bits v 17 1
  let was := h.flag (FRC_ENT_ACTIVE n)
  if was && !isD0 src && h.fld (FRC_ENT_DOMAIN n) != src.dom.toNat then 5
  else if bits v 18 1 = 0 then 0
  else if h.isUnused p then 1
  else if (scope == 0 && h.isOutput p) || (scope == 1 && h.isInput p) then 2
  else if !h.reaches src.dom.toNat (zoneOf p) then 3
  else if h.activeForces.any fun m => m != n && h.fld (FRC_ENT_POINT m) == p then 4 else 0

/-- A write of FRC.ENTn takes effect whole or is refused (R178, R179). -/
def forceWrite (src : Src) (n v : Nat) (h : Hw) : Hw :=
  let was := h.flag (FRC_ENT_ACTIVE n)
  let act := bits v 18 1 = 1
  let old := h.forceImage n
  let keep := bits v 0 19 + bits v 32 32 * 2 ^ 32
  if !was ∧ !act then h.setForce n (keep + h.fld (FRC_ENT_DOMAIN n) * 2 ^ 20)
  else
    let why := h.forceReason src n v
    if why ≠ 0 then
      let h := ((h.setFlag FRC_STAT_REFUSED true).setFld FRC_STAT_REASON why).setFld FRC_STAT_ENTRY n
      h.record 0x03B src.master.val 0 (bits v 0 18 + n * 2 ^ 18 + bits v 18 1 * 2 ^ 30 + why * 2 ^ 32)
    else
      let h := h.setForce n (keep + src.dom.toNat * 2 ^ 20)
      let h := if !act then h.forceRecord 0x039 src n old
        else if was ∧ bits old 0 17 ≠ bits v 0 17 then (h.forceRecord 0x039 src n old).forceRecord 0x038 src n v
        else h.forceRecord 0x038 src n v
      h.showActive.retainForce n

/-- An entry is deactivated (R183). -/
def Hw.orphanForce (h : Hw) (n : Nat) : Hw :=
  let v := h.forceImage n
  let h := (h.setFlag (FRC_ENT_ACTIVE n) false).setFlag (FRC_ENT_ORPHAN n) true
  ((h.record 0x03A 25 0 (forceParam n v)).showActive).retainForce n

/-- Entries whose domain no longer reaches the zone of their point are deactivated at F+0, and those a layout load removes or
changes (R183). -/
def Hw.forceCheck (h : Hw) (changed : Nat → Bool) : Hw :=
  (h.activeForces.filter fun n =>
    let p := h.fld (FRC_ENT_POINT n)
    changed p || !h.reaches (h.fld (FRC_ENT_DOMAIN n)) (zoneOf p)).foldl (fun h n => h.orphanForce n) h

/-- The table is cleared; one record gives the number of entries that were active (R184, R186). -/
def Hw.clearForces (h : Hw) (code count : Nat) : Hw :=
  let h := (List.range 4096).foldl (fun h n => if h.forceImage n = 0 then h else h.setForce n 0) h
  (h.showActive).record code 25 0 count

/-- The table as the last committed records hold it (R185). -/
def Hw.restoreForces (h : Hw) : Hw :=
  ((h.forceSaved.map (·.2)).flatten.foldl (fun h e => h.setForce e.1 e.2) h).showActive

/-! ## Zone owners (R80, R81) -/

/-- Points an admitted program or an enabled slot of a domain names (R79): domain and points. -/
def Hw.zoneUsers (h : Hw) : List (Nat × List Nat) :=
  ((h.progs ++ h.progsThen).map fun e => (e.2.prog.dom, e.2.prog.owned ++ e.2.prog.ilk ++ (e.2.prog.ranges.map fun r =>
    (List.range r.2).map fun i => r.1 + i).flatten))
  ++ ((List.range 2).map fun m => ((h.eng m).enabled ++ h.slotsThen m).map fun s =>
    let e := h.eng m
    (e.get s dDomain, [e.get s dOutpt, e.get s dPvpt] ++ (if e.flag s dSpsrc then [e.get s dSppt] else [])
      ++ (if e.flag s dFfen then [e.get s dFfpt] else []))).flatten

/-- A write of zone owners takes a zone from someone who uses it (R81). -/
def Hw.zoneTaken (h : Hw) (z new : Nat) : Bool :=
  h.zoneOwner z != new && h.zoneUsers.any fun u => u.1 != 0 && u.1 != new && u.2.any fun p => zoneOf p == z

/-- A write of IMG.ZOWNn (R80, R81). -/
def zownWrite (n v : Nat) (h : Hw) : Hw :=
  if (List.range 4).any fun i => h.zoneTaken (4 * n + i) (bits v (8 * i) 8) then (h.setFlag IMG_STAT_ZREFUSED true).raise 26
  else
    ((((h.setFld (IMG_ZOWN_OWNER0 n) (bits v 0 8)).setFld (IMG_ZOWN_OWNER1 n) (bits v 8 8)).setFld (IMG_ZOWN_OWNER2 n)
      (bits v 16 8)).setFld (IMG_ZOWN_OWNER3 n) (bits v 24 8))

/-! ## Layout load (R58, R106) -/

/-- IMG.LCMD.LOAD. -/
def layoutLoad (h : Hw) : Hw :=
  if h.flag IMG_STAT_LBUSY then h
  else ({ h with img := { h.img with load := some (.reading (h.fld IMG_LAYOUT_ADDR)) } } : Hw).setFlag IMG_STAT_LBUSY true

/-- A zone word is valid (R58). -/
def zoneWordOk (w : Nat) : Bool :=
  bits w 5 27 == 0 && bits w 0 2 != 3 && (if bits w 0 2 = 1 then decide (bits w 2 3 ≤ 3) else bits w 2 3 == 0)

/-- Numbers of `size` bytes each. -/
def chunks (size : Nat) : Nat → List Byte → List Nat
  | 0, _ => []
  | n + 1, l => ofBytes (l.take size) :: chunks size n (l.drop size)

/-- A table of the entries of a list that are not 0. -/
def sparse (l : List Nat) : Tab Nat := ((List.range l.length).zip l).filter fun e => e.2 != 0

/-- The layout table's read and format checks end (R106, R679). -/
def layoutReadDone (mem : List Host.Cell) (fate : ReadFate) (h : Hw) : Hw :=
  match h.img.load with
  | some (.reading addr) =>
    let bad := (h.failsAt 25 addr fate).any fun o => decide (o < 593920)
    let got := h.readAs mem 25 0 addr 593920
    let h := h.noteRefused 25 0 addr 593920 .read
    let h := if got.isOk && bad then h.noteFate 25 0 addr fate else h
    let r : LayoutLoad := match got with
      | .error _ => .readFailed
      | .ok b =>
        if bad then .readFailed
        else
          let zones := chunks 4 1024 b
          let codes := ((b.drop 4096).take 65536).map fun x => [bits x.toNat 0 4, bits x.toNat 4 4]
          let types := codes.flatten
          if zones.all zoneWordOk && types.all (fun t => decide (t ≤ 4)) then
            .read (sparse zones) (sparse types) (sparse (chunks 4 131072 (b.drop 69632)))
          else .invalid
    { h with img := { h.img with load := some r } }
  | _ => h

/-! ## Meanings -/

def execForceWrite (src : Src) (n : Fin 4096) (val : BitVec 64) (s : State) : Host.Outcome State Fault Refusal :=
  .next (s.onHw (forceWrite src n.val val.toNat))
def execZownWrite (src : Src) (n : Fin 256) (val : BitVec 32) (s : State) : Host.Outcome State Fault Refusal :=
  .next (s.onHw fun h => h.onlyD0 src (0x30051000 + 4 * n.val) (zownWrite n.val val.toNat))
def execLayoutLoad (s : State) : Host.Outcome State Fault Refusal := .next (s.onHw layoutLoad)
def execLayoutReadDone (fate : ReadFate) (s : State) : Host.Outcome State Fault Refusal :=
  .next (s.onHw (layoutReadDone s.mem fate))

end Sys2Proof.Machine
end

