-- ==== Sys2Proof/Machine/Keeper.lean ====
section
/-! DEFINITION. The Keeper (17): readings, the ageing ledger, voltage and clock steps, the re-plan, hardware faults,
proposals and retirement, the mission profile. -/

namespace Sys2Proof.Machine

def keepAddr (off : Nat) : Nat := 0x30010000 + off

/-! ## Islands (R21, R25, R603, R604) -/

/-- Assured and nominal frequency of an island in kHz (R21). -/
def assured (i : Nat) : Nat :=
  if i = 0 ∨ i = 19 then 90000 else if i = 1 then 1080000 else if i < 10 then 450000 else if i < 12 then 360000
  else if i = 12 then 450000 else if i = 13 then 180000 else if i = 14 then 281250 else if i = 15 then 144000
  else if i = 16 then 225000 else if i = 17 then 360000 else 800000
def nominal (i : Nat) : Nat :=
  if i = 0 ∨ i = 19 then 100000 else if i = 1 then 1200000 else if i < 10 then 500000 else if i < 12 then 400000
  else if i = 12 then 500000 else if i = 13 then 200000 else if i = 14 then 312500 else if i = 15 then 160000
  else if i = 16 then 250000 else if i = 17 then 400000 else 900000

/-- Islands that can be retired (R25). -/
def retirable (i : Nat) : Bool := decide (2 ≤ i) && decide (i ≤ 11)

/-- VDD_CORE in mV at a code (R605); island 0 runs on VDD_KEEP, fixed at 800 mV (19 R655). -/
def mvOf (code : Nat) : Nat := 800 + 5 * code
def islandMv (i code : Nat) : Nat := if i = 0 then 800 else mvOf code

/-- 100 times the fresh maximum of an island at a voltage, in kHz (R603). -/
def Hw.fresh100 (h : Hw) (i mv : Nat) : Nat :=
  h.fld (KEEP_ISL_F80 i) * 100 + (h.fld (KEEP_ISL_F90 i) - h.fld (KEEP_ISL_F80 i)) * (mv - 800)

/-- An island degraded by `d` ppm holds 1.03 times step `k` at a voltage (R604, R607, R611). -/
def Hw.holds (h : Hw) (i mv d k : Nat) : Bool :=
  decide (103 * (16 * assured i + k * (nominal i - assured i)) * 1000000 ≤ h.fresh100 i mv * (1000000 - d) * 16)

/-- Fnow in kHz (R603). -/
def Hw.fnow (h : Hw) (i code : Nat) : Nat :=
  (nearQuot ((h.fresh100 i (islandMv i code) : Int) * (1000000 - h.fld (KEEP_ISL_D i) : Nat)) 100000000).toNat

/-- Every island shows its Fnow. -/
def Hw.showFnow (h : Hw) : Hw :=
  (List.range 20).foldl (fun (h : Hw) i => h.setFld (KEEP_ISL_FNOW i) (h.fnow i (h.fld KEEP_VDD_CODE))) h

/-- D in ppm of a stressed and a reference count (R600). A reference count of 0 gives a free value, and a stressed count above the
reference gives 0 (log entry 196, DESIGN CHOICE). -/
def Hw.degradation (h : Hw) (fs fr : Nat) : Nat :=
  if fr = 0 then h.freeVal 32 else (nearQuot (((fr : Int) - fs) * 1000000) fr).toNat

/-- Islands in service. -/
def Hw.islandsOn (h : Hw) : List Nat := (List.range 20).filter fun i => !h.bus.retired.contains i

/-! ## Cumulative state -/

def Hw.setKeep (h : Hw) (f : Keep → Keep) : Hw := { h with keep := f h.keep }

/-- Operating time in 1/256 h (R522). -/
def Hw.optime (h : Hw) : Nat := h.fld (NVM_CNT_VALUE 0)

/-- Readings of an island, oldest first. -/
def Hw.islandHist (h : Hw) (i : Nat) : List (Nat × Nat) := Tab.getD h.keep.cum.hist i []

/-- The n of R610 as FP32: 0.35 until 1,000 h, then that of the fit over the readings from 1,000 h on, within 0.10 and 0.35. -/
def ageN (l : List (Nat × Nat)) : Word :=
  match l.getLast? with
  | none => 0x3EB33333#32
  | some e =>
    if e.1 < 256000 then 0x3EB33333#32
    else
      let n := Config.ageFitN (l.filter fun r => decide (256000 ≤ r.1))
      if n.msb || decide (n < 0x3DCCCCCD#32) then 0x3DCCCCCD#32 else if 0x3EB33333#32 < n then 0x3EB33333#32 else n

/-- The A of R610 as FP32, over the readings that its n is from. -/
def ageA (l : List (Nat × Nat)) : Word :=
  Config.ageFitA (match l.getLast? with
    | some e => if e.1 < 256000 then [e] else l.filter fun r => decide (256000 ≤ r.1)
    | none => []) (ageN l)

/-- The largest number of `n` bits for which `p` holds, `p` true up to some number and false above it. -/
def bitsWhile (p : Nat → Bool) : Nat → Nat → Nat
  | 0, x => x
  | n + 1, x => bitsWhile p n (if p (x + 2 ^ n) then x + 2 ^ n else x)

/-- D * (438,300 h / t)^0.35 for a reading of `d` ppm at `t` 1/256 h: the 20th root of d^20 * (438,300 h / t)^7. -/
def earlyDeol (d t : Nat) : Nat :=
  let num := d ^ 20 * (438300 * 256) ^ 7
  let r := bitsWhile (fun x => decide (x ^ 20 * t ^ 7 ≤ num)) 32 0
  if r ^ 20 * t ^ 7 = num ∨ Config.roundsUp (num : Nat) (t ^ 7 : Nat) = false then r else r + 1

/-- DEOL of an island's readings (R610): n = 0.35 through the newest reading until 1,000 h, then the fit. -/
def ageDeol (l : List (Nat × Nat)) : Nat :=
  match l.getLast? with
  | some (t, d) => if 0 < t ∧ t < 256000 then earlyDeol d t else Config.ageProject (ageA l) (ageN l)
  | none => Config.ageProject (ageA l) (ageN l)

/-- DEOL of an island at a voltage (R610): above the voltage of the newest reading the increase is multiplied. -/
def Hw.deolAt (h : Hw) (i mv : Nat) : Nat :=
  let d := h.fld (KEEP_ISL_D i)
  let p := ageDeol (h.islandHist i)
  if i ≠ 0 ∧ h.keep.cum.mv < mv then (nearQuot ((d : Int) * 100 + ((p : Int) - d) * (100 + (mv - h.keep.cum.mv : Nat))) 100).toNat
  else p

/-- Values of the mission profile are shown (R623). -/
def Hw.showProfile (h : Hw) : Hw :=
  let c := h.keep.cum
  let h := (h.setFld KEEP_MPROF0_HOURS (c.secs / 3600)).setFld KEEP_MPROF1_BAND (min c.band (2 ^ 32 - 1))
  let h := (h.setFld KEEP_MPROF2_OVER (min c.above (2 ^ 32 - 1))).setFld KEEP_MPROF3_MEAN
    (ofSigned 32 (nearQuot (c.sum * 125) (max c.secs 1 : Nat)))
  h.setFld KEEP_MPROF4_TMAX (ofSigned 32 c.tmax)

/-! ## The ledger (R601, R602) -/

/-- Flags of an hourly record. -/
def Hw.hourFlags (h : Hw) : Nat :=
  h.fld KEEP_STAT_MARGINLOW + 2 * h.fld KEEP_STAT_PROJFAIL + 4 * h.fld KEEP_STAT_PROFEXC

/-- The 16 bytes of an island in an hourly record. -/
def Hw.islandBytes (h : Hw) (i : Nat) : List Byte :=
  let l := h.islandHist i
  toBytes 4 (h.fld (KEEP_ISL_D i)) ++ toBytes 4 (ageA l).toNat ++ toBytes 4 (ageN l).toNat
    ++ toBytes 4 (h.fld (KEEP_ISL_STEP i) + 32 * l.length)

/-- Payload of an hourly record (R602). -/
def Hw.hourBytes (h : Hw) : List Byte :=
  toBytes 4 h.optime ++ toBytes 4 (h.fld (NVM_CNT_VALUE 1)) ++ toBytes 2 (mvOf (h.fld KEEP_VDD_CODE)) ++ toBytes 2 h.hourFlags
    ++ toBytes 4 (h.fld KEEP_PLANSEQ) ++ ((List.range 20).map h.islandBytes).flatten
    ++ ((List.range 16).map fun k => toBytes 2 (ofSigned 16 (Tab.getD h.keep.hmax k 0))).flatten
    ++ ((List.range 4).map fun k => toBytes 4 (h.keep.supplies.getD k 0)).flatten
    ++ toBytes 4 (h.fld MTR_REFDRIFT_PPM) ++ toBytes 4 (h.fld KEY_PUFERR_ERRS + 4096 * h.fld KEY_PUFERR_MAXBLK)
    ++ toBytes 4 (h.fld KEEP_MPROF0_HOURS) ++ toBytes 4 (h.fld KEEP_MPROF1_BAND) ++ toBytes 4 (h.fld KEEP_MPROF2_OVER)
    ++ toBytes 4 (h.fld KEEP_MPROF3_MEAN) ++ toBytes 4 (h.fld KEEP_MPROF4_TMAX) ++ toBytes 12 0 ++ toBytes 88 0

/-- The plan record is written (R601). Its bytes are free (log entry 14, DESIGN CHOICE). -/
def Hw.writePlan (h : Hw) : Hw :=
  let p : PlanRec := ⟨h.fld KEEP_VDD_CODE, (List.range 20).map fun i => h.fld (KEEP_ISL_STEP i), h.keep.retired, h.fld KEEP_PLANSEQ⟩
  ((h.submit 0x5003 0 (toBytes 512 (h.freeVal 4096)) (.plan p)).useFree).place

/-! ## Proposals and requests (R608, R614-R616) -/

/-- Priority of a proposal: reasons 2, 3, 1, then the lower island. -/
def Proposal.rank (p : Proposal) : Nat := (if p.reason = 2 then 0 else if p.reason = 3 then 1 else 2) * 32 + p.isl

def bestProposal : List Proposal → Option Proposal
  | [] => none
  | p :: ps => match bestProposal ps with
    | some q => if q.rank < p.rank then some q else some p
    | none => some p

/-- KEEP.PROPOSE and the health bit KEEPWARN follow the proposals. -/
def Hw.showProposal (h : Hw) : Hw :=
  let h := h.setFldBit WCH_HEALTH 7 (!h.keep.props.isEmpty)
  match bestProposal h.keep.props with
  | some p => ((h.setFld KEEP_PROPOSE_ISL p.isl).setFld KEEP_PROPOSE_REASON p.reason).setFlag KEEP_PROPOSE_VALID true
  | none => ((h.setFld KEEP_PROPOSE_ISL 0).setFld KEEP_PROPOSE_REASON 0).setFlag KEEP_PROPOSE_VALID false

/-- What a refusal of the outstanding request leaves: the proposal stays and is not asked again before a re-plan or an ACCEPT
(R616). -/
def Hw.requestOutcome (h : Hw) : Hw :=
  match h.keep.outst with
  | some i =>
    if !h.flag FRM_KRQ_REQ && h.flag FRM_KRQ_REFUSED then
      h.setKeep fun k => { k with outst := none, props := k.props.map fun p => if p.isl = i then { p with refused := true } else p }
    else h
  | none => h

/-- The Keeper writes FRM.KRQ for the proposal of highest priority that may be requested, one at a time; it clears DONE and
REFUSED with the same write (R615, log entry 19, DESIGN CHOICE). -/
def Hw.keepNext (h : Hw) : Hw :=
  if h.keep.outst.isSome || h.sys.down.isSome then h
  else
    match bestProposal (h.keep.props.filter fun p => !p.refused && (p.reason == 2 || h.flag KEEP_CTRL_AUTORET || p.accepted)) with
    | none => h
    | some p =>
      let h := h.setKeep fun k => { k with outst := some p.isl }
      let h := (h.setFlag FRM_KRQ_DONE false).setFlag FRM_KRQ_REFUSED false
      (h.krqWrite (decide (10 ≤ p.isl)) (p.isl - 2) (p.isl - 10)).requestOutcome

/-- A proposal (R615). -/
def Hw.propose (h : Hw) (i reason : Nat) : Hw :=
  if h.keep.props.any fun p => p.isl == i && p.reason == reason then h
  else
    let h := (h.setKeep fun k => { k with props := k.props ++ [⟨i, reason, false, false⟩] }).showProposal
    ((h.raise 13).recordFree 0x0A4 4 0).keepNext

/-- A hardware fault of an island is reported to the Keeper (R614). -/
def Hw.hwFault (h : Hw) (i : Nat) : Hw :=
  let h := h.countS (KEEP_ISL_HFCNT i) (KEEP_ISL_HFCNT_SAT i) 15 1
  let now := h.optime
  let recent := ((Tab.getD h.keep.faults i []).filter fun t => decide (now ≤ t + 24 * 256)) ++ [now]
  let h := h.setKeep fun k => { k with faults := Tab.put k.faults i recent }
  let n := if h.fld KEEP_CTRL_HFAULTN = 0 then 1 else h.fld KEEP_CTRL_HFAULTN
  if retirable i && decide (n ≤ recent.length) && !h.bus.retired.contains i then h.propose i 3 else h

/-! ## Voltage, steps and margins (R604-R608) -/

/-- Every island in service runs at the largest step it holds (R604). -/
def Hw.setSteps (h : Hw) : Hw :=
  h.islandsOn.foldl (fun h i =>
    let mv := islandMv i (h.fld KEEP_VDD_CODE)
    let k := (((List.range 17).filter fun k => h.holds i mv (h.fld (KEEP_ISL_D i)) k).getLast?).getD 0
    (h.setFld (KEEP_ISL_STEP i) k).setFld (KEEP_ISL_FNOW i) (h.fnow i (h.fld KEEP_VDD_CODE))) h

/-- Islands on VDD_CORE that miss their margin at a code. -/
def Hw.shortAt (h : Hw) (code : Nat) : List Nat :=
  h.islandsOn.filter fun i => i != 0 && !h.holds i (mvOf code) (h.fld (KEEP_ISL_D i)) 0

/-- Present shortfalls at the highest voltage, and of island 0 (R607, R608). -/
def Hw.shortfalls (h : Hw) : Hw :=
  let short := (if h.holds 0 800 (h.fld (KEEP_ISL_D 0)) 0 then [] else [0])
    ++ (if h.fld KEEP_VDD_CODE = 20 then h.shortAt 20 else [])
  short.foldl (fun h i =>
    let h := ((h.setFlag KEEP_STAT_MARGINLOW true).raise 11).record 0x0A2 4 0 i
    if retirable i then h.propose i 2 else h.setFog 3 true) h

/-- The Keeper raises VDD_CORE one step towards a code (R605). -/
def Hw.raiseTo (h : Hw) (code : Nat) (plan : Bool) : Hw :=
  (h.setKeep fun k => { k with raise := some (code, plan), raiseAt := h.tfree }).setFld KEEP_VDD_CODE (h.fld KEEP_VDD_CODE + 1)

/-! ## The re-plan (R609-R612) -/

/-- Islands on VDD_CORE that miss the margin at the end of life at a code. -/
def Hw.endShort (h : Hw) (code : Nat) : List Nat :=
  h.islandsOn.filter fun i => i != 0 && !h.holds i (mvOf code) (h.deolAt i (mvOf code)) 0

/-- The islands that no code holds at the end of life: island 0 on its fixed VDD_KEEP is among those checked (R611). -/
def Hw.endLost (h : Hw) : List Nat := (if h.holds 0 800 (h.deolAt 0 800) 0 then [] else [0]) ++ h.endShort 20

/-- Mean of PUFERR.ERRS over the starts of the past year, above 0.75 of the threshold (R612). -/
def Hw.pufWorn (h : Hw) : Bool :=
  let l := (h.keep.starts.filter fun s => decide (h.optime ≤ s.1 + 8766 * 256)).map (·.2)
  !l.isEmpty && decide (3 * h.fld KEY_PUFCFG_THRESH * l.length < 4 * l.sum)

/-- The Keeper as the source of a command. -/
def keeperSrc : Src := ⟨.keeper, 0#8⟩

/-- A re-plan ends: steps, records, E9 (R611, R612); refused proposals are requested again (R616). The yearly record copies the hourly
record; before the first one of a session it is formed from what stands (log entry 154, DESIGN CHOICE). -/
def Hw.planEnd (h : Hw) : Hw :=
  let h := h.setSteps
  let h := h.countW KEEP_PLANSEQ 1
  let hours := h.optime / 256
  let h := (h.setFld KEEP_NEXTPLAN ((hours / 8766 + 1) * 8766 * 256)).setFlag KEEP_STAT_PLANBUSY false
  let h := if h.pufWorn then keyReenrol keeperSrc h else h
  let hour := if h.keep.hour = [] then h.hourBytes else h.keep.hour
  let h := (h.submit 0x5002 (hours / 8766 % 20) hour .keeper).writePlan
  let h := (h.raise 9).record 0x0A0 4 0 (h.fld KEEP_PLANSEQ + mvOf (h.fld KEEP_VDD_CODE) * 2 ^ 32)
  (h.setKeep fun k => { k with props := k.props.map fun p => { p with refused := false } }).keepNext

/-- A re-plan starts: projections, the lowest code not below the present one that holds every island which some code holds
(R611, log entry 20, DESIGN CHOICE). -/
def Hw.planStart (h : Hw) : Hw :=
  let h := (h.setKeep fun k => { k with planDue := false }).setFlag KEEP_STAT_PLANBUSY true
  let lost := h.endLost
  let h := lost.foldl (fun h i =>
    let h := ((h.setFlag KEEP_STAT_PROJFAIL true).raise 12).record 0x0A3 4 0 (i + h.deolAt i 900 * 2 ^ 32)
    if retirable i then h.propose i 1 else h) h
  let cur := h.fld KEEP_VDD_CODE
  let n := ((List.range (21 - cur)).find? fun n => (h.endShort (cur + n)).all fun i => lost.contains i).getD 0
  let h := h.islandsOn.foldl (fun (h : Hw) i => h.setFld (KEEP_ISL_DEOL i) (h.deolAt i (islandMv i (cur + n)))) h
  if n = 0 then h.planEnd else h.raiseTo (cur + n) true

/-- A re-plan that waited starts when no raise is under way. -/
def Hw.planIfDue (h : Hw) : Hw := if h.keep.planDue && h.keep.raise.isNone && h.sys.down.isNone then h.planStart else h

/-- After a reading: the margin of every island, by a raise where one misses it (R607). -/
def Hw.marginCheck (h : Hw) : Hw :=
  let cur := h.fld KEEP_VDD_CODE
  if h.keep.raise.isSome || h.sys.down.isSome then h
  else
    match (List.range (20 - cur)).find? fun n => (h.shortAt (cur + n)).isEmpty with
    | some 0 => h.setSteps.shortfalls.planIfDue
    | some (n + 1) => h.raiseTo (cur + n + 1) false
    | none => if cur < 20 then h.raiseTo 20 false else h.setSteps.shortfalls.planIfDue

/-- The supply monitor's reading lies within 10 mV of the raised code (R605): E10, and the plan record follows the voltage (R601). -/
def vddConfirmed (mv : Nat) (h : Hw) : Hw :=
  match h.keep.raise with
  | none => h
  | some (target, plan) =>
    let set := mvOf (h.fld KEEP_VDD_CODE)
    if mv + 10 < set ∨ set + 10 < mv then h
    else
      let h := ((h.setFld KEEP_VDD_MV mv).raise 10).recordFree 0x0A1 4 0
      if h.fld KEEP_VDD_CODE < target then (h.writePlan.setKeep fun k => { k with raiseAt := h.tfree }).setFld KEEP_VDD_CODE (h.fld KEEP_VDD_CODE + 1)
      else
        let h := h.setKeep fun k => { k with raise := none }
        if plan then h.planEnd else h.setSteps.writePlan.shortfalls.planIfDue

/-- A raised code is not confirmed within 1 ms: the steps stay and the raise is tried again at the next hourly reading, a re-plan
under way with it (R606; log entry 20, DESIGN CHOICE). -/
def supplyTimeout (h : Hw) : Hw :=
  match h.keep.raise with
  | none => h
  | some (_, plan) =>
    if h.elapsed h.keep.raiseAt < 1000000 then h
    else
      let h := (h.setKeep fun k => { k with raise := none, planDue := k.planDue || plan }).setFlag KEEP_STAT_PLANBUSY false
      ((h.setFlag KEEP_STAT_SUPFAIL true).raise 15).recordFree 0x0A6 4 0

/-! ## Readings (R599, R600, R613, R621) -/

/-- An hour of operating time has begun since the last reading, or the host has asked for one (READ). -/
def Hw.hourDue (h : Hw) : Bool :=
  h.fld KEEP_CMD_OP == 2 || (match (h.islandHist 0).getLast? with
    | some e => decide (e.1 / 256 < h.optime / 256)
    | none => true)

/-- Hourly readings: counts of the islands in order, VDD_CORE and the other supplies in mV. -/
def readHour (d : List (Nat × Nat)) (mv : Nat) (supplies : List Nat) (h : Hw) : Hw :=
  let now := h.optime
  let h := (List.range 20).foldl (fun h i =>
    let c := d.getD i (0, 0)
    let h := (h.setFld (KEEP_ISL_D i) (h.degradation c.1 c.2)).useFree
    let h := h.setFld (KEEP_ISL_FNOW i) (h.fnow i (h.fld KEEP_VDD_CODE))
    h.setKeep fun k => { k with cum := { k.cum with
      hist := Tab.put k.cum.hist i (Tab.getD k.cum.hist i [] ++ [(now, h.fld (KEEP_ISL_D i))]) } }) h
  let h := ((h.setFld KEEP_VDD_MV mv).setFld KEEP_CMD_OP 0).setKeep fun k => { k with
    cum := { k.cum with mv := mvOf (h.fld KEEP_VDD_CODE) }, supplies := mv :: supplies }
  let rec_ := h.hourBytes
  let h := (h.submit 0x5001 (now / 256 % 48) rec_ (.hour h.keep.cum)).place
  let h := (h.setKeep fun k => { k with hmax := [], hour := rec_ }).raise 8
  let h := if 0 < h.fld KEEP_NEXTPLAN ∧ h.fld KEEP_NEXTPLAN ≤ now then h.setKeep fun k => { k with planDue := true } else h
  h.marginCheck

/-- Every hour of operating time, and on READ (R599, R623). -/
def hourlyReading (d : List (Nat × Nat)) (mv : Nat) (supplies : List Nat) (h : Hw) : Hw :=
  if h.hourDue then readHour d mv supplies h else h

/-- A reading of the sensors (R599, R621). -/
def readTemps (t : List (BitVec 16)) (h : Hw) : Hw :=
  let h := ((List.range 16).zip t).foldl (fun h e => h.setFld (KEEP_TSENS_TEMP e.1) e.2.toNat) h
  let now := t.map BitVec.toInt
  match now with
  | [] => h
  | a :: as =>
    let hot := as.foldl max a
    let h := h.setKeep fun k => { k with
      hmax := ((List.range 16).zip now).foldl (fun m e => Tab.put m e.1 (match Tab.get? m e.1 with
        | some v => max v e.2
        | none => e.2)) k.hmax
      cum := { k.cum with
        band := k.cum.band + b2n (decide (600 < hot)), above := k.cum.above + b2n (decide (840 < hot))
        sum := k.cum.sum + hot, secs := k.cum.secs + 1, tmax := if k.cum.secs = 0 then hot else max k.cum.tmax hot } }
    let h := h.showProfile
    let c := h.keep.cum
    let h := if (c.band = 2 ^ 32 - 1 ∧ 600 < hot) ∨ (c.above = 2 ^ 32 - 1 ∧ 840 < hot) then h.raise 15 else h
    if !h.flag KEEP_STAT_PROFEXC && decide (8766 * 256 ≤ h.optime)
        && (decide (600 * (c.secs : Int) < c.sum) || decide (c.secs < 20 * c.band) || decide (0 < c.above)) then
      ((h.setFlag KEEP_STAT_PROFEXC true).raise 14).recordFree 0x0A5 4 0
    else h

/-- The reading of every second of TFREE. -/
def temperatureReading (t : List (BitVec 16)) (h : Hw) : Hw :=
  if h.elapsed h.keep.tempAt < 1000000000 then h
  else readTemps t (h.setKeep fun k => { k with tempAt := h.tfree })

/-- A margin read of a sector of the code region or the record store finds a line below the stricter level, or none
(R613). -/
def marginRead (code : Bool) (sector : Nat) (low : Bool) (h : Hw) : Hw :=
  if !low then h else if code then codeRefresh sector false h else compactRequest sector true h

/-! ## KEEP.CMD (R623) -/

/-- PLAN (R609). -/
def keepPlan (h : Hw) : Hw :=
  if h.flag KEEP_STAT_PLANBUSY then h.setFlag KEEP_STAT_CMDREF true
  else ((h.setKeep fun k => { k with planDue := true }).setFlag KEEP_STAT_PLANBUSY true).planIfDue

/-- ACCEPT of the standing proposal (R615, R616). -/
def keepAccept (h : Hw) : Hw :=
  match bestProposal h.keep.props with
  | none => h
  | some p =>
    (h.setKeep fun k => { k with props := k.props.map fun q =>
      if q = p then { q with accepted := true, refused := false } else q }).keepNext

/-- UNRETIRE (R617): a HOST retirement leaves the plan record. -/
def keepUnretire (i : Nat) (h : Hw) : Hw :=
  if h.keep.retired.contains (i, 4) then
    (((h.setKeep fun k => { k with retired := k.retired.erase (i, 4) }).setFldBit KEEP_HOSTRET i false)).writePlan
  else h.setFlag KEEP_STAT_CMDREF true

/-- A retirement has completed (R616, R617): the plan record names the island, and a re-plan follows (R609). -/
def Hw.retirementDone (h : Hw) (i : Nat) (byHost : Bool) : Hw :=
  let reason := if byHost then 4 else match h.keep.props.find? fun p => p.isl == i with
    | some p => p.reason
    | none => 0
  let h := h.setKeep fun k => { k with
    retired := k.retired ++ [(i, reason)], props := k.props.filter fun p => p.isl != i
    outst := if k.outst = some i then none else k.outst, planDue := true }
  let h := (h.setFldBit KEEP_RETIRED i true).setFldBit KEEP_HOSTRET i byHost
  (h.showProposal.writePlan.planIfDue).keepNext

/-! ## Meanings -/

def execRetirementRequest (src : Src) (loop : Bool) (lnt : Fin 8) (eng : Fin 2) (s : State) : Host.Outcome State Fault Refusal :=
  .next (s.onHw fun h => if isKeeper src then (h.krqWrite loop lnt.val eng.val).requestOutcome else h.refuseReg src 0x30040034)
def execKeeperRequestRun (s : State) : Host.Outcome State Fault Refusal := .next (s.onHw fun h => h.keeperRequest.requestOutcome)
def execHourlyReading (d : List (BitVec 32 × BitVec 32)) (mv : BitVec 12) (supplies : List (BitVec 32)) (s : State) :
    Host.Outcome State Fault Refusal :=
  .next (s.onHw (hourlyReading (d.map fun c => (c.1.toNat, c.2.toNat)) mv.toNat (supplies.map BitVec.toNat)))
def execTemperatureReading (t : List (BitVec 16)) (s : State) : Host.Outcome State Fault Refusal :=
  .next (s.onHw (temperatureReading t))
def execMarginRead (code : Bool) (sector : BitVec 10) (low : Bool) (s : State) : Host.Outcome State Fault Refusal :=
  .next (s.onHw (marginRead code sector.toNat low))
def execVddConfirmed (mv : BitVec 12) (s : State) : Host.Outcome State Fault Refusal := .next (s.onHw (vddConfirmed mv.toNat))
def execSupplyConfirmTimeout (s : State) : Host.Outcome State Fault Refusal := .next (s.onHw supplyTimeout)
def execKeepPlan (src : Src) (s : State) : Host.Outcome State Fault Refusal :=
  .next (s.onHw fun h => h.onlyD0 src (keepAddr 8) keepPlan)
def execKeepRead (src : Src) (s : State) : Host.Outcome State Fault Refusal :=
  .next (s.onHw fun h => h.onlyD0 src (keepAddr 8) fun h => h.setFld KEEP_CMD_OP 2)
def execKeepAccept (src : Src) (s : State) : Host.Outcome State Fault Refusal :=
  .next (s.onHw fun h => h.onlyD0 src (keepAddr 8) keepAccept)
def execKeepUnretire (src : Src) (isl : BitVec 5) (s : State) : Host.Outcome State Fault Refusal :=
  .next (s.onHw fun h => h.onlyD0 src (keepAddr 8) (keepUnretire isl.toNat))

end Sys2Proof.Machine
end

