-- ==== Sys2Proof/Machine/Windows.lean ====
section
/-! DEFINITION. The windows of a frame (02, 04, 05): tasks from F+40 us, the loop window's close, the compute window's close
with overruns, and the commit merge (R41, R55, R72-R75, R162, R171, R188-R192, R197, R235, R236, R680). -/

namespace Sys2Proof.Machine

/-! ## Which work runs (R586-R588) -/

/-- States of WCH.STAT.STATE. -/
def wOff : Nat := 0
def wJoining : Nat := 1
def wActive : Nat := 2
def wStandby : Nat := 3
def wIsolated : Nat := 4
def wFenced : Nat := 5
def wWitness : Nat := 6

def Hw.watchState (h : Hw) : Nat := h.fld WCH_STAT_STATE

/-- Lanterns, loop engines and the dispatch engine work: not in STANDBY, not in FENCED (R586, R588), and after a takeover from the next
F+0 on (R593). -/
def Hw.appRuns (h : Hw) : Bool := h.watchState != wStandby && h.watchState != wFenced && !h.wch.fresh

/-- The unit sends no outputs (R587, R593). -/
def Hw.outputsHeld (h : Hw) : Bool :=
  h.watchState == wStandby || h.watchState == wIsolated || h.watchState == wFenced || h.wch.fresh

/-- A Lantern that runs programs in this frame. -/
def Hw.lntRuns (h : Hw) (l : Nat) : Bool :=
  h.appRuns && !(h.programs l).isEmpty && h.lntState l != esRetired

/-! ## The ledger (R55, R104, R237) -/

/-- What FRM.TL_LAST and FRM.TL_MAX show of a frame of engine `i`. -/
def Hw.showLast (h : Hw) (i ticks : Nat) (noEnd : Bool) : Hw :=
  let h := (h.setFld (FRM_TL_LAST i) (min ticks (2 ^ 20 - 1))).setFlag (FRM_TL_LAST_NOEND i) noEnd
  h.setFld (FRM_TL_MAX i) (max (h.fld (FRM_TL_MAX i)) (h.fld (FRM_TL_LAST i)))

/-- Measured ticks or cycles of engine `i` in a frame; above the admitted worst case outside commissioning mode they are a
frame fault of cause 4, reported to the Keeper (R55, R614). -/
def Hw.ledger (h : Hw) (i ticks : Nat) (noEnd : Bool) : Hw :=
  let h := h.showLast i ticks noEnd
  if h.fld (FRM_TL_ADM i) < ticks ∧ h.flag FRM_CTRL_COMMISSION = false then
    let h := h.countS FRM_LEXCNT_COUNT FRM_LEXCNT_SAT 31 1
    let h := (h.setFlag FRM_STAT_LEXCEED true).frameFault 4 i 0
    (h.raise 28).hwFault (2 + i)
  else h

/-! ## Tasks (R108, R109, R160-R163, R176) -/

/-- Tasks due in the frame, in ascending program and task number (R161, R162). -/
def Hw.dueTasks (h : Hw) (l : Nat) : List (Nat × Nat) :=
  let f := h.fld FRM_FNUM
  ((progsOn h.progs l).map fun e =>
    ((List.range e.2.tasks.length).zip e.2.tasks).filterMap fun t =>
      if f % t.2.period = t.2.phase then some (e.1, t.1) else none).flatten

/-- Starts the next due task with the registers of R108, or reports END. -/
def Hw.nextTask (h : Hw) (l : Nat) : Hw :=
  let x := h.lan l
  match x.due with
  | [] => (h.setLan l { x with doing := .ended }).ledger l x.ticks false
  | (n, t) :: rest =>
    let entry := match Tab.get? h.progs n with
      | some p => (p.prog.tasks.getD t ⟨0, 0, 1, 0⟩).entry
      | none => 0
    h.setLan l { x with
      ba := false, wa := 0#32, wb := 0#32, z := false, n := false, enb := true, ns := [], cs := [], loops := []
      pc := h.blockStart n entry, doing := .running n t (x.first.contains (n * 16 + t))
      first := x.first.filter fun k => k != n * 16 + t
      due := rest, ticks := x.ticks + 4 }

/-- END: the task ends; the next due task, or END for the frame (R144, R162). -/
def ulcEnd (l : Nat) (h : Hw) : Hw :=
  let x := h.lan l
  match x.doing with
  | .running _ _ _ => (h.setLan l { x with ticks := x.ticks + 1, pc := (x.pc + 1) % 2 ^ 15 }).nextTask l
  | _ => h

/-! ## Overruns (R188-R192) -/

/-- A Lantern stops in a frame: what it staged is discarded (R188). -/
def Lantern.stop (x : Lantern) : Lantern :=
  { x with doing := .stopped, due := [], outNow := [], ilk := [], lsp := [], tasOut := [], tasIlk := [] }

/-- Program, task and instruction index of an overrun, as OVRINFO [23:0] holds them; of a Lantern that runs no task they are
free (log entry 45, DESIGN CHOICE). -/
def Hw.overrunAt (h : Hw) (l : Nat) : Nat :=
  match (h.lan l).doing with
  | .running n t _ => n + t * 32 + (h.lan l).pc % 2 ^ 15 * 512
  | _ => h.freeVal 24

/-- An overrun of a Lantern with its cause: 0 window end, 1 memory error, 2 distribution late (R191, R192). -/
def Hw.overrun (h : Hw) (l cause : Nat) : Hw :=
  let at_ := h.overrunAt l
  let info := at_ + cause * 2 ^ 24
  let h := h.useFree.setLan l (h.lan l).stop
  let h := h.countS (LNT_OVRCNT_COUNT l) (LNT_OVRCNT_SAT l) (32 + 4 * l) 1
  let h := (h.setFld (LNT_OVRINFO_PROG l) (bits at_ 0 5)).setFld (LNT_OVRINFO_TASK l) (bits at_ 5 4)
  let h := (h.setFld (LNT_OVRINFO_PC l) (bits at_ 9 15)).setFld (LNT_OVRINFO_CAUSE l) cause
  let h := (h.setFld (LNT_OVRFRM_FNUM l) (h.fld FRM_FNUM)).setFlag (LNT_STAT_OVR l) true
  let h := (h.raise (32 + 4 * l)).record 0x031 (8 + l) 0 (info + l * 2 ^ 32)
  if cause = 0 then h else ((h.setFlag (LNT_STAT_HWF l) true).raise (35 + 4 * l)).hwFault (2 + l)

/-- F+40 us: OV clears, the fixed 12 ticks, the first due task; a Lantern whose distribution is late does not run (R55, R86,
R109, R162). -/
def windowOpen (late : BitVec 8) (h : Hw) : Hw :=
  if h.phase = .started then
    let h := { h with phase := .open_ }
    (List.range 8).foldl (fun h l =>
      if !h.lntRuns l then h
      else if late.getLsbD l then ((h.setLan l { h.lan l with ticks := 0 }).frameFault 2 l 0).overrun l 2
      else (h.setLan l { h.lan l with ov := false, ticks := 12, due := h.dueTasks l, doing := .waiting }).nextTask l) h
  else h

/-- An uncorrectable error in a bank or in local memory stops the Lantern where it stands; a corrected one is counted (R204,
R680). -/
def lntMemError (l : Nat) (corrected : Bool) (r : LntRegion) (off : Nat) (h : Hw) : Hw :=
  if corrected then h.countS (LNT_ECCCNT_COUNT l) (LNT_ECCCNT_SAT l) (35 + 4 * l) 1
  else
    let region := match r with
      | .localMem => 0
      | .bank0 => 1
      | .bank1 => 2
    let h := ((h.setFld (LNT_ECCADDR_ADDR l) off).setFld (LNT_ECCADDR_REGION l) region).setFlag (LNT_ECCADDR_VALID l) true
    match (h.lan l).doing with
    | .running _ _ _ => h.overrun l 1
    | _ => h

/-! ## The loop window (R235-R237) -/

/-- The loop window closes: due slots not computed overrun (R235); the engine's ledger (R237). -/
def loopClose (cause : Nat) (h : Hw) : Hw :=
  if h.phase = .open_ then
    (List.range 2).foldl (fun h m =>
      let e := h.eng m
      let h := match e.left with
        | [] => h
        | s :: _ =>
          let info := s + e.left.length * 2 ^ 13 + cause * 2 ^ 27
          let h := h.setEng m (e.left.foldl (fun (e : LoopEngine) t => e.setFlag t sOvr true) e)
          let h := h.countS (LPE_OVRCNT_COUNT m) (LPE_OVRCNT_SAT m) (64 + 4 * m) 1
          let h := ((h.setFld (LPE_OVRINFO_SLOT m) s).setFld (LPE_OVRINFO_NSKIP m) e.left.length).setFld (LPE_OVRINFO_CAUSE m) cause
          let h := (h.setFld (LPE_OVRFRM_FNUM m) (h.fld FRM_FNUM)).setFlag (LPE_STAT_OVR m) true
          let h := (h.raise (64 + 4 * m)).record 0x040 (16 + m) 0 (info + m * 2 ^ 32)
          (h.setFlag (LPE_STAT_HWF m) true).hwFault (10 + m)
      h.ledger (8 + m) e.cycles (!e.left.isEmpty)) h
  else h

/-- An error in loop memory or a capture buffer: an uncorrectable one in a descriptor puts its slot in FAULT (R236), a
corrected one is counted. -/
def slotFault (m off : Nat) (capture corrected : Bool) (h : Hw) : Hw :=
  if corrected then h.countS (LPE_ECCCNT_COUNT m) (LPE_ECCCNT_SAT m) (67 + 4 * m) 1
  else
    let h := ((h.setFld (LPE_ECCADDR_ADDR m) off).setFld (LPE_ECCADDR_REGION m) (b2n capture)).setFlag (LPE_ECCADDR_VALID m) true
    let s := off / 128
    if capture || !(h.eng m).flag s dEn then h
    else
      let e := (h.eng m).setSt s slFault
      let h := (h.setEng m { e with left := e.left.filter fun t => t != s }).setFlag (LPE_STAT_HWF m) true
      (h.raise (67 + 4 * m)).hwFault (10 + m)

/-! ## The commit merge (R72-R75, R136, R171, R190, R197) -/

/-- A staged write of an output point as the merge sees it: value, SUBST, CLAMPED. -/
structure Staged where
  val : Word
  subst : Bool
  clamped : Bool
  deriving DecidableEq, Repr

/-- The ILK writes of a point in a frame by ascending program (R74): program and write. -/
def Hw.ilkWrites (h : Hw) (p : Nat) : List (Nat × Staged) :=
  h.progs.filterMap fun e =>
    let x := h.lan e.2.lnt
    (Tab.get? x.ilk (ilkKey e.1 p)).map fun v =>
      let b := Tab.getD x.tasIlk (ilkKey e.1 p) (false, false)
      (e.1, ⟨v, b.1, b.2⟩)

/-- The owner's staged write of a point: a Lantern program's OUT write or a loop slot's output (R72, R216). -/
def Hw.ownerWrite (h : Hw) (p : Nat) : Option Staged :=
  match h.progs.find? fun e => e.2.prog.owned.contains p with
  | some e =>
    let x := h.lan e.2.lnt
    (Tab.get? x.outNow p).map fun v =>
      let b := Tab.getD x.tasOut p (false, false)
      ⟨v, b.1, b.2⟩
  | none => ((List.range 2).findSome? fun m => Tab.get? (h.eng m).outs p).map fun o => ⟨o.1, false, o.2⟩

/-- The point's owner did not finish in this frame: its Lantern stopped, its slot was not computed or is in FAULT (R188,
R235, R236). -/
def Hw.ownerStopped (h : Hw) (p : Nat) : Bool :=
  (match h.progs.find? fun e => e.2.prog.owned.contains p with
    | some e => (h.lan e.2.lnt).doing == .stopped
    | none => false)
    || (List.range 2).any fun m =>
      let e := h.eng m
      e.left.any (fun s => h.slotOut m s == p)
        || (e.enabled.filter fun s => e.st s == slFault).any fun s => h.slotOut m s == p

/-- The island that carries a station's outputs cannot send them: its port or the memory island's is isolated (R44; log entry 177, DESIGN
CHOICE). -/
def Hw.carrierGone (h : Hw) (n : Nat) : Bool :=
  h.bus.isolated.contains 18 || h.bus.isolated.contains (14 + h.fld (RIO_SCFG_TRANSPORT n))

/-- A station's output ranges hold the point and are not served in this frame: the station is LOST, the unit withholds
outputs, or the island that carries them is missing (R44, R197, R418, R587). -/
def Hw.notDelivered (h : Hw) (p : Nat) : Bool :=
  (List.range 1536).any fun n =>
    (inRange (h.fld (RIO_SMAP_OUT_BASE n)) (h.fld (RIO_SMAP_OUT_CNT n)) p
      || inRange (h.fld (PKT_ST_W2_OUT2_BASE n)) (h.fld (PKT_ST_W2_OUT2_CNT n)) p)
    && (h.outputsHeld || h.fld (RIO_SSTAT_STATE n) == stnLost || (h.fld (RIO_SSTAT_STATE n) != stnOff && h.carrierGone n))

/-- The merged value of an output point (R72). -/
def Hw.mergePoint (h : Hw) (p : Nat) : Point :=
  let q := h.outPoint p
  let own := h.ownerWrite p
  let stopped := h.ownerStopped p
  let r := match h.ilkWrites p, own with
    | (_, w) :: _, _ => q.fresh (h.typed p w.val) w.subst w.clamped
    | [], some w => q.fresh (h.typed p w.val) w.subst w.clamped
    | [], none => q.older
  let r := r.put stOvr (stopped || (q.has stOvr && own.isNone))
  let r := r.put stOrphan (own.isNone && (q.has stOrphan || h.img.orphan.contains p))
  let r := (r.put stNotDelivered (h.notDelivered p)).good
  match h.forced 1 p with
  | some v => ({ r with val := v } : Point).put stForced true
  | none => r.put stForced false

/-- The point is in conflict: two programs' ILK writes differ in value (R74). -/
def Hw.ilkConflict (h : Hw) (p : Nat) : Option Nat :=
  match h.ilkWrites p with
  | (n, w) :: rest => if rest.any fun e => h.typed p e.2.val != h.typed p w.val then some n else none
  | [] => none

/-- Conflicts are counted and recorded in ascending point order (R74). -/
def Hw.ilkConflicts (h : Hw) : Hw :=
  (h.img.out.map (·.1)).foldl (fun h p =>
    match h.ilkConflict p with
    | some n =>
      let h := h.countS IMG_ILKCNT_COUNT IMG_ILKCNT_SAT 31 1
      ((h.setFld IMG_ILKLAST_POINT p).setFld IMG_ILKLAST_WINNER n).raise 24
    | none => h) h

/-- Where an LSP or LRD item of a loop slot lies: moved slots are redirected, those of a handover frame to where they move (R100). -/
def Hw.slotNow (h : Hw) (slot : Nat) : Nat :=
  let x := Tab.getD h.redir slot slot
  match h.adm.retire with
  | some r =>
    if r.loop && r.stage == .handover && x / 8192 == r.unit then
      match r.slots.find? fun p => p.1 == x % 8192 with
      | some p => (1 - r.unit) * 8192 + p.2
      | none => x
    else x
  | none => x

/-- LSP writes of the Lanterns go to the loop ports; a retired engine has none (R41, R100). -/
def Hw.forwardLsp (h : Hw) : Hw :=
  (List.range 8).foldl (fun h l =>
    (h.lan l).lsp.foldl (fun h w =>
      let idx := w.1
      let dom := match (progsOn h.progs l).find? fun e => e.2.lsp.contains idx with
        | some e => e.2.dom
        | none => 0
      let tgt := h.slotNow (bits idx 0 14)
      let m := tgt / 8192
      if h.lpeState m = esRetired then h
      else h.lspArrive m ⟨bits tgt 0 13 + m * 8192 + bits idx 14 3 * 2 ^ 14, w.2, 8 + l, dom⟩) h) h

/-- Staging of a frame that has been merged: OUT values stay readable (R113), the rest goes. -/
def Lantern.merged (x : Lantern) : Lantern :=
  { x with
    outVal := x.outNow.foldl (fun t e => Tab.put t e.1 e.2) x.outVal
    outNow := [], ilk := [], lsp := [], tasOut := [], tasIlk := [] }

/-- F+850 us: Lanterns that have not reported END overrun, and TL_LAST reports the window's ticks; one that did not run shows 0; the
commit merge; LSP writes leave (R72, R188). -/
def windowClose (h : Hw) : Hw :=
  if h.phase = .open_ then
    let h := { h with phase := .closed }
    let h := (List.range 8).foldl (fun h l =>
      match (h.lan l).doing with
      | .running _ _ _ => (h.overrun l 0).ledger l budgetTicks true
      | .stopped => h.showLast l budgetTicks true
      | .waiting => h.showLast l 0 false
      | .ended => h) h
    let h := { h with img := { h.img with merged := Tab.mapVal h.img.out fun p _ => h.mergePoint p, orphan := [] } }
    let h := h.ilkConflicts.forwardLsp
    { h with lnt := Tab.mapVal h.lnt fun _ x => x.merged }
  else h

/-! ## Meanings -/

def execComputeWindowOpen (late : BitVec 8) (s : State) : Host.Outcome State Fault Refusal := .next (s.onHw (windowOpen late))
def execUlcEnd (l : Fin 8) (s : State) : Host.Outcome State Fault Refusal := .next (s.onHw (ulcEnd l.val))
def execLanternMemoryError (l : Fin 8) (corrected : Bool) (r : LntRegion) (off : BitVec 20) (s : State) :
    Host.Outcome State Fault Refusal :=
  .next (s.onHw (lntMemError l.val corrected r off.toNat))
def execLoopWindowClose (cause : Fin 3) (s : State) : Host.Outcome State Fault Refusal := .next (s.onHw (loopClose cause.val))
def execSlotFault (m : Fin 2) (off : BitVec 20) (capture corrected : Bool) (s : State) : Host.Outcome State Fault Refusal :=
  .next (s.onHw (slotFault m.val off.toNat capture corrected))
def execComputeWindowClose (s : State) : Host.Outcome State Fault Refusal := .next (s.onHw windowClose)

end Sys2Proof.Machine
end

