-- ==== Sys2Proof/Machine/Restart.lean ====
section
/-! DEFINITION. What a restart of each mode restores (04 R167-R176, R184-R186; 05 R238; 06 R274, R275), and what a held
value or a checkpoint takes of the application. -/

namespace Sys2Proof.Machine

open Config (RetEntry CkMail CkLoop CkData)

/-! ## Retentive entries as values (R167-R169) -/

/-- A timer and a counter as numbers: ET or CV, then RUN, Q, INP and SAT (R169). -/
def Timer.num (t : Timer) : Nat := t.et + b2n t.run * 2 ^ 32 + b2n t.q * 2 ^ 33 + b2n t.inp * 2 ^ 34 + b2n t.sat * 2 ^ 35
def Timer.ofNum (v : Nat) : Timer := ⟨bits v 0 32, bitOf v 32, bitOf v 33, bitOf v 34, bitOf v 35⟩
def Counter.num (c : Counter) : Nat := c.cv + b2n c.q * 2 ^ 33 + b2n c.inp * 2 ^ 34 + b2n c.sat * 2 ^ 35
def Counter.ofNum (v : Nat) : Counter := ⟨bits v 0 32, bitOf v 33, bitOf v 34, bitOf v 35⟩

/-- Index of the first element of an entry in the Lantern's space; an OUT entry counts in the owned-output list. -/
def Program.retainBase (p : Program) (r : Retain) : Nat := (p.space ((retainRange r.space).getD 0)).base + r.off

/-- Value of element `j` of an entry; an OUT element has the value last published. -/
def Hw.elemOf (h : Hw) (x : Lantern) (p : Program) (r : Retain) (j : Nat) : Nat :=
  let i := p.retainBase r + j
  match r.space with
  | 1 => (h.outPoint (p.owned.getD (r.off + j) 0)).val.toNat
  | 3 => b2n (x.marker i)
  | 4 => (x.local i).toNat
  | 5 => (x.timer i).num
  | 6 => (x.counter i).num
  | _ => b2n (x.edge i)

/-- The retentive entries of every admitted program (R168). -/
def Hw.captureRetain (h : Hw) : List RetEntry :=
  (h.progs.map fun e => e.2.prog.retain.map fun r =>
    (⟨e.1, e.2.prog.dom, r.name, r.space, (List.range r.count).map fun j => h.elemOf (h.lan e.2.lnt) e.2.prog r j⟩ : RetEntry)).flatten

/-- Writes element `i` of a space. -/
def Lantern.putElem (x : Lantern) (space i v : Nat) : Lantern :=
  match space with
  | 3 => { x with mrk := Tab.put x.mrk i (v != 0) }
  | 4 => { x with lw := Tab.put x.lw i (BitVec.ofNat 32 v) }
  | 5 => { x with tmr := Tab.put x.tmr i (Timer.ofNum v) }
  | 6 => { x with ctr := Tab.put x.ctr i (Counter.ofNum v) }
  | 7 => { x with edg := Tab.put x.edg i (v != 0) }
  | _ => x

/-- The saved values of an entry: those of the same program number and domain, by NAME and SPACE (R637). -/
def savedOf (saved : List RetEntry) (n : Nat) (p : Program) (r : Retain) : Option (List Nat) :=
  (saved.find? fun e => e.prog == n && e.dom == p.dom && e.name == r.name && e.space == r.space).map fun e => e.vals

/-- Output points whose values saved OUT entries give (R173). -/
def Hw.savedOuts (h : Hw) (saved : List RetEntry) : List (Nat × Word) :=
  (h.progs.map fun e => ((e.2.prog.retain.filter fun r => r.space == 1).map fun r =>
    match savedOf saved e.1 e.2.prog r with
    | some vs => ((List.range (min r.count vs.length)).map fun j =>
        (e.2.prog.owned.getD (r.off + j) 0, BitVec.ofNat 32 (vs.getD j 0)))
    | none => []).flatten).flatten

/-- A program's elements start anew: defaults, then the saved values; FIRST of its tasks; what the Lantern had staged goes,
and its OUT staging is the point's value (R169, R173, R176). -/
def Hw.restoreProg (saved : List RetEntry) (h : Hw) (n : Nat) (q : Placed) : Hw :=
  let p := q.prog
  let x := ((h.lan q.lnt).clearProg p).loadDefaults p
  let x := p.retain.foldl (fun (x : Lantern) r =>
    match savedOf saved n p r with
    | some vs => (List.range (min r.count vs.length)).foldl (fun (x : Lantern) j =>
        x.putElem r.space (p.retainBase r + j) (vs.getD j 0)) x
    | none => x) x
  let x := { h.adoptOut x p.owned with outNow := [], ilk := [], lsp := [], tasOut := [], tasIlk := [] }
  let h := h.setLan q.lnt (x.setFirst n p)
  p.retain.foldl (fun (h : Hw) r =>
    match savedOf saved n p r with
    | some vs =>
      if (vs.length == r.count) = true then h
      else h.record 0x030 25 0 (r.name + r.space * 2 ^ 16 + n * 2 ^ 20 + q.lnt * 2 ^ 25 + vs.length * 2 ^ 32 + r.count * 2 ^ 48)
    | none => h) h

/-! ## Points, forces, stations, generators (R173) -/

/-- Input points take their initial values; an output point a restored value, or its initial one. -/
def Hw.restartPoints (h : Hw) (outs : List (Nat × Word)) : Hw :=
  let out := Tab.mapVal h.img.out fun p _ =>
    match outs.find? fun e => e.1 == p with
    | some e => ((⟨h.typed p e.2, 0#16, 0⟩ : Point)).good
    | none => Point.initial (h.initVal p)
  let h := { h with img := { h.img with out := out, orphan := [] } }
  let inp := Tab.mapVal h.img.inp fun p _ => if h.isInput p then Point.initial (h.initVal p) else h.outPoint p
  { h with img := { h.img with inp := inp } }

/-- Every enabled station waits. Its first period starts at the next F+0 (R194): an entry written as it stands makes it enter WAIT
there. -/
def Hw.restartStations (h : Hw) : Hw :=
  (((List.range 1536).filter fun n => h.flag (RIO_SCFG_EN n)).foldl (fun (h : Hw) n =>
    let again : StationWrite := ⟨n, false, h.stationWritten n false⟩
    ({ h with img := { h.img with stWrites := h.img.stWrites ++ [again] } } : Hw).stationEnter n) h).showStations

/-- Every injection ends, with its record, and every capture stops (R230, R238). -/
def Hw.dropGens (h : Hw) : Hw :=
  (List.range 2).foldl (fun (h : Hw) m => (h.endGens m fun _ => true).endCaps m fun _ => true) h

/-- Enabled slots start as their MODE0 says, with the tuning words that LOOP_ENABLE gave them (R220, R238). -/
def Hw.restartSlots (h : Hw) : Hw :=
  (List.range 2).foldl (fun (h : Hw) m =>
    h.setEng m ((h.eng m).enabled.foldl (fun (e : LoopEngine) s => (e.fromImage s).enter s) (h.eng m))) h

/-- The part of a restart that every mode shares: points, then the Lanterns' elements, then stations. -/
def Hw.restartApp (h : Hw) (saved : List RetEntry) (outs : List (Nat × Word)) : Hw :=
  let h := h.restartPoints outs
  (h.progs.foldl (fun (h : Hw) e => h.restoreProg saved e.1 e.2) h).restartStations

/-- Entries of the force table that are active. -/
def Hw.forcesActive (h : Hw) : Nat := h.activeForces.length

/-! ## The three modes -/

/-- A cold restart (R173, R176). `code` and `n` are the record of the forces dropped: of R184, or of R186 on a takeover. -/
def Hw.restartColdWith (h : Hw) (code n : Nat) : Hw :=
  ((h.restartApp [] []).dropGens.restartSlots.clearForces code n).setFlag DPE_STAT_WARMOK false

/-- The cold restart of a takeover without a checkpoint (R593): the dispatch engine is UNLOADED and its memories are clear (R273). -/
def Hw.restartTakeoverCold (h : Hw) : Hw :=
  let h := (h.restartColdWith 0x03D 0).dClear.setDpe fun d => { d with staged := none, staging := none, restore := none, warmIn := [], load := none }
  (h.setFlag DPE_STAT_MBFULL false).setFld DPE_STAT_STATE dUnloaded
def Hw.restartCold (h : Hw) : Hw := h.restartColdWith 0x03C h.forcesActive

def mailOf (e : DEntry) : CkMail := ⟨e.vals, e.word, e.info, e.vpoint, e.ipoint⟩
def entryOf (m : CkMail) : DEntry := ⟨m.vals, m.word, m.info, m.vpoint, m.ipoint⟩

/-- A warm restart after power-down (R173, R174, R185, R274, R637). -/
def Hw.restartWarm (h : Hw) (v : HeldSave) : Hw :=
  let h := (h.restartApp v.app (h.savedOuts v.app)).dropGens.restartSlots
  let h := if h.flag FRC_CTRL_RETAIN then h.restoreForces else h.clearForces 0x03C h.forcesActive
  (h.setDpe fun d => { d with restore := v.mail.map entryOf }).setFlag DPE_STAT_WARMOK false

/-- Words of a loop slot that a checkpoint carries (R238). -/
def ckWords : List Nat := [12, 13, 14, 15, 16, 17, 18, 24, 25, 26, 27, 28, 29, 30, 31]

/-- An enabled slot takes its words from a checkpoint. -/
def Hw.restoreSlot (h : Hw) (c : CkLoop) : Hw :=
  let e := h.eng c.eng
  if e.flag c.slot dEn then
    let e := (ckWords.zip c.words).foldl (fun (e : LoopEngine) w => e.setWord c.slot w.1 w.2) e
    h.setEng c.eng (({ e with wspNext := Tab.del e.wspNext c.slot }.setFlag c.slot sInj false).setFlag c.slot sCap false)
  else h

/-- A warm restart on takeover from a checkpoint and its WARM bytes (R173, R186, R238, R275). -/
def Hw.restartTakeover (h : Hw) (d : CkData) (warm : List Byte) : Hw :=
  let h := (h.restartApp d.retain d.outs).dropGens.clearForces 0x03D d.forces
  let h := d.loops.foldl (fun (h : Hw) c => h.restoreSlot c) h
  let h := h.setDpe fun e => { e with restore := d.mail.map entryOf, warmIn := warm }
  (h.setFlag DPE_STAT_WARMOK false).applyWarm

/-! ## What a checkpoint and the held values take -/

/-- Output points in ascending order. -/
def Hw.outPoints (h : Hw) : List Nat :=
  (((List.range 1024).filter fun z => h.zoneDir z == 2).map fun z => (List.range 128).map fun i => 128 * z + i).flatten

/-- Enabled slots of both engines with the words a checkpoint carries. -/
def Hw.captureLoops (h : Hw) : List CkLoop :=
  ((List.range 2).map fun m => (h.eng m).enabled.map fun s => (⟨m, s, ckWords.map fun w => (h.eng m).word s w⟩ : CkLoop)).flatten

/-- The last landed mailbox entry that carried set-points. -/
def Hw.lastMail (h : Hw) : Option CkMail := h.dpe.landed.map mailOf

/-- Bytes of the gap sections of a checkpoint (R591). -/
def CkData.gapBytes (h : Hw) (d : CkData) : Nat :=
  256 + (h.progs.map fun e => e.2.prog.retainBytes).sum + 4 * d.outs.length + 60 * d.loops.length
    + (match d.mail with
      | some m => 4 * m.vals.length + 8
      | none => 0)

end Sys2Proof.Machine
end

