-- ==== Sys2Proof/Machine/Watch.lean ====
section
/-! DEFINITION. Duplex operation (16): Watch messages and their paths, the lease and the witness, states of a unit,
checkpoints, takeover, switch-over and the self-test of the standby (R579-R598). -/

namespace Sys2Proof.Machine

open Config (CkData)

def Hw.setWch (h : Hw) (f : Wch → Wch) : Hw := { h with wch := f h.wch }

def roleDuplex : Nat := 1
def roleWitness : Nat := 2

/-- The Watch runs as a member of a pair, or as a witness (R579). -/
def Hw.isDuplex (h : Hw) : Bool := h.flag WCH_CTRL_EN && h.fld WCH_CTRL_ROLE == roleDuplex
def Hw.isWitness (h : Hw) : Bool := h.flag WCH_CTRL_EN && h.fld WCH_CTRL_ROLE == roleWitness

/-- `ms` milliseconds of TFREE have passed since `t`. -/
def Hw.waited (h : Hw) (t ms : Nat) : Bool := h.passed t (ms * 1000)

/-! ## Records and commands

The rules give the codes 0x090-0x096 no severity: a free value (log entry 31, DESIGN CHOICE). -/

def Hw.watchRecord (h : Hw) (code param : Nat) : Hw := (h.present code (h.freeVal 8 % 6) 22 0 param).useFree
def Hw.watchRecordFree (h : Hw) (code : Nat) : Hw := (h.useFree.watchRecord code (h.freeVal 64))

/-- A command not allowed in the state, or abandoned (R597). -/
def Hw.watchRefuse (h : Hw) : Hw := (h.setFlag WCH_STAT_CMDREF true).raise 199

def Hw.watchCount (h : Hw) (c s : Fld) : Hw := h.countS c s 199 1

/-! ## Health (R596) -/

/-- CKAGE: seconds since the latest checkpoint was complete, 0 without one. -/
def Hw.ckAge (h : Hw) : Nat :=
  match h.wch.ck with
  | some c => min 255 (h.elapsed c.at_ / 1000000000)
  | none => 0

/-- The health word as it stands: CK and FIT follow from the rest; the test bits are 0 but in STANDBY. -/
def Hw.healthWord (h : Hw) : Nat :=
  let v := h.fld WCH_HEALTH
  let standby := h.watchState == wStandby
  let ck := h.wch.ck.isSome
  let tests := if standby then bits v 2 5 else 0
  b2n (standby && ck && tests == 31) + b2n ck * 2 + tests * 4 + bits v 7 1 * 2 ^ 7 + h.ckAge * 2 ^ 8 + bits v 16 16 * 2 ^ 16

/-- The health word follows what an operation does; a change of FIT raises E197. -/
def Hw.withHealth (h : Hw) (f : Hw → Hw) : Hw :=
  let was := h.fldBit WCH_HEALTH 0
  let h := f h
  let h := h.setFld WCH_HEALTH h.healthWord
  if h.fldBit WCH_HEALTH 0 = was then h else h.raise 197

/-! ## States (R586) -/

/-- A DUPLEX unit changes state (R586); FOGHORN shows ISOLATED and FENCED (R648). Leaving ACTIVE ends a transfer, and a
standby's queries end with its state. -/
def Hw.watchTo (h : Hw) (st : Nat) : Hw :=
  let old := h.watchState
  if old = st then h
  else h.withHealth fun h =>
    let h := h.setFld WCH_STAT_STATE st
    let h := h.setWch fun w => { w with
      query := .none, unreach := false, since := h.tfree
      ckAt := if st = wActive then h.tfree else w.ckAt
      out := if st = wActive then w.out else none
      sw := if st = wActive then w.sw else .none
      ckDue := if st = wActive then w.ckDue else false }
    ((h.raise 192).watchRecord 0x090 (old + st * 8)).setFog 5 (st == wIsolated || st == wFenced)

/-! ## Messages (R580, R581) -/

/-- Message types. -/
def mHeartbeat : Nat := 0x01
def mCkSeg : Nat := 0x02
def mCkAck : Nat := 0x03
def mLeaseReq : Nat := 0x10
def mLeaseGrant : Nat := 0x11
def mLeaseDeny : Nat := 0x12
def mConfirmQ : Nat := 0x13
def mRelease : Nat := 0x14
def mWait : Nat := 0x15

/-- The 32 bytes of a header. -/
def watchHeader (typ unit epoch seq fnum health ckseq value len : Nat) : List Byte :=
  toBytes 1 typ ++ toBytes 1 1 ++ toBytes 2 unit ++ toBytes 4 epoch ++ toBytes 4 seq ++ toBytes 4 fnum ++ toBytes 4 health
    ++ toBytes 4 ckseq ++ toBytes 4 value ++ toBytes 4 len

/-- The 96-bit IV, little-endian in the order of the rule. -/
def watchIv (unit pcyc hi seq : Nat) : List Byte := toBytes 2 unit ++ toBytes 3 pcyc ++ toBytes 3 hi ++ toBytes 4 seq

/-- PCYC of this unit (R562). -/
def Hw.pcyc (h : Hw) : Nat := h.fld (NVM_CNT_VALUE 1) % 2 ^ 24

/-- The key of the PKT engine, when one is loaded. -/
def Hw.watchKey (h : Hw) : Option (List Byte) := (Tab.get? h.key.reg 2).map fun r => r.secret

/-- The tag of a message. -/
def watchTag (key : List Byte) (unit pcyc hi seq : Nat) (body : List Byte) : List Byte :=
  (Config.aeadTag key (watchIv unit pcyc hi seq) body [] ++ List.replicate 16 0#8).take 16

/-- CKSEQ of a message this unit sends. -/
def Hw.ownCkseq (h : Hw) : Nat := h.fld WCH_CKSEQ

/-- The next message of this unit: header and payload. Its SEQ is counted (R581). -/
def Hw.nextMsg (h : Hw) (typ value : Nat) (epoch : Nat) (payload : List Byte) : Hw × Nat × Nat × List Byte :=
  let hi := h.wch.seqhi
  let seq := h.wch.seq
  let value := if typ = mHeartbeat then hi else value
  let body := watchHeader typ (h.fld WCH_UNITID_UNIT) epoch seq (h.fld FRM_FNUM % 2 ^ 32) h.healthWord h.ownCkseq value payload.length
    ++ payload
  let h := h.setWch fun w => if seq + 1 = 2 ^ 32 then { w with seq := 0, seqhi := hi + 1 } else { w with seq := seq + 1 }
  (h, hi, seq, body)

/-- A message on path A: with its CRC-32, over the link. -/
def Hw.sendA (h : Hw) (typ value : Nat) (payload : List Byte) : Hw :=
  let (h, _, _, body) := h.nextMsg typ value (h.fld WCH_EPOCH) payload
  h.setWch fun w => { w with link := body ++ toBytes 4 (crc32 body) }

/-- A UDP datagram of the Watch: untagged Ethernet, IPv4 and UDP as R580 and R592 frame it. The destination MAC address is not
stated: a free value; the IPv4 fields the rules leave are those of R417 (log entry 32, DESIGN CHOICE). -/
def Hw.watchFrame (h : Hw) (ip : Nat) (b : List Byte) : List Byte :=
  let port := h.fld WCH_PORTQ_PORT
  let up := h.fld WCH_UNITID_UDPPORT
  let hd := beBytes 2 0x4500 ++ beBytes 2 (28 + b.length) ++ beBytes 2 0 ++ beBytes 2 0x4000 ++ beBytes 1 64 ++ beBytes 1 17
    ++ beBytes 2 0 ++ beBytes 4 (h.fld (PKT_P_IP port)) ++ beBytes 4 ip
  insertSums (beBytes 6 (h.freeVal 48) ++ beBytes 6 (h.fld (PKT_P_MAC port)) ++ beBytes 2 0x0800 ++ hd ++ beBytes 2 up ++ beBytes 2 up
    ++ beBytes 2 (8 + b.length) ++ beBytes 2 0 ++ b)

/-- A frame goes as a transmit packet into a queue (R415). -/
def Hw.queueFrame (h : Hw) (port q : Nat) (f : List Byte) : Hw := (h.pushWhole port 0 q (0#64 :: toWords f.length f) (8 + f.length)).1

/-- A message by UDP on path B's port, with its tag (R580, R581). Without a key no tag can be made and nothing is sent (log
entry 32, DESIGN CHOICE). -/
def Hw.sendUdp (h : Hw) (ip typ value epoch : Nat) (payload : List Byte) : Hw :=
  match h.watchKey with
  | none => h
  | some key =>
    let (h, hi, seq, body) := h.nextMsg typ value epoch payload
    let b := body ++ watchTag key (h.fld WCH_UNITID_UNIT) h.pcyc hi seq body
    (h.queueFrame (h.fld WCH_PORTQ_PORT) (h.fld WCH_PORTQ_TXQ) (h.watchFrame ip b)).useFree

/-- To the peer on path B. -/
def Hw.sendB (h : Hw) (typ value : Nat) (payload : List Byte) : Hw :=
  h.sendUdp (h.fld WCH_PEERIP) typ value (h.fld WCH_EPOCH) payload

/-- The witness address in use (R584). -/
def Hw.witIp (h : Hw) : Nat := if h.wch.wit then h.fld WCH_WITIP1 else h.fld WCH_WITIP0

/-- A request to the witness; its send time is what a grant counts from (R584). -/
def Hw.sendRequest (h : Hw) (typ : Nat) : Hw :=
  let h := h.sendUdp h.witIp typ 0 (h.fld WCH_EPOCH) []
  h.setWch fun w => { w with reqAt := h.tfree, reqOpen := true }

/-! ## Accepting a message (R581) -/

/-- Header and payload of a message as it arrived. -/
def msgBody (m : WatchMsg) (typ : Nat) : List Byte :=
  watchHeader typ m.unit.toNat m.epoch.toNat m.seq.toNat m.fnum.toNat m.health.toNat m.ckseq.toNat m.value.toNat m.payload.length
    ++ m.payload

/-- SEQHI of a message: its VALUE for a HEARTBEAT, else the one held, plus 1 where SEQ has wrapped; 0 where none is held. -/
def msgHi (m : WatchMsg) (typ : Nat) (seen : Option WSeen) : Nat :=
  if typ = mHeartbeat then m.value.toNat % 2 ^ 24
  else match seen with
    | some s => (s.hi + b2n (decide (m.seq.toNat < s.seq) && seqNewer m.seq.toNat s.seq)) % 2 ^ 24
    | none => 0

/-- (PCYC, SEQHI, SEQ) is above another, compared in order under the signed difference of each width. -/
def WSeen.above (a b : WSeen) : Bool :=
  let d24 := toSigned 24 (a.pcyc + 2 ^ 24 - b.pcyc % 2 ^ 24)
  let dhi := toSigned 24 (a.hi + 2 ^ 24 - b.hi % 2 ^ 24)
  decide (0 < d24) || (d24 == 0 && (decide (0 < dhi) || (dhi == 0 && seqNewer a.seq b.seq)))

/-- Whether the CRC-32 or the tag of a message verifies. -/
def Hw.msgVerifies (h : Hw) (path : WPath) (typ : Nat) (m : WatchMsg) : Bool :=
  match path with
  | .a => m.check == toBytes 4 (crc32 (msgBody m typ))
  | .b => match h.watchKey with
    | some key =>
      m.check == watchTag key m.unit.toNat m.pcyc.toNat (msgHi m typ (Tab.get? h.wch.seen m.unit.toNat)) m.seq.toNat (msgBody m typ)
    | none => false

/-- A message is accepted, and becomes the last accepted of its sender; or it is discarded and counted (R581; log entry
33, DEDUCED). `first` says whether a sender without an accepted message may begin with it: a peer with a HEARTBEAT alone, a witness or
a unit that asks one, neither of which sends a HEARTBEAT to the other, with any (log entry 150, DESIGN CHOICE). -/
def Hw.accept (h : Hw) (path : WPath) (typ : Nat) (first : Bool) (m : WatchMsg) : Hw × Bool :=
  let u := m.unit.toNat
  let seen := Tab.get? h.wch.seen u
  let new : WSeen := ⟨m.pcyc.toNat, msgHi m typ seen, m.seq.toNat⟩
  let fresh := match seen with
    | some s => new.above s
    | none => first
  if h.msgVerifies path typ m && fresh && decide (m.payload.length ≤ 1024) then
    (h.setWch fun w => { w with seen := Tab.put w.seen u new }, true)
  else ((h.watchCount WCH_AUTHFCNT_COUNT WCH_AUTHFCNT_SAT).raise 198, false)

/-- The datagram of a message by UDP leaves RXQ (log entry 34, DEDUCED). -/
def Hw.takeRx (h : Hw) (path : WPath) : Hw :=
  match path with
  | .a => h
  | .b => (h.qTake (h.fld WCH_PORTQ_RXQ) .none).1

def pathFld : WPath → Fld
  | .a => WCH_STAT_PATHA
  | .b => WCH_STAT_PATHB

/-- The message names the other unit of the pair. -/
def Hw.isPeer (h : Hw) (m : WatchMsg) : Bool :=
  let u := h.fld WCH_UNITID_UNIT
  bits m.unit.toNat 0 15 == bits u 0 15 && m.unit.toNat != u

/-- What every accepted message from the peer brings (R586, R589, R596): its path carries messages, its health word is the
peer's last one, queries on silence stop, and the EPOCH it knows. -/
def Hw.fromPeer (h : Hw) (path : WPath) (m : WatchMsg) : Hw :=
  let h := h.setWch fun w => match path with
    | .a => { w with heardA := h.tfree }
    | .b => { w with heardB := h.tfree }
  let h := if h.flag (pathFld path) then h else (h.setFlag (pathFld path) true).raise 193
  let was := h.fldBit WCH_PHEALTH 0
  let h := h.setFld WCH_PHEALTH m.health.toNat
  let h := if h.fldBit WCH_PHEALTH 0 = was then h else h.raise 197
  let h := if h.wch.query = .silence then h.setWch fun w => { w with query := .none } else h
  let up := decide (h.fld WCH_EPOCH < m.epoch.toNat)
  if h.watchState = wIsolated then
    if up then (h.setFld WCH_EPOCH m.epoch.toNat).watchTo wFenced else h
  else if up && h.watchState != wActive then h.setFld WCH_EPOCH m.epoch.toNat else h

/-- Receives a message from the peer and, where it is accepted, acts on it. -/
def State.onPeer (s : State) (path : WPath) (typ : Nat) (m : WatchMsg) (f : State → State) : State :=
  if s.hw.isDuplex && s.hw.isPeer m then
    let (h, ok) := (s.hw.takeRx path).accept path typ (typ == mHeartbeat) m
    if ok then f { s with hw := h.fromPeer path m } else { s with hw := h }
  else s

/-- Receives a message to or from a witness and, where it is accepted, acts on it. -/
def State.onWitnessMsg (s : State) (role : Bool) (typ : Nat) (m : WatchMsg) (f : State → State) : State :=
  if role then
    let (h, ok) := (s.hw.takeRx .b).accept .b typ true m
    if ok then f { s with hw := h } else { s with hw := h }
  else s

/-! ## Heartbeats and paths (R589, R590) -/

/-- Every 5 ms of TFREE. -/
def heartbeatPeriod (h : Hw) : Hw :=
  if h.isDuplex && !h.wch.stop && h.waited h.wch.hbAt 5 then
    ((h.setWch fun w => { w with hbAt := h.tfree }).sendA mHeartbeat 0 []).sendB mHeartbeat 0 [] else h

/-- No message from the peer was accepted on a path for 15 ms. -/
def Hw.pathSilent (h : Hw) : WPath → Bool
  | .a => h.waited h.wch.heardA 15
  | .b => h.waited h.wch.heardB 15

def otherPath : WPath → WPath
  | .a => .b
  | .b => .a

/-- One path is silent while the other carries messages (R589). -/
def pathSilence (path : WPath) (h : Hw) : Hw :=
  if h.isDuplex && h.flag (pathFld path) && h.pathSilent path && !h.pathSilent (otherPath path) then
    let h := (h.setFlag (pathFld path) false).watchCount WCH_PATHFCNT_COUNT WCH_PATHFCNT_SAT
    (h.raise 193).watchRecordFree 0x092
  else h

/-! ## The witness (R582, R583) -/

/-- A lease is unexpired at the witness. -/
def Hw.witHeld (h : Hw) : Bool := h.flag WCH_HOLDER_HELD && !atOrAfter h.tfree h.wch.expiry

/-- 102 ms in ns. -/
def witnessLease : Nat := 102000000

/-- A grant to a unit: a change of holder counts the epoch; expiry counts from the receipt of the request. -/
def Hw.witGrant (h : Hw) (unit ip at_ : Nat) : Hw :=
  let h := if h.wch.holder = some unit then h else h.countW WCH_WEPOCH 1
  let h := (h.setFld WCH_HOLDER unit).setFlag WCH_HOLDER_HELD true
  let h := h.setWch fun w => { w with holder := some unit, expiry := (at_ + witnessLease) % 2 ^ 64 }
  h.sendUdp ip mLeaseGrant 102000 (h.fld WCH_WEPOCH) []

/-- LEASE_REQ at the witness, or a query answered as one. -/
def Hw.witRequest (h : Hw) (unit ip epoch at_ : Nat) : Hw :=
  if !h.witHeld then h.witGrant unit ip at_
  else if h.wch.holder = some unit ∧ epoch = h.fld WCH_WEPOCH then h.witGrant unit ip at_
  else h.sendUdp ip mLeaseDeny (h.fld WCH_HOLDER) (h.fld WCH_WEPOCH) []

/-- A held query is answered. -/
def Hw.answerHeld (h : Hw) : Hw :=
  match h.wch.held with
  | none => h
  | some q => (h.setWch fun w => { w with held := none }).witRequest q.unit q.ip q.epoch q.at_

/-- Before it grants, a witness takes the highest EPOCH it receives and answers nothing (R583; log entry 35, DEDUCED). -/
def Hw.witEpoch (h : Hw) (m : WatchMsg) : Hw :=
  if h.wch.grants then h else h.setFld WCH_WEPOCH (max (h.fld WCH_WEPOCH) m.epoch.toNat)

def State.leaseReq (m : WatchMsg) (s : State) : State :=
  s.onWitnessMsg s.hw.isWitness mLeaseReq m fun s => s.onHw fun h =>
    let h := h.witEpoch m
    if h.wch.grants then h.witRequest m.unit.toNat m.ip.toNat m.epoch.toNat h.tfree else h

/-- Remaining time in us, up to 17 bits. -/
def Hw.witRemain (h : Hw) : Nat :=
  if h.witHeld then min (2 ^ 17 - 1) ((h.wch.expiry + 2 ^ 64 - h.tfree) % 2 ^ 64 / 1000) else 0

def State.confirmQ (m : WatchMsg) (s : State) : State :=
  s.onWitnessMsg s.hw.isWitness mConfirmQ m fun s => s.onHw fun h =>
    let h := h.witEpoch m
    if !h.wch.grants then h
    else if h.witHeld then
      (h.setWch fun w => { w with held := some ⟨m.unit.toNat, m.ip.toNat, m.epoch.toNat, h.tfree⟩ }).sendUdp m.ip.toNat mWait
        h.witRemain (h.fld WCH_WEPOCH) []
    else h.witRequest m.unit.toNat m.ip.toNat m.epoch.toNat h.tfree

/-- The holder's lease ends at the witness. -/
def Hw.witExpire (h : Hw) : Hw := (h.setFlag WCH_HOLDER_HELD false).answerHeld

def witnessExpiry (h : Hw) : Hw := if h.isWitness && h.flag WCH_HOLDER_HELD && !h.witHeld then h.witExpire else h

/-- 102 ms after its start the witness grants (R583). -/
def witnessStart (h : Hw) : Hw := if h.isWitness && h.waited h.wch.since 102 then h.setWch fun w => { w with grants := true } else h

/-! ## Requests of a unit (R584, R585) -/

def leaseReqPeriod (h : Hw) : Hw :=
  let st := h.watchState
  if h.isDuplex && !h.wch.stop && (st == wJoining || st == wIsolated || st == wActive) && h.waited h.wch.reqAt 25 then
    h.sendRequest mLeaseReq else h

def requestUnanswered (h : Hw) : Hw :=
  let st := h.watchState
  if h.isDuplex && h.wch.reqOpen && (st == wJoining || st == wIsolated || st == wActive) && h.waited h.wch.reqAt 5 then
    h.setWch fun w => { w with wit := !w.wit, reqOpen := false }
  else h

def witnessUnreachable (h : Hw) : Hw :=
  let st := h.watchState
  if h.isDuplex && (st == wJoining || st == wIsolated) && !h.wch.unreach && h.waited h.wch.since 1000 then
    ((h.setWch fun w => { w with unreach := true }).raise 199).watchRecord 0x096 st
  else h

/-- The end of the lease that a grant gives: 100 ms from the send time of the request (R584). -/
def Hw.leaseFrom (h : Hw) : Hw := h.setWch fun w => { w with lease := (w.reqAt + 100000000) % 2 ^ 64, reqOpen := false }

/-- Remaining lease in us. -/
def Hw.leaseLeft (h : Hw) : Nat :=
  if h.watchState == wActive && !atOrAfter h.tfree h.wch.lease then
    min (2 ^ 17 - 1) ((h.wch.lease + 2 ^ 64 - h.tfree) % 2 ^ 64 / 1000) else 0

/-- The active unit's lease ends on its own clock (R586). -/
def leaseEnd (h : Hw) : Hw :=
  if h.isDuplex && h.watchState == wActive && atOrAfter h.tfree h.wch.lease then (h.watchTo wIsolated).watchRecordFree 0x093 else h

/-- WAIT answers a query; nothing more follows from it (R582). -/
def State.watchWait (m : WatchMsg) (s : State) : State :=
  s.onWitnessMsg s.hw.isDuplex mWait m fun s => s.onHw fun h => h.setWch fun w => { w with reqOpen := false }

def State.leaseDeny (m : WatchMsg) (s : State) : State :=
  s.onWitnessMsg s.hw.isDuplex mLeaseDeny m fun s => s.onHw fun h =>
    let st := h.watchState
    let h := h.setWch fun w => { w with reqOpen := false }
    let know := fun (h : Hw) => h.setFld WCH_EPOCH m.epoch.toNat
    if st = wJoining then (know h).watchTo wStandby
    else if st = wIsolated then (know h).watchTo wFenced
    else if st = wStandby then (know h).setWch fun w => { w with query := .none }
    else h

/-! ## Queries of a standby (R586) -/

def Hw.startQuery (h : Hw) (q : WQuery) : Hw := (h.setWch fun w => { w with query := q }).sendRequest mConfirmQ

/-- Silence on both paths (R586). -/
def silence (h : Hw) : Hw :=
  if h.isDuplex && h.watchState == wStandby && !h.wch.stop && (h.wch.ck.isSome || h.flag WCH_CTRL_COLDTAKE)
      && h.pathSilent .a && h.pathSilent .b && h.wch.query == .none then h.startQuery .silence
  else h

def confirmQRepeat (h : Hw) : Hw :=
  if h.isDuplex && h.watchState == wStandby && !h.wch.stop && h.wch.query != .none && h.waited h.wch.reqAt 10 then h.sendRequest mConfirmQ else h

/-- RELEASE at the witness ends the holder's lease; at a standby with a complete checkpoint it starts queries (R582, R586). -/
def State.release (path : WPath) (m : WatchMsg) (s : State) : State :=
  if s.hw.isWitness then
    s.onWitnessMsg true mRelease m fun s => s.onHw fun h =>
      let h := h.witEpoch m
      if h.wch.holder = some m.unit.toNat then h.witExpire else h
  else
    s.onPeer path mRelease m fun s => s.onHw fun h =>
      if h.watchState == wStandby && !h.wch.stop && h.wch.ck.isSome then h.startQuery .release else h

/-! ## Checkpoints (R591, R592) -/

def ckMax : Nat := 2 * 2 ^ 20

def checkpointWanted (h : Hw) : Hw :=
  if h.wch.out.isSome then (h.watchCount WCH_CKSKIPCNT_COUNT WCH_CKSKIPCNT_SAT).raise 196
  else h.setWch fun w => { w with ckDue := true }

/-- PERIOD ms of TFREE have passed since a checkpoint fell due, or since the unit became ACTIVE. -/
def checkpointDue (h : Hw) : Hw :=
  if h.isDuplex && h.watchState == wActive && h.waited h.wch.ckAt (h.fld WCH_CKCFG_PERIOD) then
    checkpointWanted (h.setWch fun w => { w with ckAt := h.tfree }) else h

/-- A command of the Watch in the state it needs; else refused (R598). -/
def Hw.watchCmd (h : Hw) (st : Nat) (f : Hw → Hw) : Hw := if h.isDuplex && h.watchState == st then f h else h.watchRefuse

def cknow (h : Hw) : Hw := h.watchCmd wActive checkpointWanted

/-- The memory and flash islands give the retentive state of a checkpoint; while one is missing none is sent (R44; log entry 177, DESIGN
CHOICE). -/
def Hw.ckSources (h : Hw) : Bool := !h.bus.isolated.contains 18 && !h.bus.isolated.contains 19

/-- A capture in the output gap: registers, WARMOMIT and HOSTTRUNC, the gap's bytes into the capture buffer (R591). -/
def State.capture (s : State) : State :=
  let h := s.hw
  let seq := (h.fld WCH_CKSEQ + 1) % 2 ^ 32
  let outs := h.outPoints.map fun p => (p, (h.outPoint p).val)
  let d0 : CkData := ⟨seq, h.fld FRM_FNUM, h.forcesActive, 0, 0, h.captureRetain, outs, h.captureLoops, h.lastMail⟩
  let gap := CkData.gapBytes h d0
  let want := if h.flag DPE_CTRL_CKWARM then h.warmSize else 0
  let leftOut := decide (ckMax < gap + want)
  let warm := if leftOut then 0 else want
  let hlen := h.fld WCH_HOSTLEN
  let host := min hlen (ckMax - gap - warm)
  let d : CkData := { d0 with warm := warm, host := host }
  let h := ((h.setFld WCH_CKSEQ seq).setFld WCH_CKLEN (gap + warm + host)).setFld WCH_CKFNUM (h.fld FRM_FNUM)
  let h := (h.setFlag WCH_STAT_WARMOMIT leftOut).setFlag WCH_STAT_HOSTTRUNC (h.flag WCH_STAT_HOSTTRUNC || decide (host < hlen))
  let h := h.setWch fun w => { w with
    ckDue := false, out := some ⟨seq, gap, warm, h.fld WCH_HOSTADDR, host, 0, 0xFFFFFFFF⟩
    sw := if w.sw = .capture then .sending else w.sw }
  ({ s with hw := h } : State).putAs 22 (h.fld WCH_CKBUF) ((List.range gap).map fun i => Config.ckByte d i)

/-- Captures at a publish: when one is due and no transfer is under way, or a SWITCH waits for one; a retirement handover in
the frame moves it to the next (R591, R594). -/
def State.captureGap (handover : Bool) (s : State) : State :=
  let w := s.hw.wch
  if s.hw.isDuplex && s.hw.watchState == wActive && !handover && w.out.isNone && (w.ckDue || w.sw == .capture)
      && s.hw.ckSources then s.capture else s

/-- Bytes read as M22 with D0; a refused read is a violation and gives free bytes. -/
def Hw.watchBytes (h : Hw) (mem : List Host.Cell) (addr n : Nat) : Hw × List Byte :=
  if n = 0 then (h, [])
  else match h.readAs mem 22 0 addr n with
    | .ok b => (h.wake addr n, b)
    | .error _ => ((h.noteRefused 22 0 addr n .read).useFree, toBytes n (h.freeVal (8 * n)))

/-- The bytes of a checkpoint from an offset on, at most `n`: the gap's from the capture buffer, WARM and Host as they stand
now. -/
def Hw.ckRead (h : Hw) (mem : List Host.Cell) (o : WOut) (off n : Nat) : Hw × List Byte :=
  let g := min n (o.gap - off)
  let (h, a) := h.watchBytes mem (h.fld WCH_CKBUF + off) g
  let wOff := off + g - o.gap
  let wn := min (n - g) (o.warm - wOff)
  let b := if wn = 0 then [] else (h.warmBytes.drop wOff).take wn
  let hOff := off + g + wn - o.gap - o.warm
  let hn := min (n - g - wn) (o.host - hOff)
  let (h, c) := h.watchBytes mem (o.haddr + hOff) hn
  (h, a ++ b ++ c)

/-- The next segment leaves (R592): 1,024 bytes, the CRC-32 of the checkpoint behind its last byte. -/
def State.ckSegSend (s : State) : State :=
  match (if s.hw.ckSources then s.hw.wch.out else none) with
  | none => s
  | some o =>
    let total := o.gap + o.warm + o.host
    let (h, data) := s.hw.ckRead s.mem o o.off (min 1024 (total - o.off))
    let crc := data.foldl crcByte o.crc
    let tail := ((toBytes 4 (crc ^^^ 0xFFFFFFFF)).drop (o.off - total)).take (1024 - data.length)
    let pay := data ++ (if total ≤ o.off + 1024 then tail else [])
    let h := if h.flag WCH_STAT_PATHA then h.sendA mCkSeg o.off pay else h.sendB mCkSeg o.off pay
    let last := decide (total + 4 ≤ o.off + 1024)
    { s with hw := h.setWch fun w => { w with
        segAt := h.tfree
        out := if last then none else some { o with off := o.off + 1024, crc := crc }
        sw := if last && w.sw == .sending then .waiting else w.sw } }

/-- A transfer fails: it is discarded, counted, and E196. -/
def Hw.ckFail (h : Hw) : Hw :=
  ((h.setWch fun w => { w with inn := none }).watchCount WCH_CKFAILCNT_COUNT WCH_CKFAILCNT_SAT).raise 196

/-- The receive buffer that does not hold the complete checkpoint. -/
def Hw.rxBuf (h : Hw) : Nat :=
  match h.wch.ck with
  | some c => if c.buf = 0 then 1 else 0
  | none => 0
def Hw.rxAddr (h : Hw) (b : Nat) : Nat := if b = 0 then h.fld WCH_RXBUF0 else h.fld WCH_RXBUF1

/-- Every segment has arrived: the checkpoint is complete, or its CRC fails. -/
def Hw.ckEnd (h : Hw) (mem : List Host.Cell) (i : WIn) : Hw :=
  if i.tail = toBytes 4 (i.crc ^^^ 0xFFFFFFFF) then
    let (h, b) := h.watchBytes mem (h.rxAddr i.buf) i.len
    let fnum := match Config.ckParse b with
      | some d => d.fnum
      | none => h.freeVal 64
    h.withHealth fun h =>
      let h := h.setWch fun w => { w with inn := none, ck := some ⟨i.buf, i.seq, i.len, h.tfree⟩ }
      let h := ((h.setFld WCH_CKSEQ i.seq).setFld WCH_CKLEN i.len).setFld WCH_CKFNUM fnum
      (if h.flag WCH_STAT_PATHA then h.sendA mCkAck 0 [] else h.sendB mCkAck 0 []).raise 195
  else h.ckFail

/-- A segment in its place: written to the buffer, which it may complete. -/
def State.ckTake (i : WIn) (m : WatchMsg) (s : State) : State :=
  let data := m.payload.take (i.len - i.next)
  let i := { i with
    next := i.next + m.payload.length, crc := data.foldl crcByte i.crc, tail := i.tail ++ m.payload.drop data.length }
  let addr := s.hw.rxAddr i.buf + m.value.toNat
  match s.hw.writeAs 22 0 addr data.length with
  | some _ => s.onHw fun h => (if data.isEmpty then h else h.noteRefused 22 0 addr data.length .write).ckFail
  | none =>
    let s := s.blockWrite addr data
    if i.len + 4 ≤ i.next then s.onHw fun h => h.ckEnd s.mem i
    else s.onHw fun h => h.setWch fun w => { w with inn := some i }

/-- A checkpoint segment at the standby (R592). The segment at offset 0 starts a transfer; the length comes from its header
(log entry 36, DEDUCED). -/
def State.ckSegment (m : WatchMsg) (s : State) : State :=
  if s.hw.watchState ≠ wStandby then s
  else if m.value = 0#32 then
    let s := if s.hw.wch.inn.isSome then s.onHw Hw.ckFail else s
    let len := Config.ckTotal (m.payload.take 256)
    if ckMax < len then s.onHw Hw.ckFail else s.ckTake ⟨m.ckseq.toNat, s.hw.rxBuf, 0, len, 0xFFFFFFFF, []⟩ m
  else
    match s.hw.wch.inn with
    | none => s
    | some i => if m.value.toNat = i.next ∧ m.ckseq.toNat = i.seq then s.ckTake i m else s.onHw Hw.ckFail

/-- The active unit hears that its checkpoint is complete at the standby (R594). -/
def Hw.ckAcked (h : Hw) (m : WatchMsg) : Hw :=
  if (h.wch.sw = .waiting ∨ h.wch.sw = .sending) ∧ m.ckseq.toNat = h.fld WCH_CKSEQ then h.setWch fun w => { w with sw := .acked }
  else h

/-! ## Takeover (R593) -/

/-- A gratuitous ARP for a port's address, at the head of its class-7 queue (R593; log entry 37, PRESUMED). -/
def Hw.sendArp (h : Hw) (port : Nat) : Hw :=
  let mac := beBytes 6 (h.fld (PKT_P_MAC port))
  let ip := beBytes 4 (h.fld (PKT_P_IP port))
  let f := beBytes 6 0xFFFFFFFFFFFF ++ mac ++ beBytes 2 0x0806 ++ beBytes 2 1 ++ beBytes 2 0x0800 ++ beBytes 1 6 ++ beBytes 1 4
    ++ beBytes 2 1 ++ mac ++ ip ++ beBytes 6 0 ++ ip
  let q := h.fld (PKT_P_TXQ port 7)
  let n := (h.morQ q).pkts.length
  let h := h.queueFrame port q f
  let x := h.morQ q
  if n < x.pkts.length then
    let begun := x.pkts.take n |>.takeWhile fun p => p.read != 0
    h.setMorQ q { x with pkts := begun ++ x.pkts.drop n ++ (x.pkts.take n).drop begun.length }
  else h

/-- What a takeover restores: the complete checkpoint, or a cold restart, whose record of R186 counts no entry since no checkpoint records
any (R593; log entry 178, DEDUCED). -/
def Hw.takeRestore (h : Hw) (mem : List Host.Cell) : Hw :=
  let cold := fun (h : Hw) => ((h.setWch fun w => { w with took := some none }).restartTakeoverCold).watchRecordFree 0x094
  match h.wch.ck with
  | none => cold h
  | some c =>
    let (h, b) := h.watchBytes mem (h.rxAddr c.buf) c.len
    match Config.ckParse b with
    | none => cold h
    | some d =>
      let warm := (b.drop (c.len - d.warm - d.host)).take d.warm
      (h.setWch fun w => { w with took := some (some c.seq) }).restartTakeover d warm

/-- The standby becomes ACTIVE (R593). The application runs from the next F+0; a publish that still comes before it publishes what was
restored. -/
def Hw.takeover (h : Hw) (mem : List Host.Cell) : Hw :=
  let h := h.setWch fun w => { w with inn := none }
  let h := ((List.range 6).filter fun p => h.fldBit WCH_GARP p).foldl (fun (h : Hw) p => h.sendArp p) h
  let h := h.takeRestore mem
  let h : Hw := { h with
    sys := { h.sys with restored := true }
    img := { h.img with merged := if h.phase = .closed then h.img.out else [] } }
  (h.setWch fun w => { w with fresh := true }).watchTo wActive

/-- The first publish after a takeover (R593). The rules do not say from which frame number the age counts: a free value (log
entry 38, DESIGN CHOICE). -/
def Hw.tookOver (h : Hw) : Hw :=
  match h.wch.took with
  | none => h
  | some c =>
    let h := ((h.setWch fun w => { w with took := none }).countW WCH_TAKECNT_COUNT 1).raise 194
    match c with
    | some seq => h.useFree.watchRecord 0x091 (seq + h.freeVal 32 * 2 ^ 32)
    | none => h.watchRecordFree 0x091

def State.leaseGrant (m : WatchMsg) (s : State) : State :=
  s.onWitnessMsg s.hw.isDuplex mLeaseGrant m fun s => s.onHw fun h =>
    let st := h.watchState
    let same := m.epoch.toNat = h.fld WCH_EPOCH
    if st = wJoining then ((h.setFld WCH_EPOCH m.epoch.toNat).leaseFrom).watchTo wActive
    else if st = wActive then
      if atOrAfter h.tfree h.wch.lease then h else (h.setFld WCH_EPOCH m.epoch.toNat).leaseFrom
    else if st = wIsolated then
      if same then h.leaseFrom.watchTo wActive
      else if h.fld WCH_EPOCH < m.epoch.toNat then ((h.setFld WCH_EPOCH m.epoch.toNat).setWch fun w => { w with reqOpen := false }).watchTo wFenced
      else h
    else if st = wStandby ∧ h.wch.query ≠ .none then
      ((h.setFld WCH_EPOCH m.epoch.toNat).leaseFrom).takeover s.mem
    else h

/-! ## SWITCH and JOIN (R594, R595) -/

def watchSwitch (h : Hw) : Hw :=
  h.watchCmd wActive fun h =>
    if h.fldBit WCH_PHEALTH 0 && h.wch.sw == .none then h.setWch fun w => { w with sw := .capture } else h.watchRefuse

def switchAckTimeout (h : Hw) : Hw :=
  if h.wch.sw = .waiting ∧ h.waited h.wch.segAt 100 = true then (h.setWch fun w => { w with sw := .none }).watchRefuse else h

/-- RELEASE to both witness addresses. -/
def Hw.sendRelease (h : Hw) : Hw :=
  (h.sendUdp (h.fld WCH_WITIP0) mRelease 0 (h.fld WCH_EPOCH) []).sendUdp (h.fld WCH_WITIP1) mRelease 0 (h.fld WCH_EPOCH) []

/-- F+880 us after the acknowledgement: outputs stop, RELEASE goes to the witness and the peer, the unit is STANDBY
(R594). -/
def Hw.switchOver (h : Hw) : Hw :=
  if h.wch.sw = .acked then
    let h := (h.sendRelease.sendA mRelease 0 []).sendB mRelease 0 []
    (h.watchTo wStandby).watchRecordFree 0x095
  else h

/-- JOIN clears the memories of the application: what the Lanterns and loops hold, points, dispatch scratch and mailbox (log entry
39, DEDUCED). -/
def Hw.clearApp (h : Hw) : Hw :=
  let h := h.restartPoints []
  let h := h.progs.foldl (fun (h : Hw) e =>
    let x := (h.lan e.2.lnt).clearProg e.2.prog
    h.setLan e.2.lnt { x with outVal := [], outNow := [], ilk := [], lsp := [], tasOut := [], tasIlk := [] }) h
  let h := (List.range 2).foldl (fun (h : Hw) m =>
    h.setEng m ((h.eng m).enabled.foldl (fun (e : LoopEngine) s => e.enter s) (h.eng m))) h
  let h := h.dropGens.setFlag DPE_STAT_WARMOK false
  h.setDpe fun d => { d with staged := none, landed := none, restore := none }

def watchJoin (h : Hw) : Hw := h.watchCmd wFenced fun h => h.clearApp.watchTo wStandby

/-! ## Self-test (R596) -/

/-- A cycle of the standby's self-test: the tests passed and the failures; the Keeper hears of the island and quarantines the
cell a failure names (R618). -/
def selfTestCycle (pass : Nat) (fails : List TestFail) (h : Hw) : Hw :=
  if h.isDuplex && h.watchState == wStandby then
    h.withHealth fun h =>
      let v := h.fld WCH_HEALTH
      let isl := match fails.getLast? with
        | some f => f.island.val
        | none => bits v 16 8
      let h := h.setFld WCH_HEALTH (bits v 0 2 + pass * 4 + bits v 7 9 * 2 ^ 7 + isl * 2 ^ 16 + (bits v 24 8 + 1) % 256 * 2 ^ 24)
      fails.foldl (fun (h : Hw) f =>
        let h := h.hwFault f.island.val
        match f.cell with
        | some c => h.keeperQuarantine c.toNat
        | none => h) h
  else h

/-! ## The control register (R579, R586, R598) -/

/-- A write of WCH.CTRL: ROLE 3 reads as 0; starting or stopping the Watch, or another role, starts it anew. -/
def watchCtrl (v : Nat) (h : Hw) : Hw :=
  let wasOn := h.flag WCH_CTRL_EN
  let wasRole := h.fld WCH_CTRL_ROLE
  let h := (h.setFld WCH_CTRL_EN (bits v 0 1)).setFld WCH_CTRL_ROLE (if bits v 1 2 = 3 then 0 else bits v 1 2)
  let h := h.setFld WCH_CTRL_COLDTAKE (bits v 3 1)
  if wasOn = h.flag WCH_CTRL_EN ∧ (wasOn = false ∨ wasRole = h.fld WCH_CTRL_ROLE) then h
  else
    let old := h.watchState
    let h := h.setWch fun w => { Wch.reset with
      seq := w.seq, seqhi := w.seqhi, seen := w.seen, link := w.link
      heardA := h.tfree, heardB := h.tfree, hbAt := h.tfree, since := h.tfree }
    let h := (h.setFlag WCH_STAT_PATHA false).setFlag WCH_STAT_PATHB false
    let h := if h.isDuplex then h.watchTo wJoining
      else if h.isWitness then (if old = wOff then h else h.watchTo wOff).setFld WCH_STAT_STATE wWitness
      else if old = wWitness then h.setFld WCH_STAT_STATE wOff else h.watchTo wOff
    if h.isDuplex then (h.setFld WCH_HEALTH (bits (h.fld WCH_HEALTH) 0 16 + 0xFF * 2 ^ 16)).sendRequest mLeaseReq else h

/-! ## A power failure (R638) -/

/-- Heartbeats and lease requests stop; an ACTIVE unit sends RELEASE. -/
def Hw.watchPowerFail (h : Hw) : Hw :=
  let h := h.setWch fun w => { w with stop := true }
  if h.isDuplex && h.watchState == wActive then h.sendRelease else h

/-! ## Meanings -/

def watchAddr (off : Nat) : Nat := 0x302B0000 + off

def execHeartbeatPeriod (s : State) : Host.Outcome State Fault Refusal := .next (s.onHw heartbeatPeriod)
def execHeartbeat (path : WPath) (m : WatchMsg) (s : State) : Host.Outcome State Fault Refusal :=
  .next (s.onPeer path mHeartbeat m id)
def execCheckpointDue (s : State) : Host.Outcome State Fault Refusal := .next (s.onHw checkpointDue)
def execCknow (src : Src) (s : State) : Host.Outcome State Fault Refusal :=
  .next (s.onHw fun h => h.onlyD0 src (watchAddr 4) cknow)
def execCkSegSend (s : State) : Host.Outcome State Fault Refusal := .next s.ckSegSend
def execCkSeg (path : WPath) (m : WatchMsg) (s : State) : Host.Outcome State Fault Refusal :=
  .next (s.onPeer path mCkSeg m (State.ckSegment m))
def execCkAck (path : WPath) (m : WatchMsg) (s : State) : Host.Outcome State Fault Refusal :=
  .next (s.onPeer path mCkAck m fun s => s.onHw fun h => h.ckAcked m)
def execLeaseReqPeriod (s : State) : Host.Outcome State Fault Refusal := .next (s.onHw leaseReqPeriod)
def execRequestUnanswered (s : State) : Host.Outcome State Fault Refusal := .next (s.onHw requestUnanswered)
def execLeaseReq (m : WatchMsg) (s : State) : Host.Outcome State Fault Refusal := .next (s.leaseReq m)
def execConfirmQ (m : WatchMsg) (s : State) : Host.Outcome State Fault Refusal := .next (s.confirmQ m)
def execRelease (path : WPath) (m : WatchMsg) (s : State) : Host.Outcome State Fault Refusal := .next (s.release path m)
def execLeaseGrant (m : WatchMsg) (s : State) : Host.Outcome State Fault Refusal := .next (s.leaseGrant m)
def execLeaseDeny (m : WatchMsg) (s : State) : Host.Outcome State Fault Refusal := .next (s.leaseDeny m)
def execWait (m : WatchMsg) (s : State) : Host.Outcome State Fault Refusal := .next (s.watchWait m)
def execLeaseEnd (s : State) : Host.Outcome State Fault Refusal := .next (s.onHw leaseEnd)
def execWitnessExpiry (s : State) : Host.Outcome State Fault Refusal := .next (s.onHw witnessExpiry)
def execWitnessStart (s : State) : Host.Outcome State Fault Refusal := .next (s.onHw witnessStart)
def execSilence (s : State) : Host.Outcome State Fault Refusal := .next (s.onHw silence)
def execConfirmQRepeat (s : State) : Host.Outcome State Fault Refusal := .next (s.onHw confirmQRepeat)
def execPathSilence (path : WPath) (s : State) : Host.Outcome State Fault Refusal := .next (s.onHw (pathSilence path))
def execWitnessUnreachable (s : State) : Host.Outcome State Fault Refusal := .next (s.onHw witnessUnreachable)
def execSwitch (src : Src) (s : State) : Host.Outcome State Fault Refusal :=
  .next (s.onHw fun h => h.onlyD0 src (watchAddr 4) watchSwitch)
def execSwitchAckTimeout (s : State) : Host.Outcome State Fault Refusal := .next (s.onHw switchAckTimeout)
def execJoin (src : Src) (s : State) : Host.Outcome State Fault Refusal :=
  .next (s.onHw fun h => h.onlyD0 src (watchAddr 4) watchJoin)
def execSelfTestCycle (pass : BitVec 5) (fails : List TestFail) (s : State) : Host.Outcome State Fault Refusal :=
  .next (s.onHw (selfTestCycle pass.toNat fails))

end Sys2Proof.Machine
end

