-- ==== Sys2Proof/Machine/Frame.lean ====
section
/-! DEFINITION. The frame (02): pre-wake, the frame start with the work of F+0, idle frame starts, layout loads taking effect,
handovers of retirements, the publish, and the writes of FRM.CTRL (R46, R50-R56, R62-R77, R91-R100, R106, R632). -/

namespace Sys2Proof.Machine

open Config (RetEntry)

/-! ## Pre-wake (R46) -/

/-- Islands that pre-wake reaches: memory, L0-L7 and the loop engines, but retired ones. -/
def Hw.preWake (h : Hw) : Hw :=
  { h with awake := (18 :: (List.range 10).map (2 + ·)).filter fun i => !h.bus.retired.contains i }

/-! ## Layout (R58, R106) -/

/-- Direction of a point under a table of zone words, 0 for a point that is not used; and direction with type. -/
def pointDir (zones : Tab Nat) (p : Nat) : Nat :=
  let d := bits (Tab.getD zones (zoneOf p) 0) 0 2
  if d = 1 ∨ d = 2 then d else 0
def pointKind (zones types : Tab Nat) (p : Nat) : Nat :=
  if pointDir zones p = 0 then 0 else pointDir zones p * 8 + Tab.getD types p 0

/-- What an applied layout load did to points: removed, turned or gave another type; removed or turned. -/
structure LayoutChange where
  kind : Nat → Bool
  dir : Nat → Bool

/-- Points that admitted programs, enabled slots and the dispatch gather list reference (R106). -/
def Hw.pointsUsed (h : Hw) : List Nat :=
  (h.progs.map fun e => e.2.prog.owned ++ e.2.prog.ilk
      ++ (e.2.prog.ranges.map fun r => (List.range r.2).map fun i => r.1 + i).flatten).flatten
    ++ ((List.range 2).map fun m =>
      let e := h.eng m
      (e.enabled.map fun s => [e.get s dOutpt, e.get s dPvpt] ++ (if e.flag s dSpsrc then [e.get s dSppt] else [])
        ++ (if e.flag s dFfen then [e.get s dFfpt] else []) ++ (if e.flag s dTrken then [e.get s dTrkpt] else [])).flatten).flatten
    ++ (match h.secOf 6 with
      | some s =>
        let word := fun (i : Nat) => (h.scratchWord (s.off + 4 * i)).toNat
        (List.range (bits (word 0) 0 14)).map fun i => bits (word (4 + i)) 0 17
      | none => [])

/-- Points of the used zones of a table of zone words. -/
def usedPoints (zones : Tab Nat) : List Nat :=
  ((zones.filter fun z => bits z.2 0 2 == 1 || bits z.2 0 2 == 2).map fun z => (List.range 128).map fun i => 128 * z.1 + i).flatten

/-- A layout takes effect: points that keep direction and type keep value, status and age; the others enter. -/
def Hw.layoutSet (h : Hw) (zones types inits : Tab Nat) : Hw :=
  let same := fun (p : Nat) => pointKind h.img.zones h.img.types p == pointKind zones types p
  let ps := usedPoints zones
  let fresh := fun (p : Nat) => Point.initial (({ h with img := { h.img with types := types, inits := inits } } : Hw).initVal p)
  let inp := ps.map fun p => (p, if same p then h.inPoint p else fresh p)
  let out := (ps.filter fun p => bits (Tab.getD zones (zoneOf p) 0) 0 2 == 2).map fun p => (p, if same p then h.outPoint p else fresh p)
  let new := ps.filter fun p => !same p
  let land := Tab.keep h.img.land fun p _ => same p
  { h with img := { h.img with
      zones := zones, types := types, inits := inits, inp := inp, out := out, land := land, load := none
      entered := (h.img.entered.filter same) ++ new } }

/-- A load ends at a frame start: applied or refused, with LRESULT, LBUSY and E27 (R106). Answers with what an applied load changed. -/
def Hw.layoutApply (h : Hw) : Hw × Option LayoutChange :=
  let done := fun (h : Hw) (r : Nat) =>
    (({ h with img := { h.img with load := none } } : Hw).setFld IMG_STAT_LRESULT r |>.setFlag IMG_STAT_LBUSY false).raise 27
  match h.img.load with
  | none | some (.reading _) => (h, none)
  | some .invalid => (done h 3, none)
  | some .readFailed => (done h 4, none)
  | some (.read zones types inits) =>
    let oldZ := h.img.zones
    let oldT := h.img.types
    let changed := fun (p : Nat) => pointKind oldZ oldT p != 0 && pointKind oldZ oldT p != pointKind zones types p
    if h.pointsUsed.any changed then (done h 2, none)
    else ((done ((h.layoutSet zones types inits).dropPlan fun _ => true) 1).showNm1, some ⟨changed, fun p =>
      pointDir oldZ p != 0 && pointDir oldZ p != pointDir zones p⟩)

/-! ## Retirements at a frame start (R97, R100) -/

/-- The first tasks of a program that still have to run go with it. -/
def moveFirst (src dst : Lantern) (n : Nat) : Lantern × Lantern :=
  let mine := src.first.filter fun k => k / 16 == n
  ({ src with first := src.first.filter fun k => k / 16 != n }, { dst with first := dst.first ++ mine })

/-- A moved program runs on its new Lantern. -/
def Hw.moveProgram (h : Hw) (n : Nat) (tgt : Placed) : Hw :=
  match Tab.get? h.progs n with
  | none => h
  | some q =>
    let unproven := h.flag (FRM_PLACE_UNPROVEN n)
    let (x, y) := moveFirst (h.lan q.lnt) (h.lan tgt.lnt) n
    let h := (h.setLan q.lnt x).setLan tgt.lnt { y with cst := Tab.putAll y.cst (tgt.prog.space 5).base tgt.prog.consts }
    let h := h.setLan tgt.lnt (h.adoptOut (h.lan tgt.lnt) tgt.prog.owned)
    ({ h with progs := Tab.put h.progs n tgt } : Hw).showPlace n tgt unproven

/-- A retiring loop engine ends (R100, R225, R230, R239): a change staged for a moved slot takes effect where the slot is now, LSP writes
to slots that it no longer has are dropped, its injections end, captures of moved slots stop, and nothing of its last frame stays. -/
def Hw.leaveEngine (h : Hw) (r : Retirement) : Hw :=
  let m := r.unit
  let e := h.eng m
  let h := match e.staged with
    | none => h
    | some c =>
      let h := h.setFlag (LPE_STAT_STGBUSY m) false
      match r.slots.find? fun (p : Nat × Nat) => p.1 == c.slot with
      | some p =>
        let d := h.eng (1 - m)
        h.setEng (1 - m) (d.takeStaged { c with slot := p.2 } (d.lspMan p.2 || bitOf c.mask 0))
      | none => h
  let h := (h.endGens m fun _ => true).endCaps m fun _ => true
  let h := r.slots.foldl (fun (h : Hw) p => h.showSlot (1 - m) p.2) h
  let h := e.lsp.foldl (fun (h : Hw) _ => h.lspDrop m) h
  h.setEng m { h.eng m with left := [], outs := [], cycles := 0, staged := none, lsp := [], wspNext := [], injStop := false }

/-- The frame after the handover frame starts: placement changes, the engine is RETIRED, E22 (R97, R100). -/
def Hw.retireSwap (h : Hw) (r : Retirement) : Hw :=
  let dests := (List.range 8).filter fun l => r.moves.any fun m => m.2.lnt == l
  let left := dests.map fun l => (l, h.bankWords l)
  let h := r.moves.foldl (fun (h : Hw) m => h.moveProgram m.1 m.2) h
  let h := left.foldl (fun (h : Hw) e => ((h.swapBank e.1 e.2).planTouched e.1).ledgerLnt e.1) h
  let isl := if r.loop then 10 + r.unit else 2 + r.unit
  let h := if r.loop then (((h.leaveEngine r).ledgerLpe r.unit).ledgerLpe (1 - r.unit)).setLpeState r.unit esRetired
    else ((h.planTouched r.unit).ledgerLnt r.unit).setLntState r.unit esRetired
  let h := ({ h with adm := { h.adm with retire := none } } : Hw).isolate isl
  let h := if r.byHost then h else (h.setFlag FRM_KRQ_REQ false).setFlag FRM_KRQ_DONE true
  (((h.showUnproven.showNm1).raise 22).retirementDone isl r.byHost).showBusy

/-- A retirement at a running frame start: the swap after its state copy, else its handover frame begins. -/
def Hw.retireFrame (h : Hw) : Hw :=
  match h.adm.retire with
  | none => h
  | some r =>
    match r.stage with
    | .copied => h.retireSwap r
    | .fixed => { h with adm := { h.adm with retire := some { r with stage := .handover } } }
    | _ => h

/-! ## Distribution and timers at F+0 (R69, R118, R128, R560) -/

/-- Items 0 and 1 of a loop slot as the LRD mirror holds them, moved slots redirected (R100, R115). -/
def Hw.lrdWords (h : Hw) (x : Nat) : Word × Word :=
  let tgt := Tab.getD h.redir x x
  let e := h.eng (tgt / 8192)
  (e.word (tgt % 8192) wStatus, e.word (tgt % 8192) wLastout)

/-- A Lantern takes its LRD mirror, the values that the commit of the frame before left (R223); its staging of the frame before is
gone. -/
def Hw.distribute (h old : Hw) (l : Nat) : Hw :=
  let slots := lrdSet (h.programs l)
  let lrd := slots.foldl (fun (t : Tab Word) x => Tab.put (Tab.put t x (old.lrdWords x).1) (x + 2 ^ 14) (old.lrdWords x).2) []
  h.setLan l { h.lan l with lrd := lrd, doing := .waiting, due := [], outNow := [], ilk := [], lsp := [], tasOut := [], tasIlk := [] }

/-- The timer unit adds 1 to ET of every running timer (R128, R132). -/
def Hw.timerUnit (h : Hw) (l : Nat) : Hw :=
  let hit := fun (t : Timer) => t.run && !t.sat && t.et + 1 == timerMax
  let lims := ((h.lan l).tmr.filter fun e => hit e.2).map (·.1)
  let step := fun (t : Timer) =>
    if t.run && decide (t.et < timerMax) then { t with et := t.et + 1, sat := t.sat || hit t } else t
  let h := h.setLan l { h.lan l with tmr := Tab.mapVal (h.lan l).tmr fun _ t => step t }
  lims.foldl (fun (h : Hw) i => h.limitEvent l 5 i) h

/-! ## Alignment (R50-R54) -/

/-- Phase error of F against network time, in ns: how far F lies behind the nearest whole millisecond. -/
def Hw.framePhase (h : Hw) : Int := ((h.nt + 500000) % 1000000 : Nat) - 500000

/-- Length of the frame that begins, in ns (R50, R53, R54): a frame that is not aligned is shortened when F lies behind network time and
lengthened when it lies before, by 0.5 us or what is left of the error (log entry 175, DEDUCED). -/
def frameLength (ph : Int) (adjust : Bool) : Nat :=
  let d := min 500 ph.natAbs
  if adjust then (if 0 < ph then 1000000 - d else 1000000 + d) else 1000000

/-- The pulse marks F: its phase error, ALIGNED with E19, the length of the frame, SLEWING. In FREE and LOCKING frames follow the
free-running counter and are not aligned (log entry 40, DEDUCED). -/
def Hw.realign (h : Hw) : Hw :=
  let ph := h.framePhase
  let timed := h.fld TIM_STAT_STATE == clkLocked || h.fld TIM_STAT_STATE == clkHoldover
  let ok := timed && decide (ph.natAbs ≤ 50)
  let was := h.flag FRM_STAT_ALIGNED
  let len := frameLength ph (timed && !ok && h.flag FRM_CTRL_ALIGN)
  let h := (h.setFld FRM_PHASE (ofSigned 32 ph)).setFlag FRM_STAT_ALIGNED ok
  let h := ({ h with frame := { h.frame with len := len } } : Hw).setFlag FRM_STAT_SLEWING (len != 1000000)
  if ok = was then h else h.raise 19

/-! ## The start of frames (R93, R632, R636, R637) -/

/-- Restart modes of SYS.BOOTSTAT.MODE. -/
def modeCold : Nat := 0
def modeWarm : Nat := 1
def modeTakeover : Nat := 2
def modeRecovery : Nat := 3

/-- The first frame of a session restores the application as the restart mode says (R173, R637). -/
def Hw.restartFirst (h : Hw) : Hw :=
  if h.sys.restored then h
  else
    let h := { h with sys := { h.sys with restored := true } }
    match h.fld SYS_BOOTSTAT_MODE, h.nvm.save with
    | 1, some v => h.restartWarm v
    | 1, none => h.restartWarm ⟨[], none, []⟩
    | 2, _ => h
    | _, _ => h.restartCold

/-- What every frame start does, idle or not: admitted changes and layout loads take effect (R91, R93, R106). -/
def Hw.frameChanges (h : Hw) : Hw × Option LayoutChange :=
  let (h, changed) := h.admitEffects.layoutApply
  (if changed.isSome then h.meterLayout else h, changed)

/-- The event bits of a Lantern hold what was raised since the frame start before; its latch starts anew (R118, R560). -/
def Hw.latchEvents (h : Hw) : Hw :=
  let h := (List.range 8).foldl (fun (h : Hw) l => h.setLan l { h.lan l with ev := h.latch l }) h
  { h with evtLatch := [] }

/-- An idle frame start (R93): the pulse marks F (R54), and admitted changes and layout loads take effect. Station writes wait for the
first frame that runs; a load acts on the entries that they will leave (R201, R202). -/
def Hw.idleStart (h : Hw) : Hw :=
  let (h, changed) := h.latchEvents.realign.frameChanges
  match changed with
  | some f => (((h.stationLayout f.dir).waitingLayout f.dir).forceCheck f.kind).showStations
  | none => h

/-- The snapshot of the frame, and points that entered shown at age 0 (R62-R66, R73, R106). -/
def Hw.frameSnapshot (h : Hw) : Hw :=
  let h := h.readForces.mailboxLanding.snapshot
  let mine := h.img.entered.filter h.isInput
  let inp := mine.foldl (fun (t : Tab Point) p => Tab.put t p { h.inPoint p with age := 0 }) h.img.inp
  let h := { h with img := { h.img with inp := inp, entered := h.img.entered.filter fun p => !h.isInput p } }
  h.setFld IMG_SNAPSEQ_SEQ (h.fld FRM_FNUM)

/-- The loop engines at F+0; `stall` names the slot from which a hardware cause holds an engine (R224-R236). -/
def Hw.frameLoops (h : Hw) (stall : Nat → Option Nat) : Hw :=
  if h.appRuns then
    (List.range 2).foldl (fun (h : Hw) m =>
      if h.lpeState m = esRetired then h else ((h.stagedApply m).injFrame m).loopFrame m (stall m)) h
  else (List.range 2).foldl (fun (h : Hw) m => h.setEng m { h.eng m with left := [], outs := [], cycles := 0 }) h

/-- A frame that runs starts (R51, R64). One that starts before the publish of the frame before is a publish time missed (R56). -/
def Hw.runStart (h : Hw) (stall : Nat → Option Nat) : Hw :=
  let missed := if h.phase = .idle then h.frame.missed else h.frame.missed + 1
  let h := ({ h with frame := { h.frame with missed := missed }, wch := { h.wch with fresh := false } } : Hw).latchEvents
  let h := (h.setFlag FRM_STAT_RUNNING true).restartFirst
  let old := h
  let h := h.countW FRM_FNUM 1
  let (h, changed) := h.retireFrame.frameChanges
  let h := (h.stationsAtFrame (changed.map LayoutChange.dir)).forceCheck fun p => (changed.map fun f => f.kind p).getD false
  let h := h.frameSnapshot
  let h := (List.range 8).foldl (fun (h : Hw) l => h.distribute old l) h
  let h := (List.range 8).foldl (fun (h : Hw) l => if h.lntRuns l then h.timerUnit l else h) h
  let h := (h.frameLoops stall).dispatchFrame h.appRuns
  let h := if h.outputsHeld then h else h.canSync
  let h := h.heatArm.heatUpdates (h.watchState == wActive || h.watchState == wOff)
  ({ h.realign with phase := .started } : Hw).raise 16

/-- Frames start: RUN is 1 and no answer of a witness is awaited, or they run already (R585, R632). -/
def Hw.starts (h : Hw) : Bool := h.flag FRM_STAT_RUNNING || (h.flag FRM_CTRL_RUN && h.watchState != wJoining)

/-- A frame start; after a power failure none follows (R638). -/
def frameStart (stall : Nat → Option Nat) (h : Hw) : Hw :=
  if h.sys.down.isSome then h else if h.starts then h.runStart stall else h.idleStart

/-! ## Handover in the gap (R97-R100) -/

/-- The state of a moved program crosses to its destination; a failed copy is a cold restart of the program (R97, R99). -/
def Hw.copyProgram (h : Hw) (failed : Bool) (n : Nat) (tgt : Placed) : Hw :=
  match Tab.get? h.progs n with
  | none => h
  | some q =>
    let x := h.lan q.lnt
    let y := (h.lan tgt.lnt).clearProg { tgt.prog with consts := [] }
    if failed then h.setLan tgt.lnt ((y.loadDefaults tgt.prog).setFirst n tgt.prog)
    else
      let pairs := fun (s : Nat) => (List.range (q.prog.space s).size).map fun j => ((tgt.prog.space s).base + j, (q.prog.space s).base + j)
      h.setLan tgt.lnt { y with
        mrk := carryTab x.mrk y.mrk (pairs 0), lw := carryTab x.lw y.lw (pairs 1), tmr := carryTab x.tmr y.tmr (pairs 2)
        ctr := carryTab x.ctr y.ctr (pairs 3), edg := carryTab x.edg y.edg (pairs 4) }

/-- A slot moves to the other engine (R100). -/
def Hw.moveSlot (h : Hw) (m s t : Nat) : Hw :=
  let e := h.eng m
  let d := h.eng (1 - m)
  let d := (List.range 32).foldl (fun (d : LoopEngine) w => d.setWord t w (e.word s w)) d
  let d := match Tab.get? e.wspNext s with
    | some b => { d with wspNext := Tab.put d.wspNext t b }
    | none => d
  let e := (List.range 32).foldl (fun (e : LoopEngine) w => { e with mem := Tab.del e.mem (s * 32 + w) }) e
  let e := { e with wspNext := Tab.del e.wspNext s, image := Tab.keep e.image fun k _ => k / 32 != s }
  let d := (List.range 7).foldl (fun (d : LoopEngine) j => match Tab.get? (h.eng m).image (s * 32 + 12 + j) with
    | some w => { d with image := Tab.put d.image (t * 32 + 12 + j) w }
    | none => d) d
  let h := (h.setEng m e).setEng (1 - m) d
  { h with redir := Tab.put h.redir (m * 8192 + s) ((1 - m) * 8192 + t) }

/-- The gap of the handover frame: the state copy of a Lantern, or the slots of a loop engine (R97-R100). -/
def Hw.handoverGap (h : Hw) (failed : Bool) : Hw :=
  match h.adm.retire with
  | none => h
  | some r =>
    if r.stage ≠ .handover then h
    else
      let h := { h with adm := { h.adm with retire := some { r with stage := .copied } } }
      if r.loop then r.slots.foldl (fun (h : Hw) p => h.moveSlot r.unit p.1 p.2) h
      else
        let dirty := (h.lan r.unit).doing != .ended && h.lntRuns r.unit
        let h := r.moves.foldl (fun (h : Hw) p => h.copyProgram failed p.1 p.2) h
        let h := if dirty then h.recordFree 0x021 25 0 else h
        let h := if failed then h.recordFree 0x022 25 0 else h
        if dirty || failed then h.raise 29 else h

/-- Whether a handover falls in this frame. -/
def Hw.inHandover (h : Hw) : Bool :=
  match h.adm.retire with
  | some r => r.stage == .handover
  | none => false

/-! ## The publish (R55, R72, R77, R106, R632) -/

/-- A merged point as published: one the merge did not reach in time holds its last value with OVR; one that entered the layout
shows age 0. -/
def Hw.publishPoint (h : Hw) (late : Option Nat) (p : Nat) (q : Point) : Point :=
  let q := match late with
    | some n => if n ≤ p then (((h.outPoint p).older).put stOvr true).good else q
    | none => q
  if h.img.entered.contains p then { q with age := 0 } else q

/-- The first publish of a session ends the boot (R632). -/
def Hw.bootDone (h : Hw) : Hw :=
  if h.flag SYS_STAT_BOOTDONE then h else ((h.setFlag SYS_STAT_BOOTDONE true).raise 2).setFog 0 false

/-- The last frame of a power failure has ended: Lantern state and mailbox entry are captured as held values, heartbeats stop
and an ACTIVE unit releases its lease (R175, R274, R523, R638, R643). -/
def Hw.endFrames (h : Hw) : Hw :=
  if h.sys.captured then h
  else
    let app := if h.sys.ran then h.captureRetain else []
    let mail := if h.flag DPE_CTRL_HOLDMB && h.sys.ran then h.lastMail else none
    let h := { h with sys := { h.sys with captured := true }, nvm := { h.nvm with saving := some ⟨app, mail, []⟩ } }
    ({ h with phase := .idle } : Hw).watchPowerFail

/-- F+880 us: OUT is published (R77), and what follows in the output gap. -/
def State.publish (late : Option Nat) (failed : Bool) (s : State) : State :=
  if s.hw.phase ≠ .closed then s
  else
    let handover := s.hw.inHandover
    let s := s.onHw fun h =>
      let h := { h with frame := { h.frame with missed := 0 } }
      let h := if late.isSome then h.frameFault 3 15 0 else h
      let out := h.img.merged.map fun e => (e.1, h.publishPoint late e.1 e.2)
      let h := { h with img := { h.img with out := out, merged := [], entered := [] }, phase := .idle, awake := []
                        sys := { h.sys with ran := true } }
      let h := (h.setFld IMG_PUBSEQ_SEQ (h.fld FRM_FNUM)).raise 17
      (((if h.wch.fresh then h.bootDone else h.bootDone.tookOver)).handoverGap failed).switchOver
    let s := s.outputBuild s.hw.outputsHeld
    let s := s.outputFill s.hw.outputsHeld
    let s := s.captureGap handover
    s.onHw fun h =>
      let h := if h.flag FRM_CTRL_RUN then h else h.setFlag FRM_STAT_RUNNING false
      if h.sys.down.isSome then h.endFrames else h

/-! ## FRM.CTRL (R89, R104, R632) -/

/-- RUN: 1 is ignored while the key unit is not in RUN (R632). -/
def frmRun (on : Bool) (h : Hw) : Hw :=
  if on then
    if h.keyMode ≠ keyRun then h.setFlag SYS_STAT_RUNREF true
    else { h.setFlag FRM_CTRL_RUN true with sys := { h.sys with runSeen := true } }
  else h.setFlag FRM_CTRL_RUN false

/-- COMMISSION: 1 from D0 with the debug port enabled; 0 unless a placement entry is UNPROVEN (R89, R104). -/
def frmCommission (src : Src) (on : Bool) (h : Hw) : Hw :=
  if on then (if isD0 src && h.debug then h.setFlag FRM_CTRL_COMMISSION true else h)
  else if h.flag FRM_STAT_UNPROVEN then h else h.setFlag FRM_CTRL_COMMISSION false

/-! ## Meanings -/

def execPreWake (s : State) : Host.Outcome State Fault Refusal := .next (s.onHw Hw.preWake)
def execFrameStart (stall0 stall1 : Option (Fin 8192)) (s : State) : Host.Outcome State Fault Refusal :=
  .next (s.onHw (frameStart fun m => (if m = 0 then stall0 else stall1).map fun t => t.val))
def execPublish (late : Option (BitVec 17)) (copyFailed : Bool) (s : State) : Host.Outcome State Fault Refusal :=
  .next (s.publish (late.map fun p => p.toNat) copyFailed)
def execRun (on : Bool) (s : State) : Host.Outcome State Fault Refusal := .next (s.onHw (frmRun on))
def execCommission (src : Src) (on : Bool) (s : State) : Host.Outcome State Fault Refusal :=
  .next (s.onHw (frmCommission src on))

end Sys2Proof.Machine
end

