-- ==== Sys2Proof/Machine/Sys.lean ====
section
/-! DEFINITION. Reset, boot, power failure, the system watchdog and FOGHORN_N (18), with the mount of the record store, the
root and the ledger at a start (13, 14), and the end of the key commands that take time (R553). -/

namespace Sys2Proof.Machine

def sysAddr (off : Nat) : Nat := 0x30000000 + off

/-! ## What a reset leaves (R629, R630) -/

/-- A field keeps the value it had. -/
def Hw.keepFld (old : Hw) (h : Hw) (f : Fld) : Hw := h.setFld f (old.fld f)

/-- The record store as a reset leaves it: what flash holds. An erase under way is aborted and leaves a sector without line 0,
a transaction that had not ended never will (R488, R498, R645). -/
def Nvm.afterReset (n : Nvm) : Nvm where
  code := n.code
  sectors := match n.erase with
    | some (.store r) => Tab.put n.sectors r Sector.blank
    | _ => n.sectors
  retired := n.retired
  reqs := []
  open_ := []
  txOpen := []
  txNext := n.txNext
  txPart := []
  txDead := n.txPart ++ n.txDead
  ended := []
  comp := none
  want := []
  erase := none
  refresh := match n.refresh with
    | some (_, .copying) => none
    | r => r
  read := none
  cells := n.cells
  held := []
  saving := none
  save := n.save
  shut := none
  bad := []

/-- The Logbook as a reset leaves it: the tail is lost with the supply alone (R570, R630). -/
def Logbook.afterReset (l : Logbook) (tail : Nat) (por : Bool) : Logbook where
  arriving := []
  ring := if por then l.ring.take (l.ring.length - tail) else l.ring
  wins := []
  lost := if por then 0 else l.lost
  fresh := if por then 0 else l.fresh
  batch := l.batch
  search := []
  clear := none

/-- The hardware after a reset from a source of R628. A nonce no rule gives a value is free. -/
def Hw.resetTo (h : Hw) (cause : Nat) : Hw :=
  let por := cause == 0
  let r : Hw := { Hw.reset with
    free := h.free
    log := h.log.afterReset (h.fld LOG_TAIL) por
    nvm := h.nvm.afterReset
    key := { Hw.reset.key with saved := h.key.saved, rootNo := h.key.rootNo, enrol := h.key.enrol, reenrol := h.key.reenrol }
    keep := { Hw.reset.keep with savedHour := h.keep.savedHour, savedPlan := h.keep.savedPlan, starts := h.keep.starts }
    bil := { Hw.reset.bil with saves := h.bil.saves, gap := h.bil.gap }
    forceSaved := h.forceSaved
    sys := { Sys.reset with bootRec := h.sys.bootRec, pdc := h.sys.pdc, startAt := if por then 0 else h.tfree } }
  let r := (List.range 16).foldl (fun (r : Hw) c => h.keepFld r (NVM_CNT_VALUE c)) r
  let r := (List.range 8).foldl (fun (r : Hw) i => h.keepFld r (KEY_ANCHOR_HASH i)) r
  let r := if por then r else [TIM_TFREE, SYS_MTIME, LOG_TAIL].foldl (fun (r : Hw) f => h.keepFld r f) r
  let r := (h.keepFld r LOG_EPOCH).setFld LOG_SEQ (match r.log.ring.getLast? with
    | some q => q.seq
    | none => h.fld LOG_SEQ)
  let r := (r.setFld KEY_NONCE (r.freeVal 64)).useFree
  let r := (r.setFld LOG_NONCE (r.freeVal 64)).useFree
  (r.setFld SYS_RSTCAUSE_CAUSE cause).setFlag SYS_RSTCAUSE_SAVED h.sys.pdc

/-- A reset of the part. On-chip memory is zeroised by the boot and DDR4 is undefined, as an address nothing has written. -/
def State.resetTo (cause : Nat) (s : State) : State := { s with mem := [], hw := s.hw.resetTo cause }

/-! ## The save (R628, R638, R642) -/

/-- The engine stops and its entry is discarded (R262). -/
def Hw.dispatchStop (h : Hw) : Hw :=
  let h := h.setDpe fun d => { d with
    prog := none, prob := none, facOk := false, staging := none, staged := none, restore := none, load := none, due := false }
  let h := ((h.setFlag DPE_STAT_PROGOK false).setFlag DPE_STAT_PROBOK false).setFlag DPE_STAT_WARMOK false
  (h.setFlag DPE_STAT_MBFULL false).setFld DPE_STAT_STATE dUnloaded

/-- The record store abandons groups, aborts an erase and stops compaction (R524). -/
def Hw.storeStop (h : Hw) : Hw :=
  let h := (h.failAll.setFlag NVM_STAT_COMPACT false).setFlag NVM_STAT_FULLWAIT false
  let n := h.nvm
  let m := n.afterReset
  { h with nvm := { n with
      sectors := m.sectors, txPart := [], txDead := m.txDead, comp := none, want := [], erase := none, refresh := m.refresh } }

/-- The sequence of R638 begins, for PFI_N (source 7) or a source that saves first (R642). A PFI_N assertion during a save lets
it run on as the power-down commit; any other source during a save changes nothing (R629). -/
def Hw.saveBegin (h : Hw) (cause : Nat) : Hw :=
  match h.sys.down with
  | some d =>
    if cause = 7 then
      let h := { h with sys := { h.sys with down := some 7, pfHigh := false } }
      if d = 7 then h else h.setFlag SYS_STAT_PFI true
    else h
  | none =>
    let h := { h with sys := { h.sys with down := some cause, downAt := h.tfree, pfHigh := false } }
    let h := ((h.setFlag SYS_STAT_PFI true).raise 1).recordOpen 0x0B4
    let h := (h.dispatchStop.storeStop.setBil fun b => { b with run := none }).gapCapture
    let h := h.setKeep fun k => { k with raise := none }
    if h.phase = .idle then h.endFrames else h

/-- Bytes of a mailbox entry as a held value (R274). -/
def mailBytes (m : Option Config.CkMail) : Nat :=
  match m with
  | some e => 4 * e.vals.length + 8
  | none => 0

/-- Bytes of items 1 and 2 of R523 as they stand (NVM.HELDUSE). -/
def Hw.heldUse (h : Hw) : Nat :=
  (h.progs.map fun e => e.2.prog.retainBytes).sum + (if h.flag DPE_CTRL_HOLDMB then mailBytes h.lastMail else 0)

/-- The held values within 16,384 bytes in their order (R523): application, mailbox entry, host bytes; whether all fitted. -/
def Hw.heldFit (h : Hw) (v : HeldSave) : HeldSave × Bool :=
  let app := (h.progs.map fun e => e.2.prog.retainBytes).sum
  let fits := decide (app + mailBytes v.mail ≤ 16384)
  let mail := if fits then v.mail else none
  let used := app + mailBytes mail
  let want := h.fld NVM_HELDLEN / 16 * 16
  let n := min want (16384 - used)
  (⟨v.app, mail, Tab.range (h.nvm.shut.getD h.nvm.held) 0 n 0#8⟩, fits && n == want)

/-- Everything the Logbook's tail holds is committed in batches (R570); whether all of it was. -/
def Hw.tailCommitOk (h : Hw) : Hw × Bool :=
  let e := (List.range 7).foldl (fun (e : Hw × Bool) _ =>
    let h := e.1
    let t := h.fld LOG_TAIL
    if t = 0 ∨ e.2 = false then e
    else
      let n := min t logBatchLen
      let recs := (h.log.ring.drop (h.log.ring.length - t)).take n
      match h.commitOk 0x2001 (h.log.batch % 131) (recs.map LogRec.all).flatten with
      | (h, true) => (({ h with log := { h.log with batch := h.log.batch + 1 } } : Hw).setFld LOG_TAIL (t - n), true)
      | (h, false) => (h, false)) (h, true)
  (({ e.1 with log := { e.1.log with fresh := 0 } } : Hw).logBatchDone, e.2)

def Hw.tailCommit (h : Hw) : Hw := h.tailCommitOk.1

/-- The held values go into the HELD partition, beside those of the commit before (R501, R523): up to five records whose layout is not
stated (log entry 14, DESIGN CHOICE); whether all were committed. -/
def Hw.heldCommit (h : Hw) (v : HeldSave) : Hw × Bool :=
  let len := (h.progs.map fun e => e.2.prog.retainBytes).sum * b2n (!v.app.isEmpty) + mailBytes v.mail + v.host.length
  let first := h.fld (NVM_CNT_VALUE 1) % 2 * 8
  let all := toBytes len (h.freeVal (8 * len))
  let recs := (((List.range 5).map fun i => (0x4001, first + i, (all.drop (4048 * i)).take 4048)).filter fun r =>
    r.2.2 != [] || (h.nvm.live 0x4001 r.2.1).any fun q => q.payload != [])
  h.useFree.commitEach recs

/-- The power-down-complete record commits after the rest of the commit (R332, R523-R525, R643): not while the cipher key is
absent, nor where any part of the commit failed. -/
def Hw.saveCommit (h : Hw) : Hw :=
  let (v, all) := h.heldFit (h.nvm.saving.getD ⟨[], none, []⟩)
  let h := if all then h else (h.setFlag NVM_STAT_HELDTRUNC true).raise 175
  let stands := !h.sys.ran && h.fld SYS_BOOTSTAT_MODE == modeWarm
  let g := h.gapVals
  let (h, held) := if stands then (h, true) else h.heldCommit v
  let h := h.log.arriving.foldl (fun h _ => logTake h) h.tailCommit
  let (h, tail) := h.tailCommitOk
  let recs := (((List.range 4).map fun k => (k, gapPayload g k)).filter fun r => r.2 != [] || (h.nvm.live gapType r.1).isSome).map
    fun r => (gapType, r.1, r.2)
  let (h, whole) := h.commitTx recs
  let h := h.setBil fun b => { b with gap := if whole then some ⟨g.foldl (fun (t : Tab Nat) e => Tab.put t e.1 e.2) [], h.fld BIL_GAPTIME_VALUE⟩
    else none }
  let h := { h with nvm := { h.nvm with save := if stands then h.nvm.save else some v } }
  match (if held && tail && whole then h.commitOk 0x0001 0 (toBytes 8 (h.fld (NVM_CNT_VALUE 1))) else (h, false)) with
  | (h, true) => ({ h with sys := { h.sys with pdc := true } } : Hw).setFlag SYS_STAT_PDDONE true
  | (h, false) => h

/-- The commit ends, not before it starts at t + 2 ms: a source that saves first takes effect, after PFI_N the part stays in POWERDOWN (R628, R644). -/
def State.powerDownComplete (s : State) : State :=
  match s.hw.sys.down with
  | none => s
  | some d =>
    if !s.hw.sys.captured || s.hw.flag SYS_STAT_PDDONE || !s.hw.cipherReady
        || !s.hw.passed s.hw.sys.downAt 2000 then s
    else
      let s := s.onHw Hw.saveCommit
      if d = 7 ∨ s.hw.flag SYS_STAT_PDDONE = false then s else s.resetTo d

/-- 13 ms after a source that saves first has fired (R628). -/
def State.saveTimeout (s : State) : State :=
  match s.hw.sys.down with
  | some d => if d = 7 ∨ s.hw.passed s.hw.sys.downAt 13000 = false then s else s.resetTo d
  | none => s

/-- PFI_N has been high for 100 ms in POWERDOWN (R644). -/
def State.pfret (s : State) : State :=
  if s.hw.sys.down == some 7 && s.hw.sys.captured && s.hw.sys.pfHigh
      && s.hw.passed s.hw.sys.pfAt 100000 then s.resetTo 7 else s

/-- The tamper latch stands committed. -/
def Hw.latched (h : Hw) : Bool := (h.nvm.live 0x0002 0).any fun r => r.payload != []

/-- TAMPER_RESET: the latch of an assertion has been written, or 30 us have passed since (R552, R628). -/
def State.tamperReset (s : State) : State :=
  if s.hw.sys.tamperAt.any fun t => s.hw.latched || s.hw.passed t 30 then
    (s.onHw fun h => if h.latched then h
      else (h.commitNow 0x0002 0 (toBytes 16 (h.freeVal 128))).useFree).resetTo 6
  else s

/-- A port of island 1 or 12-19 has been isolated for 10 ms (R628). -/
def portTimeout (i : Nat) (h : Hw) : Hw :=
  if (i = 1 ∨ 12 ≤ i) ∧ h.bus.isolated.contains i = true ∧ h.passed (Tab.getD h.bus.isoAt i 0) 10000 = true then h.saveBegin 4 else h

/-- The boot record is committed; its layout is not stated (log entry 14, DESIGN CHOICE). -/
def Hw.setBootRec (h : Hw) (r : BootRec) : Hw :=
  let h := { h with sys := { h.sys with bootRec := r } }
  ((h.commitNow 0x0003 0 (toBytes 16 (h.freeVal 128))).useFree).setFld SYS_FLOOR_VALUE r.floor

/-- A write of SYS.RSTCMD with RESET (R628, R650). -/
def rstCmd (src : Src) (cold : Bool) (h : Hw) : Hw :=
  let h := if cold then h.setBootRec { h.sys.bootRec with cold := true } else h
  h.saveBegin (if isKeeper src then 4 else 5)

/-! ## Supplies (R625-R627) -/

/-- Every supply is in range: the islands leave reset. -/
def suppliesIn (h : Hw) : Hw :=
  if h.sys.boot = .held then { h.setFld SYS_SUPSTAT_INRANGE 255 with sys := { h.sys with boot := .supplied } } else h

/-- The start stops for good (R625, R634). -/
def Hw.bootStop (h : Hw) (fail : Nat) : Hw :=
  (({ h with sys := { h.sys with boot := .stopped } } : Hw).setFld SYS_BOOTSTAT_FAIL fail).setFog 1 true

/-- A supply is still out of range 100 ms after the Keeper left reset. -/
def supplyStop (h : Hw) : Hw := if h.sys.boot = .held ∧ h.passed h.sys.startAt 100000 = true then h.bootStop 1 else h

/-- A supply leaves its range while the part runs; VDD_KEEP is a power-on reset (R626, R627). -/
def State.supplyOut (n : Nat) (s : State) : State :=
  if n = 1 then s.resetTo 0
  else if s.hw.sys.boot = .held then s.onHw fun h => h.setFldBit SYS_SUPSTAT_INRANGE n false
  else s.onHw fun h => ((h.setFldBit SYS_SUPSTAT_INRANGE n false).raise 7).setFog 4 true

/-- A supply returns: the condition ends with the last one. -/
def supplyBack (n : Nat) (h : Hw) : Hw :=
    let h := h.setFldBit SYS_SUPSTAT_INRANGE n true
    if h.fld SYS_SUPSTAT_INRANGE = 255 ∧ h.sys.boot ≠ .held then h.setFog 4 false else h

/-! ## Stage 3: the mount (R507-R513, R517, R522, R525) -/

/-- A sector is erased at once with an ESQ of its own (R509). -/
def Hw.eraseNow (h : Hw) (r ec : Nat) : Hw :=
  let h := h.spread 2
  { h with nvm := h.nvm.setSector r (Sector.erased ec (h.fld (NVM_CNT_VALUE 2))) }

/-- A compaction that names destination `d` is settled (R513): a source whose line 0 holds a higher erase count than the
destination names has been erased, then or later. -/
def Hw.settleDest (h : Hw) (d : Nat) : Hw :=
  let s := h.nvm.sector d
  match s.dest with
  | none => h
  | some x =>
    if !s.copied then h.eraseNow d (s.ec + 1)
    else
      let q := h.nvm.sector x.src
      if (q.line0 && decide (x.ec < q.ec)) || h.nvm.retired.contains x.src then h else h.eraseNow x.src (x.ec + 1)

/-- A store in which no sector holds line 0 is formatted (R508). -/
def Hw.formatStore (h : Hw) : Hw :=
  let secs := (h.nvm.service).map fun r => (r, Sector.erased 1 (r + 1))
  let h := { h with nvm := { h.nvm with sectors := secs, cells := Tab.del h.nvm.cells 2 } }
  (h.setFld (NVM_CNT_VALUE 2) 256).submit 0x6001 2 (toBytes 16 256) .counter

/-- Charges of the partitions from the live versions (R501, R507). -/
def Hw.showCharges (h : Hw) : Hw :=
  let live := h.nvm.committed.filter fun r => h.nvm.live r.typ r.key == some r
  (List.range 9).foldl (fun (h : Hw) p =>
    h.setFld (NVM_PUSE_USED p) ((live.filter fun r => partOf r.typ == p).map fun r => recCharge r.typ r.payload.length).sum) h

/-- A code refresh that was cut after its copy committed is completed (R517). -/
def Hw.refreshMount (h : Hw) : Hw :=
  match h.nvm.refresh with
  | none => h
  | some _ =>
    let h := { h with nvm := { h.nvm with refresh := none } }
    (List.range 5).foldl (fun (h : Hw) i => h.submit 0x0007 i [] .system) h

/-- The last group of a list, its commit line treated as absent. -/
def cutGroups : List NvmGroup → List NvmGroup
  | [] => []
  | [g] => [{ g with cut := true }]
  | g :: gs => g :: cutGroups gs

/-- The last line of a sector that is not ERASED, treated as absent (R490): a group's commit line, a mark, line 1 or line 0. -/
def Sector.cutLast (s : Sector) : Sector :=
  if s.groups ≠ [] then { s with groups := cutGroups s.groups }
  else if s.obsolete then { s with obsolete := false }
  else if s.copied then { s with copied := false }
  else if s.dest.isSome then { s with dest := none }
  else { s with line0 := false }

/-- A margin read of the last line of sector `r` does not return CLEAN (R490). A sector with FULL is not read. A transaction
that loses a commit line is not whole (R498); a destination that loses line 1 is erased (R513). -/
def Hw.marginFail (h : Hw) (r : Nat) : Hw :=
  let s := h.nvm.sector r
  if s.full || h.nvm.retired.contains r then h
  else
    let t := s.cutLast
    if s.dest.isSome && t.dest.isNone then h.eraseNow r (s.ec + 1)
    else
      let lost := ((t.groups.filter fun g => g.cut).map (·.tx)).filter fun x => x != 0 && !h.nvm.txDead.contains x
      let n := h.nvm.setSector r t
      { h with nvm := { n with txDead := lost ++ n.txDead } }

/-- The record store is mounted; `cut` names the sectors whose last line a margin read does not return CLEAN. -/
def Hw.mount (h : Hw) (cut : List (Fin 256)) : Hw :=
  let h := cut.foldl (fun (h : Hw) r => h.marginFail r.val) h
  let virgin := h.nvm.service.all fun r => !(h.nvm.sector r).line0
  let h :=
    if virgin then h.formatStore
    else
      let h := h.nvm.service.foldl (fun (h : Hw) r => h.settleDest r) h
      let top := (h.nvm.service.map fun r => (h.nvm.sector r).ec).foldl max 0
      h.nvm.service.foldl (fun (h : Hw) r => if (h.nvm.sector r).line0 then h else h.eraseNow r top) h
  let h := h.refreshMount.showCharges.nvmShow
  let h := if h.nvm.retired.length > 24 then h.setFlag NVM_STAT_DEGRADED true else h
  let h := h.setFld NVM_STAT_MOUNT (if virgin then 3 else if h.nvm.committed.any fun r => r.lost then 2 else 1)
  let h := (h.spread 1).setFlag NVM_STAT_PDCOK h.sys.pdc
  (({ h with sys := { h.sys with pdc := false } } : Hw).place).raise 173

/-! ## Stage 4: the plan (R617, R619) -/

/-- Islands the plan record retires stay isolated and switched off, and their engines RETIRED. -/
def Hw.retireAtStart (h : Hw) (e : Nat × Nat) : Hw :=
  let h := ((h.setFldBit KEEP_RETIRED e.1 true).setFldBit KEEP_HOSTRET e.1 (e.2 == 4)).isolate e.1
  if 2 ≤ e.1 ∧ e.1 < 10 then h.setLntState (e.1 - 2) esRetired
  else if e.1 = 10 ∨ e.1 = 11 then h.setLpeState (e.1 - 10) esRetired else h

/-- Voltage and steps from the plan record; without one the reset code and k = 0, and a re-plan after the first hourly
reading. -/
def Hw.planStage (h : Hw) (lost : Bool) : Hw :=
  let h := match h.keep.savedHour with
    | some c =>
      let h := (h.setKeep fun k => { k with cum := c }).showProfile
      c.hist.foldl (fun (h : Hw) (e : Nat × List (Nat × Nat)) => match e.2.getLast? with
        | some d => h.setFld (KEEP_ISL_D e.1) d.2
        | none => h) h
    | none => h
  let h := h.setFld KEEP_NEXTPLAN ((h.optime / 256 / 8766 + 1) * 8766 * 256)
  match (if lost then none else h.keep.savedPlan) with
  | none => h.setKeep fun k => { k with planDue := true }
  | some p =>
    let h := h.setKeep fun k => { k with retired := p.retired }
    let h := ((h.setFld KEEP_VDD_CODE p.code).setFld KEEP_VDD_MV (mvOf p.code)).setFld KEEP_PLANSEQ p.seq
    let h := (List.range 20).foldl (fun (h : Hw) i => h.setFld (KEEP_ISL_STEP i) (p.steps.getD i 0)) h
    p.retired.foldl (fun (h : Hw) e => h.retireAtStart e) h.showFnow

/-! ## Stage 5: root and ledger (R529-R542, R552) -/

/-- A fixed node: its GEN as its record holds it, formed anew under K0 (R535). -/
def Hw.fixedNode (h : Hw) (n kind mask dom : Nat) : Hw :=
  let h := h.setFld (KEY_K_W1_GEN n) (match Tab.get? h.key.saved n with
    | some s => s.gen
    | none => 0)
  let h := h.formNode n 0 kind mask dom 0 0
  if kind = kindDerived then h.derive n
  else h.setNodeVal n ((List.range 8).map fun i => toBytes 4 (h.fld (KEY_ANCHOR_HASH i))).flatten

/-- A node as its record holds it: its secret derived or as saved, ORPHAN where its chain has changed, a use counter at its
FLOOR (R536, R542, R544, R550). -/
def Hw.savedNode (h : Hw) (n : Nat) (s : NodeSave) : Hw :=
  let p := h.nodeState s.parent
  let orphan := p == nodeFree || p == nodeOrphan || h.fld (KEY_K_W1_GEN s.parent) != s.pgen
  let use := s.flags.testBit 1
  let state := if orphan then nodeOrphan else if use && s.floor == 0 then nodeExhausted else nodeValid
  let h := ((h.setFld (KEY_K_W0_STATE n) state).setFld (KEY_K_W0_KIND n) s.kind).setFld (KEY_K_W0_PARENT n) s.parent
  let h := ((h.setFld (KEY_K_W0_DEPTH n) s.depth).setFld (KEY_K_W0_MASK n) s.mask).setFld (KEY_K_W0_DOM n) s.dom
  let h := ((h.setFld (KEY_K_W0_FLAGS n) s.flags).setFld (KEY_K_W1_GEN n) s.gen).setFld (KEY_K_W1_COUNT n) (if use then s.floor else 0)
  let h := h.setKey fun k => { k with pgen := Tab.put k.pgen n s.pgen, floor := Tab.put k.floor n s.floor }
  if orphan then h.zeroNode n else if s.kind = kindDerived then h.derive n else h.setNodeVal n s.val

/-- The ledger is loaded, parents before their children, and K3 and K4 go to their engines. PEND records above the committed
update get tombstones. -/
def Hw.loadLedger (h : Hw) : Hw :=
  let g := match Tab.get? h.key.saved 0 with
    | some s => s.gen
    | none => 0
  let h := (((h.setFld (KEY_K_W0_STATE 0) nodeValid).setFld (KEY_K_W0_MASK 0) 64).setFld (KEY_K_W1_GEN 0) g).setNodeVal 0
    (Config.root h.key.rootNo)
  let h := (((h.fixedNode 1 kindDerived 32 0).fixedNode 2 kindPubkey 32 0).fixedNode 3 kindDerived 2 0).fixedNode 4 kindDerived 16 0
  let h := (List.range 256).foldl (fun (h : Hw) d => h.fixedNode (16 + d) kindDerived 64 d) h
  let h := (List.range 8).foldl (fun (h : Hw) d =>
    (h.key.saved.filter fun e => decide (272 ≤ e.1) && e.2.depth == d).foldl (fun (h : Hw) e => h.savedNode e.1 e.2) h) h
  let h := h.setFld KEY_LEDGERU_U (match h.nvm.live 0x1003 0 with
    | some r => ofBytes (r.payload.take 4)
    | none => 0)
  let pend := h.nvm.committed.filter fun r => r.typ == 0x1002 && r.payload != [] && h.nvm.live 0x1002 r.key == some r
  let h := pend.foldl (fun (h : Hw) r => h.submit 0x1002 r.key [] .system) h
  ((h.loadKey 1 3).loadKey 4 4).place

/-- Helper copies are written; the helper words and TAG are free (log entry 14, DESIGN CHOICE). -/
def Hw.putHelpers (h : Hw) (first : Nat) : Hw :=
  let p := toBytes 4 h.key.enrol ++ toBytes 4 (h.optime % 2 ^ 32) ++ toBytes 8 0 ++ toBytes 384 (h.freeVal 3072)
  ((h.commitNow 0x1001 first p).commitNow 0x1001 (first + 1) p).useFree

/-- A pending helper copy stands committed. -/
def Hw.helperPend (h : Hw) : Bool := [2, 3].any fun k => (h.nvm.live 0x1001 k).any fun r => r.payload != []

/-- Pending copies that regenerated the root take the place of the copies in service (R534); else they get tombstones. -/
def Hw.helperSettle (h : Hw) (good : Bool) : Hw :=
  let p := match h.nvm.live 0x1001 2 with
    | some r => r.payload
    | none => []
  let h := if good then (((h.commitNow 0x1001 0 p).commitNow 0x1001 1 p).raise 181) else h
  (h.commitNow 0x1001 2 []).commitNow 0x1001 3 []

/-- A re-enrolment that is due runs (R533). -/
def Hw.reenrolRun (h : Hw) : Hw :=
  let h := (h.setKey fun k => { k with reenrol := false, enrol := k.enrol + 1 }).putHelpers 2
  let h := h.countW KEY_LEDGERU_U 1
  (h.commitNow 0x1003 0 (toBytes 4 (h.fld KEY_LEDGERU_U))).raise 177

/-- The root has been accepted (R531, R532, R612). -/
def Hw.rootGood (h : Hw) (r : PufRead) : Hw :=
  let h := ((h.setFlag KEY_STAT_ROOTOK true).setFld KEY_PUFERR_ERRS r.errs.toNat).setFld KEY_PUFERR_MAXBLK r.maxBlk.toNat
  let h := (h.raise 176).loadLedger
  let h := h.setKeep fun k => { k with starts := k.starts ++ [(h.optime, r.errs.toNat)] }
  let h := if h.key.reenrol then h.reenrolRun else h
  if h.fld KEY_PUFCFG_THRESH < r.errs.toNat ∨ 20 < r.maxBlk.toNat then
    keyReenrol keeperSrc ((h.setFlag KEY_STAT_PUFHI true).raise 181)
  else h

/-- Stage 5. A latch that stands already is not written again for a TAMPER_N that is still low (log entry 161, DESIGN CHOICE). -/
def Hw.rootStage (h : Hw) (b : BootIn) : Hw :=
  if b.tamperLow && !h.latched then (tamper h).place
  else if h.latched then (h.enterRecovery.setFlag KEY_STAT_TAMPER true).setFlag NVM_STAT_TAMPER true
  else
    let late := [b.copy2, b.copy3].findSome? id
    let pend := h.helperPend
    let h := if pend then h.helperSettle late.isSome else h
    match (if pend && late.isSome then late else [b.copy0, b.copy1].findSome? id) with
    | some r => h.rootGood r
    | none => ((h.setFlag KEY_STAT_ROOTFAIL true).enterRecovery.raise 176).recordFree 0x080 23 0

/-! ## Stages 6 to 9 (R631-R637) -/

/-- What the check of a slot found: FAILA and FAILB. An UNCORRECTABLE line is found first. -/
def Hw.slotCheck (h : Hw) (slot ue : Bool) : Nat :=
  let base := if slot then 0x600000 else 0
  let get := fun (a n : Nat) => (List.range n).map fun i => h.nvm.flashByte (base + a + i)
  let len := ofBytes (get 8 4)
  let anchor := ((List.range 8).map fun i => toBytes 4 (h.fld (KEY_ANCHOR_HASH i))).flatten
  if ue then 6
  else if ofBytes (get 0 4) ≠ 0x5A46494D ∨ ofBytes (get 18 46) ≠ 0 ∨ 1 < ofBytes (get 16 1) ∨ 1 < ofBytes (get 17 1)
      ∨ 6 * 2 ^ 20 < len + 96 then 2
  else if ofBytes (get 4 4) < h.sys.bootRec.floor then 3
  else if Config.sha256 (get 64 96) ≠ anchor then 4
  else if !Config.ecdsaVerify true (get 64 96) (get 0 len) (get len 96) then 5 else 0

/-- A word of a slot's header. -/
def Hw.slotWord (h : Hw) (slot : Bool) (a n : Nat) : Nat :=
  ofBytes ((List.range n).map fun i => h.nvm.flashByte ((if slot then 0x600000 else 0) + a + i))

/-- The restart mode (R636). -/
def Hw.chooseMode (h : Hw) (warmImage : Bool) : Hw :=
  if h.keyMode = keyRecovery then h.setFld SYS_BOOTSTAT_MODE modeRecovery
  else if h.sys.bootRec.cold then (h.setBootRec { h.sys.bootRec with cold := false }).setFld SYS_BOOTSTAT_MODE modeCold
  else if !warmImage then h.setFld SYS_BOOTSTAT_MODE modeCold
  else if h.flag NVM_STAT_PDCOK then
    let host := match h.nvm.save with
      | some v => v.host
      | none => []
    ({ h with nvm := { h.nvm with held := Tab.putAll [] 0 host } } : Hw).setFld SYS_BOOTSTAT_MODE modeWarm
  else (h.setFld SYS_BOOTSTAT_MODE modeCold).recordFree 0x023 25 0

/-- Stage 9: the cores start at ENTRY. -/
def Hw.startCores (h : Hw) (slot : Bool) (dbgen : Bool) : Hw :=
  let at_ := 0x10000000 + (if slot then 0x600000 else 0) + h.slotWord slot 12 4
  ({ h with cores := [], debug := dbgen, sys := { h.sys with boot := .up, entry := some at_ } } : Hw).raise 0

/-- The image that was chosen: BOOTSTAT, a try of a TRIAL image, FALLBACK (R634). -/
def Hw.useSlot (h : Hw) (slot first : Bool) : Hw :=
  let r := h.sys.bootRec
  let trial := r.trial && slot == r.pref
  let tries := if trial then min (r.tries + 1) 3 else r.tries
  let h := if trial then h.setBootRec { r with tries := tries } else h
  let h := ((h.setFlag SYS_BOOTSTAT_SLOT slot).setFlag SYS_BOOTSTAT_TRIAL trial).setFld SYS_BOOTSTAT_TRIES tries
  let h := (h.setFld SYS_BOOTVER_VALUE (h.slotWord slot 4 4)).setFld SYS_FLOOR_VALUE r.floor
  let h := { h with sys := { h.sys with raiseFloor := (h.slotWord slot 17 1).testBit 0 } }
  if slot = first then h else ((h.setFlag SYS_BOOTSTAT_FALLBACK true).raise 5).recordOpen 0x0B2

/-- Stages 6 and 8: the tail, billing, the image slot and the restart mode. -/
def Hw.bootRest (h : Hw) (b : BootIn) : Hw :=
  let h := if h.cipherReady then h.tailCommit else h
  let h := h.billResume (if h.cipherReady then b.savesBad.val else h.bil.saves.length) (h.flag NVM_STAT_PDCOK && h.cipherReady)
  let h := (h.record 0x0B0 h.noMaster 0 (h.fld SYS_RSTCAUSE_CAUSE + 16 * h.fld SYS_RSTCAUSE_SAVED)).useFree
  if (List.range 8).all fun i => h.fld (KEY_ANCHOR_HASH i) == 0 then
    ((h.chooseMode false).setFld SYS_BOOTSTAT_FAILA 1 |>.setFld SYS_BOOTSTAT_FAILB 1).bootStop 3
  else
    let r := h.sys.bootRec
    let first := if r.trial && r.tries == 3 then !r.pref else r.pref
    let ue := fun (s : Bool) => if s then b.slotBbad else b.slotAbad
    let put := fun (h : Hw) (s : Bool) (v : Nat) => h.setFld (if s then SYS_BOOTSTAT_FAILB else SYS_BOOTSTAT_FAILA) v
    let c := h.slotCheck first (ue first)
    let d := h.slotCheck (!first) (ue (!first))
    let h := put (put h first c) (!first) (if c = 0 then 1 else d)
    if c ≠ 0 ∧ d ≠ 0 then (h.chooseMode false).bootStop 2
    else
      let slot := if c = 0 then first else !first
      let h := h.chooseMode (h.slotWord slot 16 1 == 1)
      (h.useSlot slot first).startCores slot b.dbgen

/-- The boot stages from 3 on, once the supplies are in range (R631). -/
def bootStages (b : BootIn) (h : Hw) : Hw :=
  if h.sys.boot ≠ .supplied then h else (((h.mount b.cut).planStage b.planLost).rootStage b).bootRest b

/-! ## SYS commands (R635, R636, R646-R648) -/

/-- CONFIRM. -/
def bootConfirm (h : Hw) : Hw :=
  let r := h.sys.bootRec
  let floor := if h.sys.raiseFloor then h.fld SYS_BOOTVER_VALUE else r.floor
  (h.setBootRec { r with trial := false, floor := floor }).setFlag SYS_BOOTSTAT_TRIAL false

/-- SWITCH: `ue` when a line of the other slot reads UNCORRECTABLE. -/
def slotSwitch (ue : Bool) (h : Hw) : Hw :=
  let r := h.sys.bootRec
  if h.slotCheck (!r.pref) ue = 0 then h.setBootRec { r with pref := !r.pref, trial := true, tries := 0 }
  else h.setFlag SYS_STAT_CMDREF true

/-- COLDNOW. -/
def coldNow (h : Hw) : Hw :=
  if h.sys.runSeen || h.fld SYS_BOOTSTAT_MODE == modeRecovery then h else h.setFld SYS_BOOTSTAT_MODE modeCold

/-- The watchdog's PERIOD starts anew; whether it has warned since the last kick. -/
def Hw.wdStart (h : Hw) (warned : Bool) : Hw := { h with sys := { h.sys with warned := warned, wdAt := h.tfree } }

/-- A write of SYS.WDCFG: PERIOD is ignored while EN is 1, EN is never cleared; a PERIOD of 0 leaves the register (log entry 194,
DESIGN CHOICE). -/
def wdCfg (en : Bool) (period : Nat) (h : Hw) : Hw :=
  if h.flag SYS_WDCFG_EN then h
  else
    let h := (h.setFld SYS_WDCFG_PERIOD (if period = 0 then h.fld SYS_WDCFG_PERIOD else period)).setFlag SYS_WDCFG_EN en
    if en then h.wdStart false else h

/-- An expiry: the first since a kick warns, the second fires SYSWD (R647). -/
def wdExpire (h : Hw) : Hw :=
  if !h.flag SYS_WDCFG_EN then h
  else if h.sys.warned then h.saveBegin 2
  else
    let h := h.wdStart true
    ((h.raise 3).countS SYS_WDWARN_COUNT SYS_WDWARN_SAT 7 1).recordOpen 0x0B1

/-- The PERIOD of the watchdog ends (R646). -/
def wdPeriodEnd (h : Hw) : Hw := if h.passed h.sys.wdAt (h.fld SYS_WDCFG_PERIOD * 1000) then wdExpire h else h

/-- A write of SYS.WDKICK (R646). -/
def wdKick (key : Nat) (h : Hw) : Hw :=
  if key = 0xA5C3 then h.wdStart false else wdExpire h

/-- A write of SYS.FOGSW and of SYS.FOGMASK. -/
def fogSw (on : Bool) (h : Hw) : Hw := (h.setFlag SYS_FOGSW_SET on).setFog 6 on
def fogMask (v : Nat) (h : Hw) : Hw := h.fogChange fun h => h.setFld SYS_FOGMASK_MASK v

/-! ## The end of ANCHOR and RECOVER (R553) -/

/-- What a recovery with a new root does to the store: a new root with new helper copies, K0's next GEN, and tombstones for every record of the
encrypted partitions and every node record. -/
def Hw.rekey (h : Hw) : Hw :=
  let g := (match Tab.get? h.key.saved 0 with
    | some s => s.gen
    | none => 0) + 1
  let live := h.nvm.committed.filter fun r => h.nvm.live r.typ r.key == some r && r.payload != []
    && (partEnc (partOf r.typ) || r.typ == 0x1004)
  let h := live.foldl (fun (h : Hw) r => h.commitNow r.typ r.key []) h
  let k0 : NodeSave := ⟨0, 0, 0, 64, 0, 0, g % 2 ^ 32, 0, 0, []⟩
  let h := h.setKey fun k => { k with saved := [(0, k0)], rootNo := k.rootNo + 1, enrol := k.enrol + 1, reenrol := false }
  let h := (h.commitNow 0x1004 0 (toBytes 16 (h.freeVal 128))).useFree.putHelpers 0
  let h := { h with
    forceSaved := [], nvm := { h.nvm with save := none, saving := none }
    keep := { h.keep with savedHour := none, savedPlan := none }
    log := { h.log with ring := [], fresh := 0 } }
  (h.setBil fun b => { b with saves := [], gap := none }).setFld LOG_TAIL 0

/-- A recovery blob is accepted: nonce, key and signature (R553). -/
def Hw.recoveryOk (h : Hw) (blob : List Byte) : Bool :=
  let pk := (blob.drop 16).take 96
  ofBytes (blob.take 8) == h.fld KEY_NONCE
    && Config.sha256 pk == ((List.range 8).map fun i => toBytes 4 (h.fld (KEY_ANCHOR_HASH i))).flatten
    && Config.ecdsaVerify true pk (blob.take 112) ((blob.drop 112).take 96)

/-- K2 takes its value from KEY.ANCHOR (R535). -/
def Hw.anchorNode (h : Hw) (b : List Byte) : Hw := if h.nodeState 2 = nodeValid then h.setNodeVal 2 b else h

/-- A command of the key unit that takes time ends. -/
def keyCommandEnd (mem : List Host.Cell) (h : Hw) : Hw :=
  match h.key.cmd with
  | none => h
  | some c =>
    if c.op = 7 then
      match h.readAs mem 23 0 c.addr 32 with
      | .error _ => (h.noteRefused 23 0 c.addr 32 .read).keyFail .auth
      | .ok b => ((List.range 8).foldl (fun (h : Hw) i => h.setFld (KEY_ANCHOR_HASH i) (ofBytes ((b.drop (4 * i)).take 4)))
          ((h.noteRefused 23 0 c.addr 32 .read).anchorNode (b.take 32))).keyDone
    else if c.op = 6 then
      match h.readAs mem 23 0 c.addr 208 with
      | .error _ => ((h.noteRefused 23 0 c.addr 208 .read).newNonce).keyFail .auth
      | .ok b =>
        let ok := h.recoveryOk b
        let h := (h.noteRefused 23 0 c.addr 208 .read).newNonce
        if !ok then h.keyFail .auth
        else
          let h := h.commitNow 0x0002 0 []
          let h := if (ofBytes ((b.drop 8).take 8)).testBit 0 || h.flag KEY_STAT_ROOTFAIL then h.rekey else h
          h.keyDone.saveBegin 5
    else h

/-- A publish time passes in a frame that runs and has not published; the third in a row resets the part (R56). -/
def State.frameWatchdog (s : State) : State := if s.hw.phase ≠ .idle ∧ 2 ≤ s.hw.frame.missed then s.resetTo 3 else s

/-! ## Meanings -/

def execFrameWatchdog (s : State) : Host.Outcome State Fault Refusal := .next s.frameWatchdog
def execPor (s : State) : Host.Outcome State Fault Refusal := .next (s.resetTo 0)
def execPinReset (s : State) : Host.Outcome State Fault Refusal := .next (s.resetTo 1)
def execSystemWatchdogExpiry (s : State) : Host.Outcome State Fault Refusal := .next (s.onHw wdPeriodEnd)
def execPortIsolationTimeout (isl : Fin 20) (s : State) : Host.Outcome State Fault Refusal := .next (s.onHw (portTimeout isl.val))
def execReset (src : Src) (cold : Bool) (s : State) : Host.Outcome State Fault Refusal :=
  .next (s.onHw fun h => h.onlyD0 src (sysAddr 4) (rstCmd src cold))
def execKeeperWatchdog (s : State) : Host.Outcome State Fault Refusal := .next (s.resetTo 8)
def execSaveTimeout (s : State) : Host.Outcome State Fault Refusal := .next s.saveTimeout
def execPfret (s : State) : Host.Outcome State Fault Refusal := .next s.pfret
def execBoot (b : BootIn) (s : State) : Host.Outcome State Fault Refusal := .next (s.onHw (bootStages b))
def execSuppliesInRange (s : State) : Host.Outcome State Fault Refusal := .next (s.onHw suppliesIn)
def execSupplyTimeout (s : State) : Host.Outcome State Fault Refusal := .next (s.onHw supplyStop)
def execPowerFail (s : State) : Host.Outcome State Fault Refusal := .next (s.onHw fun h => h.saveBegin 7)
def execPowerDownComplete (s : State) : Host.Outcome State Fault Refusal := .next s.powerDownComplete
def execSupplyOutOfRange (n : Fin 8) (s : State) : Host.Outcome State Fault Refusal := .next (s.supplyOut n.val)
def execSupplyBackInRange (n : Fin 8) (s : State) : Host.Outcome State Fault Refusal := .next (s.onHw (supplyBack n.val))
def execLossOfSupply (s : State) : Host.Outcome State Fault Refusal := .next (s.resetTo 0)
def execPfiNReturnsHigh (s : State) : Host.Outcome State Fault Refusal :=
  .next (s.onHw fun h => if h.sys.down == some 7 then { h with sys := { h.sys with pfHigh := true, pfAt := h.tfree } } else h)
def execTamperReset (s : State) : Host.Outcome State Fault Refusal := .next s.tamperReset
def execWatchdogEn (src : Src) (period : BitVec 16) (s : State) : Host.Outcome State Fault Refusal :=
  .next (s.onHw fun h => h.onlyD0 src (sysAddr 0x20) (wdCfg true period.toNat))
def execWdkick (src : Src) (key : BitVec 16) (s : State) : Host.Outcome State Fault Refusal :=
  .next (s.onHw fun h => h.onlyD0 src (sysAddr 0x24) (wdKick key.toNat))
def execConfirm (src : Src) (s : State) : Host.Outcome State Fault Refusal :=
  .next (s.onHw fun h => h.onlyD0 src (sysAddr 0x18) bootConfirm)
def execSlotSwitch (src : Src) (bad : Bool) (s : State) : Host.Outcome State Fault Refusal :=
  .next (s.onHw fun h => h.onlyD0 src (sysAddr 0x18) (slotSwitch bad))
def execColdnow (src : Src) (s : State) : Host.Outcome State Fault Refusal :=
  .next (s.onHw fun h => h.onlyD0 src (sysAddr 0x18) coldNow)
def execFogsw (src : Src) (on : Bool) (s : State) : Host.Outcome State Fault Refusal :=
  .next (s.onHw fun h => h.onlyD0 src (sysAddr 0x38) (fogSw on))
def execKeyCommandEnd (s : State) : Host.Outcome State Fault Refusal := .next (s.onHw (keyCommandEnd s.mem))

end Sys2Proof.Machine
end

