-- ==== Sys2Proof/Machine/Pins.lean ====
section
/-! DEFINITION. GPIO, the states of the signal balls and the interrupt inputs of the host cores (19, R350, R559). -/

namespace Sys2Proof.Machine

def gpioAddr (off : Nat) : Nat := 0x30300000 + off

/-! ## GPIO (R668) -/

/-- SET and CLR act on OUT. -/
def gpioSet (m : Nat) (h : Hw) : Hw := h.setFld GPIO_OUT (h.fld GPIO_OUT ||| m)
def gpioClr (m : Nat) (h : Hw) : Hw := h.setFld GPIO_OUT (h.fld GPIO_OUT &&& (2 ^ 16 - 1 - m % 2 ^ 16))

/-- IN: a driven ball reads its OUT bit; the level the world gives an input is free. -/
def Hw.gpioIn (h : Hw) : Nat :=
  (List.range 16).foldl (fun v n => setBit v n (if h.fldBit GPIO_DIR n then h.fldBit GPIO_OUT n else (h.freeVal 16).testBit n)) 0

/-! ## Interrupt inputs of the host cores (R350, R559) -/

/-- The machine timer interrupt of core `k` is due: MTIME has reached its compare value, unsigned. -/
def Hw.timerDue (h : Hw) (k : Nat) : Bool := decide (h.fld (SYS_MTIMECMP_CMP k) ≤ h.fld SYS_MTIME)

/-- The machine timer lines follow MTIME and the compare registers. -/
def timerLines (h : Hw) : Hw :=
  (List.range 4).foldl (fun (h : Hw) k =>
    if (h.core k).mtip = h.timerDue k then h else h.setCore k { h.core k with mtip := h.timerDue k }) h

/-- The machine software interrupt of core `k`, and the external interrupt line of a context. -/
def Hw.msip (h : Hw) (k : Nat) : Bool := h.flag (SYS_MSIP k)
def Hw.extLine (h : Hw) (c : Nat) : Bool := (List.range 4).any fun w => h.fld (EVT_PEND c w) != 0

/-! ## Ball states (R648, R661, R665, R666) -/

/-- What a signal ball shows: nothing, an input with or without its pull, a level, an open drain that pulls low or is released,
the bits of a frame, an idle serial lane or one in use, or DDR4 signals held in reset, in self-refresh or in use. -/
inductive BallState where
  | highZ | input | pullDown | pullUp | serialIdle | serial | ddrReset | ddrRefresh | ddr
  | drive (high : Bool)
  | openDrain (low : Bool)
  | frame
  deriving DecidableEq, Repr

/-- Bits of SYS.SUPSTAT by supply. -/
def Hw.supplyOn (h : Hw) (i : Nat) : Bool := h.fldBit SYS_SUPSTAT_INRANGE i
def Hw.booted (h : Hw) : Bool := h.sys.boot == .up
/-- POWERDOWN (R644). -/
def Hw.poweredDown (h : Hw) : Bool := h.sys.down.isSome && h.flag SYS_STAT_PDDONE

def Hw.ballCanTx (h : Hw) (n : Nat) : BallState :=
  if !h.supplyOn 3 then .highZ
  else if h.booted && !h.poweredDown && h.flag (CAN_CTRL_EN n) && (h.ch n).arb.isSome then .frame else .drive true
def Hw.ballTpOut (h : Hw) (n : Nat) : BallState :=
  if !h.supplyOn 3 then .highZ else if !h.booted then .drive false else .drive (h.tpOut n)
def Hw.ballPlsOut (h : Hw) (n : Nat) : BallState :=
  if !h.supplyOn 3 then .highZ else if !h.booted then .drive false
  else if h.poweredDown then .drive (h.flag (PLS_OUT_CFG_POL n)) else .drive (h.pulsePin n)
def Hw.ballGpio (h : Hw) (n : Nat) : BallState :=
  if !h.supplyOn 3 then .highZ else if !h.booted then .pullDown
  else if h.fldBit GPIO_DIR n then .drive (h.fldBit GPIO_OUT n) else if h.fldBit GPIO_PULL_PD n then .pullDown else .input
/-- FOGHORN_N is low by hardware until stage 9. -/
def Hw.ballFoghorn (h : Hw) : BallState := .openDrain (h.fogLow || !h.booted)
/-- VCODE: a 1 is released, a 0 driven. -/
def Hw.ballVcode (h : Hw) (i : Nat) : BallState := .openDrain !((h.fld KEEP_VDD_CODE).testBit i)

/-- TCK, TMS and TDI; TRST_N and DBGEN. -/
def Hw.ballJtag (h : Hw) (up : Bool) : BallState := if !h.supplyOn 2 then .highZ else if up then .pullUp else .pullDown
/-- The DDR4 signals. -/
def Hw.ballDdr (h : Hw) : BallState :=
  if !h.supplyOn 4 then .highZ else if h.poweredDown then .ddrRefresh else if h.booted && (h.ddrTraining || h.flag MEM_DDRSTAT_READY
    || h.flag MEM_DDRSTAT_TFAIL) then .ddr else .ddrReset
/-- A SerDes lane of Ethernet port `p`, and the Rimon link's. -/
def Hw.ballEth (h : Hw) (p : Nat) : BallState :=
  if !h.supplyOn 6 then .highZ else if h.booted && !h.poweredDown && h.flag (PKT_P_CFG_EN p) then .serial else .serialIdle
def Hw.ballRim (h : Hw) : BallState :=
  if !h.supplyOn 6 then .highZ else if h.booted && !h.poweredDown && h.isDuplex then .serial else .serialIdle

/-! ## Meanings -/

def execSet (src : Src) (mask : BitVec 16) (s : State) : Host.Outcome State Fault Refusal :=
  .next (s.onHw fun h => h.onlyD0 src (gpioAddr 0xC) (gpioSet mask.toNat))
def execClr (src : Src) (mask : BitVec 16) (s : State) : Host.Outcome State Fault Refusal :=
  .next (s.onHw fun h => h.onlyD0 src (gpioAddr 0x10) (gpioClr mask.toNat))
def execMachineTimer (s : State) : Host.Outcome State Fault Refusal := .next (s.onHw timerLines)

end Sys2Proof.Machine
end

