-- ==== Sys2Proof/Machine/Tender.lean ====
section
/-! DEFINITION. The I/O translation unit, the Tender's channels and the memories as far as no data moves (09 R365-R368,
R381-R384, R390-R394): pins, bindings, invalidation, channel states, faults and errors, DDR4 training and patrol. -/

namespace Sys2Proof.Machine

def xltAddr (off : Nat) : Nat := 0x302D0000 + off
def tndAddr (off : Nat) : Nat := 0x302C0000 + off
def memAddr (off : Nat) : Nat := 0x302F0000 + off

/-! ## Bindings and pins -/

def Hw.chanDom (h : Hw) (n : Nat) : Nat := h.fld (XLT_CH_BIND_DOM n)
def Hw.chanAs (h : Hw) (n : Nat) : Nat := h.fld (XLT_CH_BIND_AS n)
def Hw.chanState (h : Hw) (n : Nat) : Nat := h.fld (TND_CH_STAT_STATE n)
def Hw.isFrameClass (h : Hw) (n : Nat) : Bool := h.fld (TND_CH_CFG_CLASS n) == 0

/-- A pin entry: first virtual page, address space, SIZE, rights, VALID, first physical page (R382). -/
structure Pin where
  vpn : Nat
  as : Nat
  size : Nat
  r : Bool
  w : Bool
  valid : Bool
  ppn : Nat
  deriving DecidableEq, Repr

def Hw.pin (h : Hw) (n : Nat) : Pin :=
  ⟨h.fld (XLT_PIN_VA_VPN n), h.fld (XLT_PIN_VA_AS n), h.fld (XLT_PIN_VA_SIZE n), h.flag (XLT_PIN_VA_R n), h.flag (XLT_PIN_VA_W n),
    h.flag (XLT_PIN_VA_VALID n), h.fld (XLT_PIN_PA_PPN n)⟩

def Pin.pages (p : Pin) : Nat := 2 ^ p.size
def Pin.aligned (p : Pin) : Bool := decide (p.size ≤ 9) && p.vpn % p.pages == 0 && p.ppn % p.pages == 0
def Pin.meets (p q : Pin) : Bool := p.as == q.as && decide (p.vpn < q.vpn + q.pages) && decide (q.vpn < p.vpn + p.pages)
def Pin.covers (p : Pin) (as vpn : Nat) : Bool := p.valid && p.as == as && decide (p.vpn ≤ vpn) && decide (vpn < p.vpn + p.pages)

/-- The entry as a write of one of its registers would make it. -/
def Pin.with_ (p : Pin) (pa : Bool) (v : Nat) : Pin :=
  if pa then { p with ppn := bits v 0 28 }
  else ⟨bits v 0 27, bits v 27 6, bits v 33 4, bitOf v 37, bitOf v 38, bitOf v 39, p.ppn⟩

/-- An address space is bound to an enabled frame-class channel. -/
def Hw.frameSpace (h : Hw) (as : Nat) : Bool :=
  (List.range 64).any fun n => h.chanAs n == as && h.isFrameClass n && h.flag (TND_CH_CFG_EN n)

/-- The cases in which a pin write is refused (R383): the alignment of the entry is checked whether it is in use or not. -/
def Hw.pinRefused (h : Hw) (n : Nat) (q : Pin) : Bool :=
  let p := h.pin n
  (p.valid && p != q && h.frameSpace p.as)
    || (q.valid && (List.range 256).any fun m => m != n && (h.pin m).valid && q.meets (h.pin m))
    || !q.aligned

/-- A write of PINn_VA or PINn_PA (R383). -/
def pinWrite (n : Nat) (pa : Bool) (v : Nat) (h : Hw) : Hw :=
  if h.pinRefused n ((h.pin n).with_ pa v) then ((h.setFlag XLT_STAT_PINREF true).setFld XLT_STAT_PINENT n).raise 205
  else h.regStore (xltAddr (0x1000 + 16 * n + if pa then 8 else 0)) v

/-- A write of CHn_BIND (R384, R396). -/
def bindWrite (n v : Nat) (h : Hw) : Hw :=
  if h.flag (TND_CH_CFG_EN n) then (if h.flag XLT_STAT_BINDREF then h else h.raise 206).setFlag XLT_STAT_BINDREF true
  else h.regStore (xltAddr (0x400 + 4 * n)) v

/-! ## Invalidation (R381) -/

def InvReq.hits (r : InvReq) (e : IotlbEntry) : Bool := (r.allas || e.asid == r.asid) && (r.allas || r.allva || e.vpn == r.vpn)

/-- XLT.INV with GO: the entries go at once; INVBUSY stands until their transactions have completed. -/
def xltInv (r : InvReq) (h : Hw) : Hw :=
  { h.setFlag XLT_STAT_INVBUSY true with iotlb := h.iotlb.filter fun e => !r.hits e, inv := some r }

def invDone (h : Hw) : Hw :=
  if h.flag XLT_STAT_INVBUSY then { (h.setFlag XLT_STAT_INVBUSY false).raise 204 with inv := none } else h

/-! ## What the ends of descriptors and chains bring to the blocks that asked for them -/

/-- A channel has become IDLE: landings that waited for it start (R411, R458). -/
def State.chanIdle (n : Nat) (s : State) : State := (s.landIdle n).canLandIdle n

/-- A chain has ended whole: landings complete, the datagram is built, filled objects are requested (R394, R412, R416, R459). -/
def State.chainEnd (n : Nat) (failed : Bool) (s : State) : State :=
  let s := (s.landDone n failed).canLandDone n failed
  (s.buildDone n).onHw fun h => h.fillDone n

/-- A chain is stopped: nothing of its message is sent or arrives. -/
def State.chainStop (n : Nat) (s : State) : State :=
  let s := s.onHw fun h => (List.range 8).foldl (fun h k =>
    if h.fld (CAN_RIO_CFG_OCHAN k) == n then h.setCh k { h.ch k with fill := [], filled := [] } else h) (h.buildFault n)
  s.chainEnd n true

/-! ## Channel states (R390, R393, R399) -/

def Hw.setChanState (h : Hw) (n st : Nat) : Hw := h.setFld (TND_CH_STAT_STATE n) st

/-- ABORT, or EN written 0: the channel stops, PEND clears. -/
def State.chanStop (n tgt : Nat) (s : State) : State :=
  let busy := s.hw.chanState n == chActive || s.hw.chanState n == chPaused || s.hw.chanState n == chError
  let s := s.onHw fun h => ((h.setFlag (TND_CH_STAT_PEND n) false).setChanState n tgt).setChan n TChan.reset
  let s := if busy then s.chainStop n else s
  if tgt = chIdle then s.chanIdle n else s

/-- The channel's EN and TND.CTRL.EN together: EN = 1 takes it from DISABLED to IDLE, EN = 0 stops it. -/
def State.chanEnable (n : Nat) (s : State) : State :=
  let on := s.hw.flag TND_CTRL_EN && s.hw.flag (TND_CH_CFG_EN n)
  if on && s.hw.chanState n == chDisabled then (s.onHw fun h => h.setChanState n chIdle).chanIdle n
  else if !on && s.hw.chanState n != chDisabled then s.chanStop n chDisabled
  else s

/-- A write of TND.CTRL. -/
def State.tenderEn (on : Bool) (s : State) : State :=
  (List.range 64).foldl (fun s n => s.chanEnable n) (s.onHw fun h => h.setFlag TND_CTRL_EN on)

/-- A write of CHn_CFG (R390, R393): whole while the channel is DISABLED, and EN = 0 at any time. -/
def State.channelCfg (n v : Nat) (s : State) : State :=
  if s.hw.chanState n ≠ chDisabled then
    if bitOf v 0 then s else (s.onHw fun h => h.setFlag (TND_CH_CFG_EN n) false).chanEnable n
  else (s.onHw fun h => h.regStore (tndAddr (0x1000 + 0x40 * n)) v).chanEnable n

/-- A write of CHn_DESC: only while the channel is DISABLED (R393); [4:0] read 0 (R399). -/
def descWrite (n v : Nat) (h : Hw) : Hw := if h.chanState n = chDisabled then h.setFld (TND_CH_DESC n) (v / 32 * 32) else h

/-- A trigger (R390); a lost one raises E203. -/
def tndTrigger (n : Nat) (h : Hw) : Hw := h.trigger (fun h => h.raise 203) n

/-- START, RESUME and ABORT are taken from D0 or from the channel's domain (R393). -/
def State.chanCmd (src : Src) (n : Nat) (f : State → State) (s : State) : State :=
  if isD0 src || s.hw.chanDom n == src.dom.toNat then f s
  else s.onHw fun h => h.refuseReg src (tndAddr (0x1010 + 0x40 * n))

def Hw.chanRef (h : Hw) (n : Nat) : Hw := h.setFlag (TND_CH_STAT_CMDREF n) true

/-- RESUME (R393): the descriptor goes on at FOFF and is translated again. -/
def tndResume (n : Nat) (h : Hw) : Hw :=
  if h.chanState n = chPaused then (h.setChanState n chActive).setChan n { h.chan n with fail := none } else h.chanRef n

/-- ABORT (R390, R393). -/
def State.tndAbort (n : Nat) (s : State) : State :=
  if s.hw.chanState n = chIdle ∨ s.hw.chanState n = chDisabled then s.onHw fun h => h.chanRef n else s.chanStop n chIdle

/-! ## Faults and errors (R391, R392, R394) -/

def TKindF.code : TKindF → Nat
  | .none => 0 | .invalidPte => 1 | .right => 2 | .adClear => 3 | .nopin => 4 | .violation => 5 | .uncorrectable => 6
  | .timeout => 7 | .format => 8

/-- Kinds of a translation fault (R380, R382). -/
def TKindF.isTranslation : TKindF → Bool
  | .invalidPte | .right | .adClear | .nopin => true
  | _ => false

/-- FDESC, FVA, FOFF and FINFO. -/
def Hw.recordFail (h : Hw) (n : Nat) (f : TFail) : Hw :=
  let c := h.chan n
  let h := ((h.setFld (TND_CH_FDESC n) c.daddr).setFld (TND_CH_FVA n) f.va).setFld (TND_CH_FOFF n) c.off
  ((h.setFld (TND_CH_FKIND_KIND n) f.kind.code).setFlag (TND_CH_FKIND_SIDE n) f.dst).setFlag (TND_CH_FKIND_DFETCH n) f.dfetch

/-- The next descriptor of a chain, or what follows its end: a pending trigger, or IDLE (R390). -/
def State.chainNext (n next : Nat) (failed : Bool) (s : State) : State :=
  if next ≠ 0 then s.onHw fun h => h.setChan n ⟨next, none, 0, none, [], []⟩
  else
    let s := s.onHw fun h => (h.setChanState n chIdle).setChan n TChan.reset
    let s := s.chainEnd n failed
    if s.hw.flag (TND_CH_STAT_PEND n) then
      s.onHw fun h => if h.chanState n = chIdle then (h.setFlag (TND_CH_STAT_PEND n) false).chainStart n else h
    else s.chanIdle n

/-- The virtual page of an address in its low 39 bits, `none` where the higher bits do not extend bit 38 (R379). -/
def vpnOf (va : Nat) : Option Nat := if va < 2 ^ 38 ∨ 2 ^ 64 - 2 ^ 38 ≤ va then some (bits va 12 27) else none

/-- The pin that covers an address (R382). -/
def Hw.pinFor (h : Hw) (as va : Nat) : Option Pin :=
  (vpnOf va).bind fun v => ((List.range 256).map h.pin).find? fun p => p.covers as v

/-- The physical address under a pin. -/
def Pin.phys (p : Pin) (va : Nat) : Nat := (p.ppn + (bits va 12 27 - p.vpn)) * 4096 + va % 4096

/-- The point of the NEXT view at a physical address. -/
def nextPointAt (a : Nat) : List Nat := if 0x21100000 ≤ a ∧ a < 0x21200000 then [(a - 0x21100000) / 8] else []

/-- Points that the rest of a frame-class channel's descriptor would have landed (R394). -/
def Hw.pointsLeft (h : Hw) (n : Nat) : List Nat :=
  let c := h.chan n
  match c.desc with
  | none => []
  | some d =>
    if d.dq then []
    else ((List.range ((d.len - c.off + 7) / 8)).map fun i =>
      let va := if d.dfix then d.dst else (d.dst + c.off + 8 * i) % 2 ^ 64
      match h.pinFor (h.chanAs n) va with
      | some p => nextPointAt (p.phys va)
      | none => []).flatten.eraseDups

/-- A frame-class channel in a fault (R394): the fields, the frame fault of cause 1 with the channel in PARAM, COMMFAIL for the
points from FOFF on of a destination in the image, and on with NEXT; a NEXT that R388 refuses leads nowhere. -/
def State.frameClassFault (n : Nat) (f : TFail) (s : State) : State :=
  let next := ((s.hw.chan n).desc.map (·.next)).getD 0
  let s := s.onHw fun h =>
    let ps := h.pointsLeft n
    let h := (h.recordFail n f).frameFault 1 15 (n * 2 ^ 32 + 2 ^ 38)
    { h with img := { h.img with commFail := h.img.commFail ++ ps } }
  let s := s.onHw fun h => (h.buildFault n).fillStep n true
  s.chainNext n (if next % 32 = 0 then next else 0) true

/-- A translation fault pauses a channel of class 1-3 (R392). -/
def Hw.chanPause (h : Hw) (n : Nat) (f : TFail) : Hw :=
  (((h.recordFail n f).countS TND_FLTCNT_COUNT TND_FLTCNT_SAT 203 1).raise 201).setChanState n chPaused

/-- An error ends a channel of class 1-3 in ERROR (R391). -/
def Hw.chanError (h : Hw) (n : Nat) (f : TFail) : Hw :=
  (((h.recordFail n f).countS TND_ERRCNT_COUNT TND_ERRCNT_SAT 203 1).raise 202).setChanState n chError

/-! ## DDR4 and SRAM (R365-R368) -/

/-- DDRCFG.INIT (R362, R367): training starts, and no DDR4 address is mapped until it succeeds. SIZE 0 starts none. -/
def ddrInit (h : Hw) : Hw :=
  if h.fld MEM_DDRCFG_SIZE = 0 then h
  else { (h.setFlag MEM_DDRSTAT_READY false).setFlag MEM_DDRSTAT_TFAIL false with ddrTraining := true }

/-- Training ends: the size that DDRCFG.SIZE names is the fitted one (R362, R367). -/
def ddrTrainingDone (ok : Bool) (h : Hw) : Hw :=
  if h.ddrTraining then
    let h := { h with ddrTraining := false, ddrFit := h.fld MEM_DDRCFG_SIZE }
    (h.setFlag (if ok then MEM_DDRSTAT_READY else MEM_DDRSTAT_TFAIL) true).raise 218
  else h

/-- A patrol pass ends (R365, R367, R368): what it corrected and what it found uncorrectable. A patrol that is off ends
nothing. -/
def scrubPass (ddr : Bool) (corrected : Nat) (ues : List Nat) (h : Hw) : Hw :=
  if (if ddr then h.flag MEM_SCRUB_DDREN && h.flag MEM_DDRSTAT_READY else h.flag MEM_SCRUB_SRAMEN) then
    (ues.foldl (fun h a => h.memUe ddr a) (h.memCorrected ddr corrected)).raise 222
  else h

/-! ## Meanings -/

def execDdrInit (_ : Src) (s : State) : Host.Outcome State Fault Refusal := .next (s.onHw ddrInit)
def execDdrTrainingDone (ok : Bool) (s : State) : Host.Outcome State Fault Refusal := .next (s.onHw (ddrTrainingDone ok))
def execScrubPass (ddr : Bool) (corrected : BitVec 31) (ues : List (BitVec 40)) (s : State) : Host.Outcome State Fault Refusal :=
  .next (s.onHw (scrubPass ddr corrected.toNat (ues.map (·.toNat))))
def execXltInv (src : Src) (vpn : BitVec 27) (as : BitVec 6) (allva allas : Bool) (s : State) : Host.Outcome State Fault Refusal :=
  .next (s.onHw fun h => h.onlyD0 src (xltAddr 8) (xltInv ⟨vpn.toNat, as.toNat, allva, allas⟩))
def execInvDone (s : State) : Host.Outcome State Fault Refusal := .next (s.onHw invDone)
def execPinWrite (src : Src) (n : Fin 256) (pa : Bool) (val : BitVec 64) (s : State) : Host.Outcome State Fault Refusal :=
  .next (s.onHw fun h => h.onlyD0 src (xltAddr (0x1000 + 16 * n.val + if pa then 8 else 0)) (pinWrite n.val pa val.toNat))
def execBindWrite (src : Src) (n : Fin 64) (val : BitVec 32) (s : State) : Host.Outcome State Fault Refusal :=
  .next (s.onHw fun h => h.onlyD0 src (xltAddr (0x400 + 4 * n.val)) (bindWrite n.val val.toNat))
def execTenderEn (_ : Src) (on : Bool) (s : State) : Host.Outcome State Fault Refusal := .next (s.tenderEn on)
def execChannelEn (src : Src) (n : Fin 64) (cfg : BitVec 32) (s : State) : Host.Outcome State Fault Refusal :=
  .next (if isD0 src then s.channelCfg n.val cfg.toNat else s.onHw fun h => h.refuseReg src (tndAddr (0x1000 + 0x40 * n.val)))
def execTndStart (n : Fin 64) (trig : Trigger) (s : State) : Host.Outcome State Fault Refusal :=
  .next (match trig with
    | .cmd src => s.chanCmd src n.val fun s => s.onHw (tndTrigger n.val)
    | .event => s.onHw fun h => if h.flag (TND_CH_CFG_TRIGEN n.val) then tndTrigger n.val h else h
    | .request => s.onHw (Hw.request n.val))
def execTndResume (src : Src) (n : Fin 64) (s : State) : Host.Outcome State Fault Refusal :=
  .next (s.chanCmd src n.val fun s => s.onHw (tndResume n.val))
def execTndAbort (src : Src) (n : Fin 64) (s : State) : Host.Outcome State Fault Refusal :=
  .next (s.chanCmd src n.val fun s => s.tndAbort n.val)

end Sys2Proof.Machine
end

