-- ==== Sys2Proof/Machine/Regs.lean ====
section
/-! DEFINITION. Register accesses (00 R3, R6-R8; 09 R372): for every block, who may write it and what a write of each
register does beyond its access codes; what a read returns; the widths and the halves of 64-bit registers. -/

namespace Sys2Proof.Machine

/-- Base address of a block of the register region (R364). -/
def blockBase (k : Nat) : Nat := 0x30000000 + k * 0x10000

/-- The number of a register in an array of `n` registers from `base` on, `st` apart, and the offset within its group. -/
def within (off base st n : Nat) : Option (Nat × Nat) :=
  if base ≤ off ∧ off < base + st * n then some ((off - base) / st, (off - base) % st) else none

/-- The plain effect of a write (R3). -/
def Hw.plain (k off v : Nat) (h : Hw) : Hw := h.regStore (blockBase k + off) v

/-! ## Who may write -/

/-- The writers a block allows at an offset, beside the rules of the register itself: any, D0, M4, D0 or a channel's domain. -/
inductive Writers where
  | any | d0 | m4 | canDom (n : Nat)
  deriving DecidableEq, Repr

/-- Who may write at an offset of a block, whether a register stands there or not: SYS R650, KEEP R623, EVT R559 and R577, LOG R578,
FRM R95, IMG R80, FRC R178, MTR R292, BIL R343, PLS R344, PKT R438, MOR R431, CAN R461, TIM R481, NVM R527, KEY R555, WCH R598,
TND R393, XLT R384, GPIO R668. -/
def regWriters (k off : Nat) : Writers :=
  match k with
  | 0x00 | 0x14 | 0x15 | 0x16 | 0x18 | 0x28 | 0x2B | 0x2D | 0x30 => .d0
  | 0x01 => if off = 0 ∨ off = 8 then .d0 else .m4
  | 0x02 => if 0x100 ≤ off ∧ off < 0x1000 then .d0 else if 0x9000 ≤ off then .m4 else .any
  | 0x03 => if off = 0 ∨ off = 0x20 ∨ (0x2000 ≤ off ∧ off < 0x3000) then .d0 else .any
  | 0x04 => if off = 0x34 then .m4 else .any
  | 0x05 => if 0x1000 ≤ off ∧ off < 0x1400 then .d0 else .any
  | 0x06 => if off = 0 then .d0 else .any
  | 0x19 => if off = 0x10 then .m4 else .any
  | 0x29 => if off = 0x70 ∨ off = 0x74 then .m4 else .d0
  | 0x2A => if off = 8 ∨ (0x10 ≤ off ∧ off < 0x20) then .any
    else match within off 0x5000 0x20 8 with
      | some (_, r) => if r = 0 ∨ (8 ≤ r ∧ r ≤ 0x10) then .any else .d0
      | none => .d0
  | 0x2C => match within off 0x1000 0x40 64 with
    | some (_, r) => if r = 0 ∨ (8 ≤ r ∧ r < 0x10) then .d0 else .any
    | none => .any
  | _ =>
    if 0x20 ≤ k ∧ k < 0x28 then
      if off = 0 ∨ off = 0xC ∨ off = 0x10 ∨ off = 0x14 ∨ (0x40 ≤ off ∧ off < 0x180) then .d0
      else match within off 0x1000 0x80 128 with
        | some (_, r) => if r = 0x18 then .d0 else .canDom (k - 0x20)
        | none => .canDom (k - 0x20)
    else .any

/-- Whether a command may write there. -/
def Hw.mayWrite (h : Hw) (src : Src) (k off : Nat) : Bool :=
  match regWriters k off with
  | .any => true
  | .d0 => isD0 src
  | .m4 => isKeeper src
  | .canDom n => isD0 src || src.dom.toNat == h.fld (CAN_CTRL_DOM n)

/-! ## Writes, block by block -/

/-- SYS (R650): D0. A SWITCH that comes as a register write finds no UNCORRECTABLE line (the row SLOT_SWITCH says whether one
is found). -/
def sysWrite (off v : Nat) (h : Hw) (src : Src) : Hw :=
  match off with
  | 0x4 => if bitOf v 0 then rstCmd src (bitOf v 1) h else h
  | 0x18 =>
    let h := if bitOf v 0 then bootConfirm h else h
    let h := if bitOf v 1 then slotSwitch false h else h
    if bitOf v 2 then coldNow h else h
  | 0x20 => wdCfg (bitOf v 0) (bits v 1 16) h
  | 0x24 => wdKick (bits v 0 16) h
  | 0x34 => fogMask (bits v 4 3) h
  | 0x38 => fogSw (bitOf v 0) h
  | _ => timerLines (h.plain 0 off v)

/-- KEEP (R623): CTRL and CMD by D0, every other register by M4. -/
def State.keepWrite (off v : Nat) (s : State) : State :=
  match off with
  | 0 => s.onHw fun h => (h.plain 1 off v).keepNext
  | 8 => s.onHw fun h =>
      match bits v 0 3 with
      | 1 => keepPlan h
      | 2 => h.setFld KEEP_CMD_OP 2
      | 3 => keepAccept h
      | 4 => keepUnretire (bits v 3 5) h
      | _ => h.setFlag KEEP_STAT_CMDREF true
  | _ => s.onHw (Hw.plain 1 off v)

/-- EVT (R559, R577): ROUTEn and SWDOMn by D0; context 8 by M4 alone. -/
def State.evtWrite (src : Src) (off v : Nat) (s : State) : State :=
  if off = 0 then s.onHw fun h => if bitOf v 31 then swRaise src (bits v 0 5) h else h
  else if 0x100 ≤ off ∧ off < 0x1000 then s.onHw (Hw.plain 2 off v)
  else if 0x9000 ≤ off then s.onHw (Hw.plain 2 off v)
  else s.onHw (Hw.plain 2 off v)

/-- LOG (R578): CTRL, CLRKEY and RLIMc by D0. -/
def State.logRegWrite (src : Src) (off v : Nat) (s : State) : State :=
  if off = 0 ∨ off = 0x20 ∨ (0x2000 ≤ off ∧ off < 0x3000) then s.onHw (Hw.plain 3 off v)
  else if off = 0x28 then s.onHw fun h => if bitOf v 63 then logClear src (bits v 0 40) h else h.plain 3 off v
  else if off = 0x48 then s.onHw fun h => if bitOf v 31 then logWrite src (bits v 0 10) (bits v 10 3) h else h
  else match within off 0x4000 0x1000 8 with
    | some (p, 4) => s.onHw fun h => if bitOf v 0 then logNext src p h else h
    | _ => s.onHw (Hw.plain 3 off v)

/-- FRM (R104). -/
def State.frmWrite (src : Src) (off v : Nat) (s : State) : State :=
  match off with
  | 0 => s.onHw fun h => frmCommission src (bitOf v 2) ((frmRun (bitOf v 0) h).setFlag FRM_CTRL_ALIGN (bitOf v 1))
  | 0x20 => s.onHw (admCommand (bits v 0 4) (bits v 4 5) (bits v 9 3) (bits v 12 1) src)
  | 0x34 => s.onHw fun h =>
      let h := h.plain 4 off (v / 2 * 2)
      if bitOf v 0 then (h.krqWrite (bitOf v 4) (bits v 1 3) (bits v 5 1)).requestOutcome else h
  | _ =>
    match within off 0x200 0x10 10 with
    | some (i, 8) => s.onHw fun h => h.setFld (FRM_TL_MAX i) 0
    | _ => s.onHw (Hw.plain 4 off v)

/-- IMG (R105): ZOWN by D0. -/
def State.imgWrite (off v : Nat) (s : State) : State :=
  if off = 0 then s.onHw fun h => if bitOf v 0 then layoutLoad h else h
  else match within off 0x1000 4 256 with
    | some (n, _) => s.onHw (zownWrite n v)
    | none => s.onHw (Hw.plain 5 off v)

/-- FRC (R205): CTRL by D0, entries by R178. -/
def State.frcWrite (src : Src) (off v : Nat) (s : State) : State :=
  if off = 0 then s.onHw (Hw.plain 6 off v)
  else match within off 0x8000 8 4096 with
    | some (n, _) => s.onHw (forceWrite src n v)
    | none => s.onHw (Hw.plain 6 off v)

/-- RIO (R206): EN and the station entries wait for F+0. -/
def rioWrite (off v : Nat) (h : Hw) : Hw :=
  if off = 0 then stationSupervision (bitOf v 0) h
  else match within off 0x4000 0x20 1536 with
    | some (n, 0) => stationWrite n false v h
    | some (n, 8) => stationWrite n true v h
    | _ => h.plain 7 off v

/-- LPEm (R241). A generator's configuration is closed while it is ACTIVE (R228). -/
def lpeWrite (src : Src) (m off v : Nat) (h : Hw) : Hw :=
  let k := 0x10 + m
  if off = 0 then injEn m (bitOf v 0) (h.setFlag (LPE_CTRL_CAPEN m) (bitOf v 1))
  else if off = 0x40 then (if bitOf v 31 then stgGo src m v h else h.plain k off v)
  else match within off 0x100 0x20 4, within off 0x200 0x10 4 with
    | some (i, r), _ =>
      let live := h.flag (LPE_INJ_CTRL_ACTIVE m i)
      if r ≠ 0 then (if live then h else h.plain k off v)
      else
        let h := if bitOf v 18 then h.setFlag (LPE_INJ_CTRL_DONE m i) false else h
        let h := if live then h else h.plain k off (v - bits v 16 1 * 2 ^ 16 - bits v 18 1 * 2 ^ 18)
        let h := if bitOf v 16 then injArm m i h else h
        if bitOf v 19 then injAbort m i h else h
    | none, some (i, 0) =>
      let old := h.fld (LPE_CAP_CTRL_SLOT m i)
      let h := (h.plain k off (v - bits v 13 1 * 2 ^ 13)).showSlot m old
      let h := h.showSlot m (h.fld (LPE_CAP_CTRL_SLOT m i))
      if bitOf v 13 then capArm m i h else h
    | _, _ => h.plain k off v

/-- DPE (R277). -/
def dpeWrite (off v : Nat) (h : Hw) : Hw :=
  match off with
  | 0 => dpeEn (bitOf v 0) (h.plain 0x12 off (v / 2 * 2 + h.fld DPE_CTRL_EN))
  | 4 =>
    match bits v 0 4 with
    | 1 => dpeLoad true h
    | 2 => dpeLoad false h
    | 3 => dpeSolve h
    | 4 => dpeAbort h
    | 5 => dpeUnload h
    | _ => h.dRefuse
  | 0x18 => scfgWrite v h
  | 0x1C => capsWrite v h
  | _ => h.plain 0x12 off v

/-- MTR (R292): D0. -/
def mtrWrite (off v : Nat) (h : Hw) : Hw :=
  if off = 0 then mtrCtrl v h
  else if off = 8 then (if bitOf v 32 then calApply (BitVec.ofNat 32 v) h else h)
  else match within off 0x600 0x20 8 with
    | some (f, 0) => feederCfg f v h
    | _ => match within off 0x100 0x20 32 with
      | some (n, 0) => chanCfg n v h
      | _ => h.plain 0x14 off v

/-- BIL (R343): D0. A write of TSWn_CTL clears SKIPPED. -/
def bilWrite (off v : Nat) (h : Hw) : Hw :=
  if off = 8 then
    let h := if bitOf v 0 then bilClear h else h
    let h := if bitOf v 1 then h.saveDue h.nt else h
    if bitOf v 2 then gapClear h else h
  else if off = 0xC then saveCfg (bits v 0 12) (bits v 12 12) h
  else if off = 0x20 then (if bitOf v 9 then snap (BitVec.ofNat 8 v) (bitOf v 8) h else h)
  else match within off 0x100 0x10 16, within off 0xC000 0x10 1024 with
    | some (i, r), _ =>
      let h := h.plain 0x15 off v
      if r = 8 then h.setFlag (BIL_TSW_CTL_SKIPPED i) false else h
    | none, some (c, r) => heatCfg c (r / 4) v h
    | none, none => h.plain 0x15 off v

/-- PLS (R344): D0. -/
def plsWrite (off v : Nat) (h : Hw) : Hw :=
  match within off 0x400 0x20 8 with
  | some (n, 0) => pulseOutCfg n v h
  | some (n, 4) => (h.pulseClear n).plain 0x16 off v
  | _ => h.plain 0x16 off v

/-- PKT (R438): D0. -/
def pktWrite (off v : Nat) (h : Hw) : Hw :=
  match within off 0x4000 0x20 1536 with
  | some (n, r) => if r < 0x18 then pktStationWrite n (r / 8) v h else h.plain 0x18 off v
  | none => h.plain 0x18 off v

/-- MOR (R431, R435, R439). -/
def State.morWrite (src : Src) (off v : Nat) (s : State) : State :=
  if off = 8 then s.onHw (morBanken v)
  else if off = 0x10 then s.onHw fun h =>
    if bitOf v 31 then morQcell (bits v 16 2) (bits v 0 16) h else h.plain 0x19 off v
  else match within off 0x1000 0x40 64 with
    | some (q, 0x4) => s.onHw fun h => if bitOf v 0 then morFlush q h else h
    | some (q, 0x8) => s.onHw fun h => h.queueOp src q 0x8 fun h => if bitOf v 0 then h.qBegin q src.master.val else h
    | some (q, 0xC) => s.onHw fun h => h.queueOp src q 0xC fun h =>
        if bitOf v 11 then h.qEnd q src.master.val (bits v 0 8) (bits v 8 3) else h
    | some (q, 0x10) => s.onHw fun h => h.queueOp src q 0x10 fun h => h.qPush q src.master.val (BitVec.ofNat 64 v)
    | _ => s.onHw (Hw.plain 0x19 off v)

/-- CANn (R441-R461): CTRL, timing, SYNC, RIO registers and OBJm_RIO by D0; every other register by D0 or the channel's
domain. -/
def State.canWrite (n off v : Nat) (s : State) : State :=
  let k := 0x20 + n
  if off = 0 then s.onHw fun h =>
    let h := ((h.setFld (CAN_CTRL_EN n) (bits v 0 1)).setFld (CAN_CTRL_FDEN n) (bits v 3 1)).setFld (CAN_CTRL_COLLSTOP n) (bits v 4 1)
    canMode n (bits v 1 2) (h.setFld (CAN_CTRL_DOM n) (bits v 8 8))
  else if off = 0xC ∨ off = 0x10 then s.onHw (timingWrite n (off == 0x10) v)
  else if off = 0x14 ∨ (0x40 ≤ off ∧ off < 0x180) then s.onHw (Hw.plain k off v)
  else match within off 0x1000 0x80 128 with
    | some (m, 0x18) => s.onHw (objectWrite n m 6 v)
    | some (m, r) => s.onHw (objectWrite n m (r / 4) v)
    | none => s.onHw fun h =>
        if off = 0x280 then
          let h := if bitOf v 0 then fifoPush n h else h
          if bitOf v 1 then fifoFlush n h else h
        else h.plain k off v

/-- TIM (R481): D0. A change of CTRL.EN changes RE. -/
def timWrite (src : Src) (off v : Nat) (h : Hw) : Hw :=
  match off with
  | 0 => h.rechange (Hw.plain 0x28 off v)
  | 8 =>
    let h := match bits v 0 3 with
      | 1 => timLock src h
      | 2 => timLocked src h
      | 3 => timHold src h
      | 4 => timRelock src h
      | 5 => timFree src h
      | 6 => timStep src h
      | 7 => h.servoWrite
      | _ => h
    if bitOf v 3 then timCapt h else h
  | 0x30 => rateWrite (BitVec.ofNat 32 v) h
  | 0x3C => if bitOf v 31 then slewGo (bits v 0 24) h else h.plain 0x28 off v
  | _ =>
    match within off 0x400 0x40 16 with
    | some (n, 0) =>
      let h := if bitOf v 0 then tpArm n v h
        else if h.flag (TIM_TP_STAT_ACTIVE n) && bitOf v 1 then h
        else if h.flag (TIM_TP_STAT_ACTIVE n) then h.tpRefuse n
        else h.plain 0x28 off v
      if bitOf v 1 then tpStop n h else h
    | some (n, r) =>
      if h.flag (TIM_TP_STAT_ACTIVE n) && decide (8 ≤ r ∧ r < 0x24) then h.tpRefuse n else h.plain 0x28 off v
    | none => h.plain 0x28 off v

/-- NVM (R527): D0, CCMD and CREF by M4. PACE 0 reads as 1, HELDLEN is at most 16,384 in whole lines of 16 bytes (log entry 194,
DESIGN CHOICE). -/
def State.nvmRegWrite (off v : Nat) (s : State) : State :=
  match off with
  | 0x70 => s.onHw fun h => if bitOf v 31 then compactRequest (bits v 0 8) (bitOf v 8) h else h.plain 0x29 off v
  | 0x74 => s.onHw fun h => if bitOf v 31 then codeRefresh (bits v 0 10) false h else h.plain 0x29 off v
  | 0x18 => s.onHw fun h =>
      if bitOf v 31 then nvmWrite s.mem (bits v 0 13) (bitOf v 13) (bitOf v 14) h else h.plain 0x29 off v
  | 0x48 => s.onHw fun h => if bitOf v 0 then nvmRead h else h
  | 0x78 => s.onHw (cntinc (bits v 0 4))
  | 0 => s.onHw fun h => (h.plain 0x29 off v).setFld NVM_CTRL_PACE (max 1 (bits v 8 8))
  | 0x64 => s.onHw fun h => h.setFld NVM_HELDLEN (min 16384 (bits v 0 15 / 16 * 16))
  | _ => s.onHw (Hw.plain 0x29 off v)

/-- KEY.CMD with GO (R539, R540): any other OP is refused with FORMAT. RECOVER as a register write finds TAMPER_N high (the row
RECOVER carries the pin's level). -/
def keyCmd (mem : List Host.Cell) (src : Src) (op node parent : Nat) (h : Hw) : Hw :=
  match op with
  | 1 => keyCreate mem src node parent h
  | 2 => keyChange 2 16 src node h
  | 3 => keyChange 3 16 src node h
  | 4 => keyChange 4 272 src node h
  | 5 => keyReenrol src h
  | 6 => keyRecover src false h
  | 7 => keyAnchor src h
  | _ => keyRefuse .format h

/-- A write of KEY.Sn_ATTR (R528, R551): refused in RUN. -/
def slotAttr (off v : Nat) (h : Hw) : Hw := if h.keyMode = keyRun then h.selRefuse else h.plain 0x2A off v

/-- KEY (R544, R551, R555): commands and engines by the domains that R539 and R544 allow, the rest by D0. -/
def State.keyWrite (src : Src) (off v : Nat) (s : State) : State :=
  match off with
  | 0 => s.onHw (modeWrite (bits v 0 2))
  | 8 => s.onHw fun h => if bitOf v 31 then keyCmd s.mem src (bits v 0 4) (bits v 4 10) (bits v 14 10) h else h
  | 0x10 => s.onHw (Hw.plain 0x2A off v)
  | 0x18 => s.onHw (Hw.plain 0x2A off v)
  | 0x6120 => s.onHw (slotWrite (bits v 0 6))
  | _ =>
    match within off 0x5000 0x20 8, within off 0x6100 4 8 with
    | some (e, 0), _ => s.onHw (engSel src e (bits v 0 10))
    | some (e, 8), _ => s.onHw fun h => h.setFld (KEY_ENG_JOB e) (v / 64 * 64)
    | some (e, 0x10), _ => s.onHw fun h => if bitOf v 0 then jobSubmit s.mem src e h else h
    | _, some (i, _) => s.onHw fun h => h.setFld (KEY_SVAL i) v
    | _, none => if 0x6000 ≤ off ∧ off < 0x6100 then s.onHw (slotAttr off v) else s.onHw (Hw.plain 0x2A off v)

/-- WCH (R591, R598): D0. A CKCFG period outside 250-60,000 leaves the register. -/
def wchWrite (off v : Nat) (h : Hw) : Hw :=
  match off with
  | 0 => watchCtrl v h
  | 4 =>
    match bits v 0 2 with
    | 1 => watchSwitch h
    | 2 => watchJoin h
    | 3 => cknow h
    | _ => h.watchRefuse
  | 0x14 => if 250 ≤ bits v 0 16 ∧ bits v 0 16 ≤ 60000 then h.plain 0x2B off v else h
  | _ => h.plain 0x2B off v

/-- TND (R393, R399): CFG and DESC by D0, CMD by D0 or the channel's domain. In one write START acts first; ABORT is taken
before RESUME. -/
def State.tndWrite (src : Src) (off v : Nat) (s : State) : State :=
  if off = 0 then s.tenderEn (bitOf v 0)
  else match within off 0x1000 0x40 64 with
    | some (n, 0) => s.channelCfg n v
    | some (n, 8) => s.onHw (descWrite n v)
    | some (n, 0x10) => s.chanCmd src n fun s =>
        let s := if bitOf v 0 then s.onHw (tndTrigger n) else s
        if bitOf v 2 then s.tndAbort n else if bitOf v 1 then s.onHw (tndResume n) else s
    | _ => s.onHw (Hw.plain 0x2C off v)

/-- XLT (R384): D0. -/
def xltWrite (off v : Nat) (h : Hw) : Hw :=
  if off = 8 then (if bitOf v 35 then xltInv ⟨bits v 0 27, bits v 27 6, bitOf v 33, bitOf v 34⟩ h else h)
  else match within off 0x400 4 64, within off 0x1000 16 256 with
    | some (n, _), _ => bindWrite n v h
    | none, some (n, r) => pinWrite n (r == 8) v h
    | none, none => h.plain 0x2D off v

/-- ACT (R375, R376). -/
def actRegWrite (src : Src) (off v : Nat) (h : Hw) : Hw :=
  match off with
  | 0 => actCtrl src (some (bitOf v 0)) (bitOf v 1) h
  | 0xC => h.actWriter src off (actCmd (bitOf v 0) (bitOf v 1))
  | _ => h.actWriter src off (Hw.plain 0x2E off v)

/-- MEM (R367, R400). -/
def memRegWrite (off v : Nat) (h : Hw) : Hw :=
  let h := h.plain 0x2F off v
  if off = 0 ∧ bitOf v 6 = true then ddrInit h else h

/-- GPIO (R668): D0. -/
def gpioWrite (off v : Nat) (h : Hw) : Hw :=
  match off with
  | 0xC => gpioSet v h
  | 0x10 => gpioClr v h
  | _ => h.plain 0x30 off v

/-- A write of a whole register by a writer the block allows: the block's own rules, then the access codes. -/
def State.blockPut (src : Src) (k off v : Nat) (s : State) : State :=
  match k with
  | 0x00 => s.onHw fun h => sysWrite off v h src
  | 0x01 => s.keepWrite off v
  | 0x02 => s.evtWrite src off v
  | 0x03 => s.logRegWrite src off v
  | 0x04 => s.frmWrite src off v
  | 0x05 => s.imgWrite off v
  | 0x06 => s.frcWrite src off v
  | 0x07 => s.onHw (rioWrite off v)
  | 0x10 => s.onHw (lpeWrite src 0 off v)
  | 0x11 => s.onHw (lpeWrite src 1 off v)
  | 0x12 => s.onHw (dpeWrite off v)
  | 0x14 => s.onHw (mtrWrite off v)
  | 0x15 => s.onHw (bilWrite off v)
  | 0x16 => s.onHw (plsWrite off v)
  | 0x18 => s.onHw (pktWrite off v)
  | 0x19 => s.morWrite src off v
  | 0x28 => s.onHw (timWrite src off v)
  | 0x29 => s.nvmRegWrite off v
  | 0x2A => s.keyWrite src off v
  | 0x2B => s.onHw (wchWrite off v)
  | 0x2C => s.tndWrite src off v
  | 0x2D => s.onHw (xltWrite off v)
  | 0x2E => s.onHw (actRegWrite src off v)
  | 0x2F => s.onHw (memRegWrite off v)
  | 0x30 => s.onHw (gpioWrite off v)
  | _ => if 0x20 ≤ k ∧ k < 0x28 then s.canWrite (k - 0x20) off v else s.onHw (Hw.plain k off v)

/-- A write by a master the block does not allow there is an access violation (R34). -/
def State.asWriter (src : Src) (k off : Nat) (f : State → State) (s : State) : State :=
  if s.hw.mayWrite src k off then f s else s.onHw fun h => h.refuseReg src (blockBase k + off)

/-- A write of a whole register by a master. -/
def State.regPut (src : Src) (k off v : Nat) (s : State) : State := s.asWriter src k off (State.blockPut src k off v)

/-! ## Reads -/

/-- A register whose address field reads 0 in its low bits: how many (R399, R438, R463). -/
def lowZeros (k off : Nat) : Nat :=
  match k with
  | 0x18 => match within off 0x100 0x80 6, within off 0x800 0x20 16 with
    | some (_, 0x18), _ => 6
    | _, some (_, 8) => 5
    | _, _ => 0
  | _ => if 0x20 ≤ k ∧ k < 0x28 ∧ (off = 0x50 ∨ off = 0x58) then (if off = 0x50 then 5 else 12) else 0

/-- HOLD and SEED of a generator read 1 where 0 is written (R241). -/
def loopShown (off raw : Nat) : Nat :=
  match within off 0x100 0x20 4 with
  | some (_, 4) => if bits raw 16 8 = 0 then raw + 2 ^ 16 else raw
  | some (_, 0x14) => if raw = 0 then 1 else raw
  | _ => raw

/-- What a register reads beyond its stored fields: values the part forms at the read, and values that a domain may not see
(R180, R555). -/
def Hw.shown (h : Hw) (src : Src) (k off raw : Nat) : Nat :=
  match k with
  | 0x01 => if off = 0 ∧ bits raw 8 4 = 0 then raw + 2 ^ 8 else raw
  | 0x03 => match within off 0x2000 4 1024 with
    | some _ => if bits raw 8 16 = 0 then raw + 2 ^ 8 else raw
    | none => raw
  | 0x06 => match within off 0x8000 8 4096 with
    | some (n, _) => if isD0 src || h.fld (FRC_ENT_DOMAIN n) == src.dom.toNat then raw else 0
    | none => raw
  | 0x07 =>
    if off = 0 then (match h.img.rioEn with
      | some b => b2n b
      | none => raw)
    else match within off 0x4000 0x20 1536 with
      | some (n, 0) => h.stationWritten n false
      | some (n, 8) => h.stationWritten n true
      | _ => raw
  | 0x14 => match within off 0x800 4 32 with
    | some (o, _) => (h.harm (h.fld MTR_HSEL_CH) o).toNat
    | none => raw
  | 0x15 => if off = 4 then raw + b2n h.twait * 2 ^ 3 else raw
  | 0x10 => loopShown off raw
  | 0x11 => loopShown off raw
  | 0x28 => if off = 0x18 then h.nt else if off = 0x58 ∧ h.flag TIM_STAT_SLEWING = true then ofSigned 32 h.slewMoved else raw
  | 0x29 => if off = 0x68 then h.heldUse else raw
  | 0x2A => match within off 0x1000 16 1024, within off 0x6100 4 8 with
    | some (n, _), _ => if isD0 src || h.fld (KEY_K_W0_DOM n) == src.dom.toNat then raw else 0
    | _, some _ => 0
    | _, none => raw
  | 0x2B => if off = 0x10 then h.leaseLeft else if off = 0x50 then h.healthWord else if off = 0x108 then h.witRemain
    else if off = 0x100 then h.fld WCH_HOLDER + b2n h.witHeld * 2 ^ 16 else raw
  | 0x30 => if off = 8 then h.gpioIn else raw
  | _ => raw / 2 ^ lowZeros k off * 2 ^ lowZeros k off

/-- A read of a whole register by a master: the value in the response, with the effect of an RC field. -/
def State.regGet (src : Src) (k off : Nat) (s : State) : State :=
  let a := blockBase k + off
  match k, within off 0x1000 0x1000 9, within off 0x1000 0x40 64 with
  | 0x02, some (c, 0), _ => s.onHw (claim src c)
  | 0x02, some (8, _), _ =>
    if isKeeper src then s.onHw fun h => h.respond (toBytes 8 (match findReg k off with
      | some r => h.regLoad a r
      | none => 0))
    else s.onHw fun h => h.violation a src.master.val src.dom.toNat 8 .read .targetRule
  | 0x19, _, some (q, 0x18) => s.onHw (morPop src q .none)
  | _, _, _ =>
    match findReg k off with
    | some r => s.onHw fun h =>
        let d := toBytes (r.wide / 8) (h.shown src k off (h.regLoad a r))
        (if k = 0x30 ∧ off = 8 then h.useFree else h).respond d
    | none => s.onHw fun h => h.respond (toBytes 8 0)

/-! ## Widths and halves (R6-R8), windows of a block -/

/-- A refused width (R6, R372). -/
def Hw.badWidth (h : Hw) (src : Src) (addr : Nat) (kind : TKind) : Hw :=
  h.violation addr src.master.val src.dom.toNat 8 kind .width

/-- The register at an address, and whether the address is its upper half. -/
def halfOf (k off : Nat) : Option (RegRow × Bool) :=
  match findReg k off with
  | some r => some (r, false)
  | none => if off % 8 = 4 then
      match findReg k (off - 4) with
      | some r => if r.wide = 64 then some (r, true) else none
      | none => none
    else none

/-- What the lower half keeps when the upper half is written alone (R8): its RW fields as the register reads. -/
def Hw.lowKept (h : Hw) (src : Src) (addr : Nat) (r : RegRow) : Nat :=
  let v := h.shown src (regBlock addr) (bits addr 0 16) (h.regLoad addr r)
  r.flds.foldl (fun x f => if f.acc = .rw then x + bits v f.lo f.w * 2 ^ f.lo else x) 0 % 2 ^ 32

/-- A write of 32 or 64 bits to a register block. An address that holds no register ignores it; the block's writers are checked there and
at a lower half as well. -/
def State.regAccessWrite (src : Src) (addr size v : Nat) (s : State) : State :=
  let k := regBlock addr
  let off := bits addr 0 16
  let m := src.master.val
  if size ≠ 4 ∧ size ≠ 8 then s.onHw fun h => h.badWidth src addr .write
  else match halfOf k off with
    | none => s.asWriter src k off fun s => s
    | some (r, up) =>
      if size = 8 then (if r.wide = 64 ∧ up = false then s.regPut src k off v else s.onHw fun h => h.badWidth src addr .write)
      else if r.wide = 32 then s.regPut src k off (v % 2 ^ 32)
      else if up = false then s.asWriter src k off fun s => s.onHw fun h =>
        { h with bus := { h.bus with held := Tab.put h.bus.held m ⟨addr, v % 2 ^ 32⟩ } }
      else
        let low := match Tab.get? s.hw.bus.held m with
          | some x => if x.addr = addr - 4 then some x.val else none
          | none => none
        let s := if low.isSome then s.onHw fun h => { h with bus := { h.bus with held := Tab.del h.bus.held m } } else s
        s.regPut src k (off - 4) (low.getD (s.hw.lowKept src (addr - 4) r) + v % 2 ^ 32 * 2 ^ 32)

/-- Half of the response as a response of its own. -/
def Hw.respHalf (h : Hw) (up : Bool) : Hw :=
  if h.bus.resp.err then h else h.respond (if up then (h.bus.resp.data.drop 4).take 4 else h.bus.resp.data.take 4)

/-- A read of 32 or 64 bits of a register block (R6, R7). -/
def State.regAccessRead (src : Src) (addr size : Nat) (s : State) : State :=
  let k := regBlock addr
  let off := bits addr 0 16
  let m := src.master.val
  if size ≠ 4 ∧ size ≠ 8 then s.onHw fun h => h.badWidth src addr .read
  else match halfOf k off with
    | none => s.onHw fun h => h.respond (toBytes size 0)
    | some (r, up) =>
      if size = 8 then (if r.wide = 64 ∧ up = false then s.regGet src k off else s.onHw fun h => h.badWidth src addr .read)
      else if r.wide = 32 then s.regGet src k off
      else if up = false then
        let s := s.regGet src k off
        s.onHw fun h =>
          if h.bus.resp.err then h
          else ({ h with bus := { h.bus with shadow := Tab.put h.bus.shadow m ⟨addr, ofBytes (h.bus.resp.data.drop 4)⟩ } } : Hw).respHalf false
      else
        match Tab.get? s.hw.bus.shadow m with
        | some x =>
          if x.addr = addr - 4 then s.onHw fun h =>
            ({ h with bus := { h.bus with shadow := Tab.del h.bus.shadow m } } : Hw).respond (toBytes 4 x.val)
          else (s.regGet src k (off - 4)).onHw fun h => h.respHalf true
        | none => (s.regGet src k (off - 4)).onHw fun h => h.respHalf true

/-- The windows of blocks that take 64-bit words by their chapter's rule: the landing views of CANn (R459, R463), the held window
of NVM (R527), the capture window of LPEm (R231). -/
inductive RegWindow where
  | canView (n m i : Nat) (up : Bool)
  | held (off : Nat)
  | capture (m off : Nat)
  deriving DecidableEq, Repr

def regWindow (addr : Nat) : Option RegWindow :=
  let k := regBlock addr
  let off := bits addr 0 16
  if 0x20 ≤ k ∧ k < 0x28 ∧ 0x8000 ≤ off ∧ off < 0xC000 then
    some (.canView (k - 0x20) ((off - 0x8000) / 0x80) (off % 0x80 / 8) (off % 8 == 4))
  else if k = 0x29 ∧ 0x8000 ≤ off ∧ off < 0xC000 then some (.held (off - 0x8000))
  else if (k = 0x10 ∨ k = 0x11) ∧ 0x8000 ≤ off then some (.capture (k - 0x10) (off - 0x8000))
  else none

/-- Bytes of the capture window (R231). -/
def Hw.captureByte (h : Hw) (m off : Nat) : Byte :=
  match ((h.eng m).buf (h.fld (LPE_CAPSEL_BUF m))).samples[off / 8]? with
  | some x => (toBytes 2 (ofSigned 16 x.r) ++ toBytes 2 (ofSigned 16 x.pv) ++ toBytes 2 (ofSigned 16 x.e0) ++ toBytes 2 (ofSigned 16 x.u)).getD
      (off % 8) 0#8
  | none => 0#8

/-- The power-down commit has read the host held window: 2 ms after the power-fail indication (R638, R640). -/
def Hw.heldShut (h : Hw) : Bool := h.sys.down.isSome && decide (2000000 ≤ h.elapsed h.sys.downAt)

/-- A write in a window. The upper half of a view's word is ignored (R463). -/
def State.windowWrite (src : Src) (addr size v : Nat) (w : RegWindow) (s : State) : State :=
  if size ≠ 4 ∧ size ≠ 8 then s.onHw fun h => h.badWidth src addr .write
  else match w with
    | .canView n m i up => s.asWriter src (0x20 + n) (bits addr 0 16) fun s => if up then s else s.onHw (canViewWrite n m i v)
    | .held off => s.asWriter src 0x29 (bits addr 0 16) fun s => s.onHw fun h =>
        { h with nvm := { h.nvm with
            held := Tab.putAll h.nvm.held off (toBytes size v)
            shut := if h.nvm.shut.isNone && h.heldShut then some h.nvm.held else h.nvm.shut } }
    | .capture _ _ => s.onHw fun h => h.refuseReg src addr

/-- A read in a window. The held window is read by D0 alone (R527). -/
def State.windowRead (src : Src) (addr size : Nat) (w : RegWindow) (s : State) : State :=
  if size ≠ 4 ∧ size ≠ 8 then s.onHw fun h => h.badWidth src addr .read
  else match w with
    | .canView n m i up => s.onHw fun h => h.respond (toBytes size (if up then 0 else h.fld (CAN_OBJ_DATA n m i)))
    | .held off =>
      if isD0 src then s.onHw fun h => h.respond (Tab.range h.nvm.held off size 0#8)
      else s.onHw fun h => h.violation addr src.master.val src.dom.toNat 8 .read .targetRule
    | .capture m off => s.onHw fun h => h.respond ((List.range size).map fun i => h.captureByte m (off + i))

/-- An access to the register region by a master: a window of its block, or the block's registers. -/
def State.registerWrite (src : Src) (addr size v : Nat) (s : State) : State :=
  match regWindow addr with
  | some w => s.windowWrite src addr size v w
  | none => s.regAccessWrite src addr size v

def State.registerRead (src : Src) (addr size : Nat) (s : State) : State :=
  match regWindow addr with
  | some w => s.windowRead src addr size w
  | none => s.regAccessRead src addr size

/-- Bytes of an access. -/
def widthBytes : Width → Nat
  | .w8 => 1 | .w16 => 2 | .w32 => 4 | .w64 => 8

/-! ## Meanings -/

/-- A write to an address outside the register blocks is one of cause UNMAPPED (R364). -/
def execRegisterWrite (src : Src) (addr : BitVec 40) (width : Width) (val : BitVec 64) (s : State) : Host.Outcome State Fault Refusal :=
  .next (match s.hw.region addr.toNat with
    | .regs _ => (s.onHw fun h => h.respond []).registerWrite src addr.toNat (widthBytes width) val.toNat
    | _ => s.onHw fun h => h.violation addr.toNat src.master.val src.dom.toNat 15 .write .unmapped)
def execLowerHalfRead (src : Src) (addr : BitVec 40) (s : State) : Host.Outcome State Fault Refusal :=
  .next (match s.hw.region addr.toNat with
    | .regs _ => s.registerRead src addr.toNat 4
    | _ => s.onHw fun h => h.violation addr.toNat src.master.val src.dom.toNat 15 .read .unmapped)

end Sys2Proof.Machine
end

