-- ==== Sys2Proof/Machine/Target.lean ====
section
/-! DEFINITION. A transaction at its target (01 R34-R37; 09 R355-R378): what each region of the map answers to a read and does
with a write, isolated ports, host cache lines, exceptions of host cores. -/

namespace Sys2Proof.Machine

/-! ## What the regions hold -/

/-- Bytes of the point image: the IN and NEXT views (R57). -/
def Hw.imageByte (h : Hw) (off : Nat) : Byte :=
  let p := off % 0x100000 / 8
  ((if off < 0x100000 then h.inPoint p else h.nextPoint p).bytes).getD (off % 8) 0#8

/-- The point in a slot of a Lantern's IN window (R68). -/
def slotPoint : List (Nat × Nat) → Nat → Option Nat
  | [], _ => none
  | (b, c) :: t, i => if i < c then some (b + i) else slotPoint t (i - c)

/-- Byte `i` of the bits of a bit space, lowest number first. -/
def bitsByte (t : Tab Bool) (i : Nat) : Byte :=
  BitVec.ofNat 8 (((List.range 8).map fun j => b2n (Tab.getD t (8 * i + j) false) * 2 ^ j).sum)

/-- A byte of little-endian words. -/
def wordsByte (t : Tab Word) (i : Nat) : Byte := BitVec.ofNat 8 ((Tab.getD t (i / 4) 0#32).toNat >>> (8 * (i % 4)))

/-- A byte of a 64-bit entry. -/
def entryByte (v i : Nat) : Byte := BitVec.ofNat 8 (v >>> (8 * i))

/-- A byte of a program bank (R157, R363): the code placed in the bank in use, or what the idle bank was loaded with. What no load
has written the spec does not state (log entry 41, DESIGN CHOICE). -/
def Hw.bankByte (h : Hw) (l bank off : Nat) : Byte :=
  match Tab.get? (if h.fld (LNT_STAT_BANK l) = bank then h.bankWords l else (h.lan l).shadow) (off / 4) with
  | some w => BitVec.ofNat 8 (w.toNat >>> (8 * (off % 4)))
  | none => Config.bankByte l bank off

/-- A byte of a Lantern window (R111, R363). The layout of the OUT staging, of timer and counter entries, of the LRD mirror and of
event bits and stacks is not stated: their bytes are what an unstated layout makes of what they hold (log entry 41, DESIGN CHOICE). -/
def Hw.lanternByte (h : Hw) (l off : Nat) : Byte :=
  let x := h.lan l
  if off < 0x40000 then
    match slotPoint (pointSet (h.programs l)) (off / 8) with
    | some p => (h.inPoint p).bytes.getD (off % 8) 0#8
    | none => Config.idleByte l off
  else if off < 0x60000 then Config.stagingByte [x.outVal, x.outNow, x.ilk, x.lsp] (off - 0x40000)
  else if off < 0x68000 then
    let e := Tab.getD x.tmr ((off - 0x60000) / 8) ⟨0, false, false, false, false⟩
    entryByte (Config.timerEntry e.et e.run e.q e.inp e.sat) (off % 8)
  else if off < 0x6C000 then
    let e := Tab.getD x.ctr ((off - 0x68000) / 8) ⟨0, false, false, false⟩
    entryByte (Config.counterEntry e.cv e.q e.inp e.sat) (off % 8)
  else if off < 0x6C400 then bitsByte x.edg (off - 0x6C000)
  else if off < 0x70000 then 0#8
  else if off < 0x80000 then wordsByte x.lw (off - 0x70000)
  else if off < 0x80400 then bitsByte x.mrk (off - 0x80000)
  else if off < 0x84400 then wordsByte x.cst (off - 0x80400)
  else if off < 0x88400 then Config.mirrorByte x.lrd (off - 0x84400)
  else if off < 0x88600 then Config.stackByte x.ev x.ns.length x.cs (off - 0x88400)
  else if off < 0xC0000 then 0#8
  else if off < 0xE0000 then h.bankByte l 0 (off - 0xC0000)
  else h.bankByte l 1 (off - 0xE0000)

/-- A byte of a region but the registers. -/
def Hw.targetByte (h : Hw) (mem : List Host.Cell) (a : Nat) : Byte :=
  match h.region a with
  | .image => h.imageByte (a - 0x21000000)
  | .pool => BitVec.ofNat 8 ((Tab.getD h.mor.pool ((a - 0x22000000) / 8) 0#64).toNat >>> (8 * (a % 8)))
  | .lantern l => h.lanternByte l (a % 0x100000)
  | .loop m => BitVec.ofNat 8 (((h.eng m).word (a % 0x100000 / 128) (a % 128 / 4)).toNat >>> (8 * (a % 4)))
  | .scratch => Tab.getD h.dpe.scratch (a - 0x26000000) 0#8
  | .regs _ => 0#8
  | .unmapped => 0#8
  | _ => h.plainByte mem a

/-! ## The access check (R362, R370-R372) -/

/-- The first point of an access to the image whose zone the domain does not reach (R78). -/
def Hw.zoneFault (h : Hw) (dom addr n : Nat) : Option Nat :=
  ((List.range ((addr % 8 + n + 7) / 8)).map fun i => (addr / 8 + i) * 8).find? fun a => !h.reaches dom (zoneOf (a % 0x100000 / 8))

/-- The master that bears a number (R30); the numbers of R31 are nobody's, and no transaction carries one. -/
def masterOf (m : Nat) : Option Master :=
  if h : m < 4 then some (.host ⟨m, h⟩)
  else if m = 4 then some .keeper else if m = 5 then some .debug
  else if h : m - 8 < 8 ∧ 8 ≤ m then some (.lantern ⟨m - 8, h.1⟩)
  else if m = 16 then some (.loop 0) else if m = 17 then some (.loop 1) else if m = 18 then some .dispatch
  else if m = 19 then some .metering else if m = 20 then some .packet else if m = 21 then some .can else if m = 22 then some .watch
  else if m = 23 then some .key else if m = 24 then some .store else if m = 25 then some .image
  else if h : m - 64 < 64 ∧ 64 ≤ m then some (.tender ⟨m - 64, h.1⟩) else none

/-- A source as the register rules take it. -/
def srcOf (master dom : Nat) : Option Src := (masterOf master).map fun m => ⟨m, BitVec.ofNat 8 dom⟩

/-! ## Reads and writes at the target -/

/-- A cause by its code. -/
def Cause.ofCode (n : Nat) : Cause :=
  match n with
  | 0 => .noWindow | 1 => .right | 2 => .zone | 3 => .targetRule | 4 => .width | _ => .unmapped

/-- The violation that the step from `h` to `g` recorded, recorded on `h`: a refused transaction does nothing else (R377). -/
def Hw.refusedAs (h g : Hw) (master dom : Nat) (kind : TKind) : Hw :=
  let n := h.fld ACT_VHEAD_NEXT
  h.violation (g.fld (ACT_VREC_ADDR n)) master dom (g.fld (ACT_VREC_TARGET n)) kind (Cause.ofCode (g.fld (ACT_VREC_CAUSE n)))

/-- A register region as a burst of 64-bit accesses (log entry 44, DESIGN CHOICE), or one 32-bit access. A burst of which one word
is refused is refused whole (R377). -/
def State.regBurst (src : Src) (kind : TKind) (addr n : Nat) (data : List Byte) (s : State) : State :=
  if n = 4 then (if kind = .write then s.registerWrite src addr 4 (ofBytes data) else s.registerRead src addr 4)
  else if n % 8 ≠ 0 ∨ addr % 8 ≠ 0 ∨ n = 0 then s.onHw fun h => h.badWidth src addr kind
  else
    let go := (List.range (n / 8)).foldl (fun (e : State × List Byte) i =>
      if e.1.hw.bus.resp.err then e
      else if kind = .write then (e.1.registerWrite src (addr + 8 * i) 8 (ofBytes ((data.drop (8 * i)).take 8)), [])
      else
        let s := e.1.registerRead src (addr + 8 * i) 8
        (s, e.2 ++ s.hw.bus.resp.data)) (s, [])
    if go.1.hw.bus.resp.err then s.onHw fun h => h.refusedAs go.1.hw src.master.val src.dom.toNat kind
    else go.1.onHw fun h => h.respond go.2

/-- A read at its target: the response holds `n` bytes or is an error. -/
def State.targetRead (master dom : Nat) (kind : TKind) (addr n : Nat) (s : State) : State :=
  let s := s.onHw fun h => h.respond []
  match s.hw.accessCheck master dom addr n kind with
  | some c => s.onHw fun h => h.violation addr master dom (h.region addr).target kind c
  | none =>
    let s := s.onHw fun h => h.wake addr n
    match s.hw.region addr with
    | .regs _ => match srcOf master dom with
      | some src => s.regBurst src kind addr n []
      | none => s
    | .image =>
      match s.hw.zoneFault dom addr n with
      | some a => s.onHw fun h => h.violation a master dom 3 kind .zone
      | none => s.onHw fun h => h.respond ((List.range n).map fun i => h.imageByte (addr - 0x21000000 + i))
    | _ => s.onHw fun h => h.respond ((List.range n).map fun i => h.targetByte s.mem (addr + i))

/-- A write of the image (R57, R59-R61, R78): IN refuses; NEXT takes words of a point, each on its own. A channel of the Tender
writes one 64-bit landing per point (R388); any other write of more than 8 bytes is refused by its width (R60, R372). -/
def State.imageBurst (master dom addr : Nat) (data : List Byte) (s : State) : State :=
  let n := data.length
  if addr < 0x21100000 then s.onHw fun h => h.violation addr master dom 3 .write .targetRule
  else match s.hw.zoneFault dom addr n with
    | some a => s.onHw fun h => h.violation a master dom 3 .write .zone
    | none =>
      if n ≤ 8 then s.onHw fun h => h.imageWrite master dom (addr - 0x21100000) n (ofBytes data)
      else if master < 64 ∨ n % 8 ≠ 0 ∨ addr % 8 ≠ 0 then s.onHw fun h => h.violation addr master dom 3 .write .width
      else (List.range (n / 8)).foldl (fun s i =>
        s.onHw fun h => h.imageWrite master dom (addr - 0x21100000 + 8 * i) 8 (ofBytes ((data.drop (8 * i)).take 8))) s

/-- A write of loop memory (R209), word by word; one that touches an enabled slot is refused whole (R377). -/
def State.loopBurst (master dom m addr : Nat) (data : List Byte) (s : State) : State :=
  let off := addr % 0x100000
  let first := off / 4
  let words := (List.range ((off % 4 + data.length + 3) / 4)).map fun i => first + i
  match words.find? fun w => (s.hw.eng m).flag (w / 32) dEn with
  | some _ => s.onHw fun h => h.violation addr master dom 6 .write .targetRule
  | none => words.foldl (fun s w =>
      let old := toBytes 4 ((s.hw.eng m).word (w / 32) (w % 32)).toNat
      let new := ((List.range 4).zip old).map fun e =>
        if off ≤ 4 * w + e.1 ∧ 4 * w + e.1 < off + data.length then data.getD (4 * w + e.1 - off) 0#8 else e.2
      s.onHw fun h => h.loopWrite master dom m (4 * w) (BitVec.ofNat 32 (ofBytes new))) s

/-- A write at its target (R33, R372): performed, or refused by the target. -/
def State.targetWrite (master dom addr : Nat) (data : List Byte) (s : State) : State :=
  let n := data.length
  let s := s.onHw fun h => h.respond []
  match s.hw.accessCheck master dom addr n .write with
  | some c => s.onHw fun h => h.violation addr master dom (h.region addr).target .write c
  | none =>
    let s := s.onHw fun h => h.wake addr n
    match s.hw.region addr with
    | .regs _ => match srcOf master dom with
      | some src => s.regBurst src .write addr n data
      | none => s
    | .image => s.imageBurst master dom addr data
    | .loop m => s.loopBurst master dom m addr data
    | .scratch => s.onHw (scratchWrite master dom (addr - 0x26000000) data)
    | _ => (s.blockWrite addr data).onHw fun h => h.respond []

end Sys2Proof.Machine
end

