-- ==== Sys2Proof/Machine/TenderMove.lean ====
section
/-! DEFINITION. The Tender at work (09 R379-R395): translation through pins and page tables, descriptors, granules, and how a
descriptor ends. -/

namespace Sys2Proof.Machine

/-! ## One transaction of a channel -/

/-- A read of channel `n` at a physical address: the bytes, or the kind of its failure (R377, R391). -/
def State.chanRead (n pa len : Nat) (s : State) : State × Except TKindF (List Byte) :=
  let dom := s.hw.chanDom n
  if s.hw.portClosed (64 + n) pa then (s.onHw fun h => h.closedPort pa (64 + n) dom .read, .error .timeout)
  else
    let s := s.targetRead (64 + n) dom .read pa len
    (s, if s.hw.bus.resp.err then .error .violation else .ok s.hw.bus.resp.data)

/-- A write of channel `n` at a physical address. -/
def State.chanWrite (n pa : Nat) (data : List Byte) (s : State) : State × Option TKindF :=
  let dom := s.hw.chanDom n
  if s.hw.portClosed (64 + n) pa then (s.onHw fun h => h.closedPort pa (64 + n) dom .write, some .timeout)
  else
    let s := s.targetWrite (64 + n) dom pa data
    (s, if s.hw.bus.resp.err then some .violation else none)

/-! ## Translation (R379-R382) -/

/-- What an entry of a page table says at a level: a failure, the next table, or a leaf (R380). -/
inductive PteKind where
  | bad (k : TKindF)
  | table (ppn : Nat)
  | leaf (ppn : Nat) (r w : Bool)
  deriving DecidableEq, Repr

/-- An entry read at `level`, for an access that writes or not. R or X makes a leaf. -/
def pteKind (pte level : Nat) (write : Bool) : PteKind :=
  let r := bitOf pte 1
  let w := bitOf pte 2
  let ppn := bits pte 10 44
  if !bitOf pte 0 || (w && !r) || bits pte 54 10 != 0 || decide (2 ^ 28 ≤ ppn) then .bad .invalidPte
  else if !(r || bitOf pte 3) then (if level = 0 then .bad .invalidPte else .table ppn)
  else if ppn % 2 ^ (9 * level) ≠ 0 then .bad .invalidPte
  else if (if write then !w else !r) then .bad .right
  else if !bitOf pte 6 || (write && !bitOf pte 7) then .bad .adClear
  else .leaf ppn r (w && bitOf pte 7)

/-- The walk from `level` down (R379): the physical page with its rights. -/
def State.walk (n vpn : Nat) (write : Bool) : Nat → Nat → State → State × Except TKindF (Nat × Bool × Bool)
  | level, table, s =>
    match s.chanRead n (table * 4096 + 8 * bits vpn (9 * level) 9) 8 with
    | (s, .error k) => (s, .error k)
    | (s, .ok bs) =>
      match pteKind (ofBytes bs) level write with
      | .bad k => (s, .error k)
      | .leaf ppn r w => (s, .ok (ppn + vpn % 2 ^ (9 * level), r, w))
      | .table ppn =>
        match level with
        | 0 => (s, .error .invalidPte)
        | l + 1 => State.walk n vpn write l ppn s

/-- A translation enters the IOTLB; the oldest of more than 256 leaves it. -/
def Hw.iotlbPut (h : Hw) (e : IotlbEntry) : Hw :=
  { h with iotlb := (e :: h.iotlb.filter fun o => !(o.asid == e.asid && o.vpn == e.vpn)).take 256 }

/-- The physical address of a virtual one, for a read or a write of channel `n`. -/
def State.translate (n va : Nat) (write : Bool) (s : State) : State × Except TKindF Nat :=
  let h := s.hw
  let as := h.chanAs n
  match h.pinFor as va with
  | some p => (s, if (if write then p.w else p.r) then .ok (p.phys va) else .error .right)
  | none =>
    if h.isFrameClass n then (s, .error .nopin)
    else if h.fld (XLT_AS_MODE as) = 0 then (s, if va < 2 ^ 40 then .ok va else .error .violation)
    else match vpnOf va with
      | none => (s, .error .invalidPte)
      | some vpn =>
        match h.iotlb.find? fun e => e.asid == as && e.vpn == vpn && (if write then e.w else e.r) with
        | some e => (s, .ok (e.ppn * 4096 + va % 4096))
        | none =>
          match (s.onHw fun h => h.countW XLT_WALKCNT_COUNT 1).walk n vpn write 2 (h.fld (XLT_AS_PPN as)) with
          | (s, .error k) => (s, .error k)
          | (s, .ok (ppn, r, w)) => (s.onHw fun h => h.iotlbPut ⟨as, vpn, ppn, r, w⟩, .ok (ppn * 4096 + va % 4096))

/-! ## Descriptors (R387, R388) -/

def word64At (bs : List Byte) (i : Nat) : Nat := ofBytes ((bs.drop (8 * i)).take 8)

def TDesc.ofBytes (bs : List Byte) : TDesc :=
  let w := word64At bs 2
  ⟨word64At bs 0, word64At bs 1, bits w 0 24, bitOf w 24, bitOf w 25, bitOf w 26, bitOf w 27, bitOf w 28, bitOf w 29, bitOf w 30,
    word64At bs 3⟩

/-- The cases of R388 that the descriptor itself shows. -/
def TDesc.wellFormed (d : TDesc) (bs : List Byte) : Bool :=
  decide (0 < d.len) && bits (word64At bs 2) 31 33 == 0 && d.next % 32 == 0
    && (!d.sfix || (d.src % 8 == 0 && d.len % 8 == 0)) && (!d.dfix || (d.dst % 8 == 0 && d.len % 8 == 0))

def Hw.chanFail (h : Hw) (n : Nat) (f : TFail) : Hw := h.setChan n { h.chan n with fail := some f }

/-- A channel whose burst waits for its turn: it fetches its descriptor, or moves data. -/
def Hw.fetching (h : Hw) (n : Nat) : Bool := h.chanState n == chActive && (h.chan n).desc.isNone && (h.chan n).fail.isNone
def Hw.moving (h : Hw) (n : Nat) : Bool :=
  h.chanState n == chActive && (h.chan n).fail.isNone
    && match (h.chan n).desc with
      | some d => decide ((h.chan n).off < d.len)
      | none => false

/-- The fetch of the descriptor at `daddr` completes. -/
def State.descFetch (n : Nat) (s : State) : State :=
  if s.hw.fetching n then
    let va := (s.hw.chan n).daddr
    match s.translate n va false with
    | (s, .error k) => s.onHw fun h => h.chanFail n ⟨k, false, true, va⟩
    | (s, .ok pa) =>
      match s.chanRead n pa 32 with
      | (s, .error k) => s.onHw fun h => h.chanFail n ⟨k, false, true, va⟩
      | (s, .ok bs) =>
        let d := TDesc.ofBytes bs
        s.onHw fun h => h.setChan n { h.chan n with
          desc := some d
          fail := if d.wellFormed bs then none else some ⟨.format, false, false, va⟩ }
  else s

/-! ## Granules (R386, R389) -/

/-- Virtual addresses of the next granule. -/
def TChan.srcVa (c : TChan) (d : TDesc) : Nat := if d.sfix then d.src else (d.src + c.off) % 2 ^ 64
def TChan.dstVa (c : TChan) (d : TDesc) : Nat := if d.dfix then d.dst else (d.dst + c.off) % 2 ^ 64

/-- Bytes of the next granule. -/
def TChan.granule (c : TChan) (d : TDesc) : Nat :=
  let n := min 256 (d.len - c.off)
  let n := if d.sq || d.sfix then n else min n (4096 - c.srcVa d % 4096)
  if d.dq || d.dfix then n else min n (4096 - c.dstVa d % 4096)

/-- The bytes of a granule out of those that are at hand; the bytes over stay with the channel. -/
def Hw.takeBytes (h : Hw) (n len : Nat) (got : List Byte) : Hw × List Byte :=
  (h.setChan n { h.chan n with rest := got.drop len }, got.take len)

/-- Reads a granule's source: consecutive bytes, or a fixed address in words of eight bytes, as many as the bytes at hand leave to be
read. -/
def State.srcRead (n pa len : Nat) (fixed : Bool) (s : State) : State × Except TKindF (List Byte) :=
  if fixed then
    let at_ := (s.hw.chan n).rest
    match (List.range ((len - at_.length + 7) / 8)).foldl (fun (e : State × Except TKindF (List Byte)) _ =>
      match e.2 with
      | .error _ => e
      | .ok bs =>
        match e.1.chanRead n pa 8 with
        | (s, .ok b) => (s, .ok (bs ++ b))
        | (s, .error k) => (s, .error k)) (s, .ok at_) with
    | (s, .ok bs) => let r := s.hw.takeBytes n len bs; ({ s with hw := r.1 }, .ok r.2)
    | e => e
  else s.chanRead n pa len

/-- Data joined to the part of a word that waits: the whole words, and the part that waits on (log entry 187, DESIGN CHOICE: a word of
the image or of a fixed address is written whole, once its last byte has come). -/
def Hw.joinPart (h : Hw) (n : Nat) (data : List Byte) (k : Nat) : Hw × List Byte :=
  let all := (h.chan n).part ++ data
  (h.setChan n { h.chan n with part := all.drop (8 * k) }, all.take (8 * k))

/-- Writes a granule's destination: one burst, or eight bytes at a time for a fixed address and for the image (R388). -/
def State.dstWrite (n pa : Nat) (data : List Byte) (fixed : Bool) (s : State) : State × Option TKindF :=
  if fixed || s.hw.region pa == .image then
    let held := (s.hw.chan n).part.length
    let k := (held + data.length) / 8
    let r := s.hw.joinPart n data k
    (List.range k).foldl (fun e i =>
      match e.2 with
      | some _ => e
      | none => e.1.chanWrite n (if fixed then pa else pa - held + 8 * i) ((r.2.drop (8 * i)).take 8)) ({ s with hw := r.1 }, none)
  else s.chanWrite n pa data

/-- Words popped until there are `len` bytes; the bytes over stay with the channel (R426). -/
def Hw.popBytes (n q len : Nat) (h : Hw) : Nat → PoolErr → List Byte → Hw × Option (List Byte)
  | fuel, err, got =>
    if len ≤ got.length then let r := h.takeBytes n len got; (r.1, some r.2)
    else match fuel with
      | 0 => (h, none)
      | k + 1 =>
        match h.qPopData 4 q err with
        | (h, none) => (h, none)
        | (h, some w) => Hw.popBytes n q len h k .none (got ++ toBytes 8 w.toNat)

/-- A queue operand's domain (R431); its refused operation. -/
def Hw.queueRefused (h : Hw) (n q : Nat) : Bool := !h.morDom q (h.chanDom n)

/-- The source of a granule: bytes, or the kind of the failure. -/
def State.source (n : Nat) (d : TDesc) (pa len : Nat) (err : PoolErr) (s : State) : State × Except TKindF (List Byte) :=
  if d.sq then
    let q := d.src % 64
    if s.hw.queueRefused n q then (s.onHw fun h => h.morRefuse q 0x18 (64 + n) (h.chanDom n) .read, .error .violation)
    else match Hw.popBytes n q len s.hw 33 err (s.hw.chan n).rest with
      | (h, none) => ({ s with hw := h }, .error .uncorrectable)
      | (h, some bs) => ({ s with hw := h }, .ok bs)
  else s.srcRead n pa len d.sfix

/-- Pushes bytes: whole words, the bytes over stay with the channel; the last granule pads its last word and ends the packet
(R387, R422). -/
def Hw.pushBytes (n q : Nat) (d : TDesc) (data : List Byte) (last : Bool) (h : Hw) : Hw :=
  let len := (h.chan n).part.length + data.length
  let k := if last then (len + 7) / 8 else len / 8
  let r := h.joinPart n data k
  let h := (List.range k).foldl (fun h i => h.qPush q (64 + n) (BitVec.ofNat 64 (ofBytes ((r.2.drop (8 * i)).take 8)))) r.1
  if last && d.end_ then h.qEnd q (64 + n) 0 (d.len % 8) else h

/-- The destination of a granule. -/
def State.dest (n : Nat) (d : TDesc) (pa : Nat) (data : List Byte) (s : State) : State × Option TKindF :=
  if d.dq then
    let q := d.dst % 64
    if s.hw.queueRefused n q then (s.onHw fun h => h.morRefuse q 0x10 (64 + n) (h.chanDom n) .write, some .violation)
    else
      let off := (s.hw.chan n).off
      (s.onHw fun h => (if off = 0 ∧ d.begin_ = true then h.qBegin q (64 + n) else h).pushBytes n q d data (decide (d.len ≤ off + data.length)),
        none)
  else s.dstWrite n pa data d.dfix

/-- The translation of an operand; queue operands are not translated (R387). -/
def State.operand (n va : Nat) (queue write : Bool) (s : State) : State × Except TKindF Nat :=
  if queue then (s, .ok 0) else s.translate n va write

/-- One granule of channel `n`: both translations, the read, the write (R389, R391). -/
def State.granule (n : Nat) (d : TDesc) (err : PoolErr) (s : State) : State :=
  let c := s.hw.chan n
  let sv := c.srcVa d
  let dv := c.dstVa d
  match s.operand n sv d.sq false with
  | (s, .error k) => s.onHw fun h => h.chanFail n ⟨k, false, false, sv⟩
  | (s, .ok sp) =>
    match s.operand n dv d.dq true with
    | (s, .error k) => s.onHw fun h => h.chanFail n ⟨k, true, false, dv⟩
    | (s, .ok dp) =>
      if !d.dq && s.hw.region dp == .image && (d.dst % 8 != 0 || d.len % 8 != 0) then
        s.onHw fun h => h.chanFail n ⟨.format, true, false, dv⟩
      else match s.source n d sp (c.granule d) err with
        | (s, .error k) => s.onHw fun h => h.chanFail n ⟨k, false, false, sv⟩
        | (s, .ok bs) =>
          match s.dest n d dp bs with
          | (s, some k) => s.onHw fun h => h.chanFail n ⟨k, true, false, dv⟩
          | (s, none) => s.onHw fun h => h.setChan n { h.chan n with off := c.off + bs.length }

/-- The ready channel of the highest class, in turn among channels of one class (R386). -/
def Hw.nextMover (h : Hw) : Option Nat :=
  (List.range 4).findSome? fun k =>
    let last := Tab.getD h.tlast k 63
    ((List.range 64).map fun i => (last + 1 + i) % 64).find? fun n => h.fld (TND_CH_CFG_CLASS n) == k && h.moving n

/-- The datapath issues one granule. -/
def State.granuleIssue (err : PoolErr) (s : State) : State :=
  match s.hw.nextMover with
  | none => s
  | some n =>
    let s := s.onHw fun h => { h with tlast := Tab.put h.tlast (h.fld (TND_CH_CFG_CLASS n)) n }
    match (s.hw.chan n).desc with
    | some d => s.granule n d err
    | none => s

/-! ## Ends (R391-R395) -/

/-- A failed translation acts (R392, R394). -/
def State.translationFault (n : Nat) (s : State) : State :=
  match (s.hw.chan n).fail with
  | some f =>
    if s.hw.chanState n = chActive ∧ f.kind.isTranslation = true then
      if s.hw.isFrameClass n then s.frameClassFault n f else s.onHw fun h => h.chanPause n f
    else s
  | none => s

/-- Where a burst that fails by itself stands: the descriptor fetch, or a side of the next granule. -/
def TChan.failOf (c : TChan) (kind : TKindF) (dst : Bool) : TFail :=
  match c.desc with
  | none => ⟨kind, false, true, c.daddr⟩
  | some d => ⟨kind, dst, false, if dst then c.dstVa d else c.srcVa d⟩

/-- A burst of an ACTIVE channel has failed by an uncorrectable error, a timeout or a refusal of its target. -/
def Hw.burstFail (h : Hw) (n : Nat) (kind : TKindF) (dst : Bool) : Hw :=
  if h.chanState n = chActive ∧ (h.chan n).fail = none then h.chanFail n ((h.chan n).failOf kind dst) else h

/-- The uncorrectable error of a channel's read lies in SRAM, DDR4 or the flash (R368, R483). -/
def State.burstUe (n va : Nat) (s : State) : State :=
  match s.translate n va false with
  | (s, .ok pa) =>
    s.onHw fun h => if (h.region pa).checked then h.readUe pa else h
  | (s, .error _) => s

/-- An error ends the channel (R391, R394). -/
def State.tndError (n : Nat) (err : BurstErr) (dst : Bool) (s : State) : State :=
  if s.hw.chanState n = chActive then
    let c := s.hw.chan n
    let s := match c.fail, err with
      | none, .uncorrectable =>
        let queue := match c.desc with
          | some d => if dst then d.dq else d.sq
          | none => false
        let f := c.failOf .uncorrectable dst
        (if queue || dst then s else s.burstUe n f.va).onHw fun h => h.burstFail n .uncorrectable dst
      | none, .timeout => s.onHw fun h => h.burstFail n .timeout dst
      | _, _ => s
    match (s.hw.chan n).fail with
    | some f =>
      if f.kind.isTranslation then s
      else if s.hw.isFrameClass n then s.frameClassFault n f
      else s.onHw fun h => h.chanError n f
    | none => s
  else s

/-- The last write of a descriptor has completed (R395). -/
def State.descComplete (n : Nat) (s : State) : State :=
  match (s.hw.chan n).desc with
  | none => s
  | some d =>
    if s.hw.chanState n = chActive ∧ (s.hw.chan n).fail = none ∧ d.len ≤ (s.hw.chan n).off then
      let s := s.onHw fun h =>
        let h := h.countW (TND_CH_DONECNT n) 1
        let h := if d.doneev then (h.setFldBit TND_EVSTAT_DONE n true).raise 200 else h
        h.fillStep n false
      s.chainNext n d.next false
    else s

/-! ## Meanings -/

def execDescriptorFetch (n : Fin 64) (s : State) : Host.Outcome State Fault Refusal := .next (s.descFetch n.val)
def execGranuleIssue (err : PoolErr) (s : State) : Host.Outcome State Fault Refusal := .next (s.granuleIssue err)
def execTranslationFault (n : Fin 64) (s : State) : Host.Outcome State Fault Refusal := .next (s.translationFault n.val)
def execTndError (n : Fin 64) (err : BurstErr) (dst : Bool) (s : State) : Host.Outcome State Fault Refusal :=
  .next (s.tndError n.val err dst)
def execDescriptorComplete (n : Fin 64) (s : State) : Host.Outcome State Fault Refusal := .next (s.descComplete n.val)

end Sys2Proof.Machine
end

