-- ==== Sys2Proof/Machine/Bus.lean ====
section
/-! DEFINITION. The fabric (01 R26-R38) and the host cores as far as they are the part's own (09 R345-R360): a transaction
from its source port to its response, credits, timeouts, the domain CSR, cached accesses, writebacks and cache errors. -/

namespace Sys2Proof

def Txn.isWalk (t : Txn) : Bool := decide (t.master.val < 4) && t.host == .walk

/-- Kind at the target: a page-table read is a read whatever it serves. -/
def Txn.busKind (t : Txn) : TKind := if t.isWalk then .read else t.kind

/-- Bytes that a transaction covers. -/
def Txn.bytes (t : Txn) : Nat := if t.busKind = .write then t.data.length else t.size

end Sys2Proof

namespace Sys2Proof.Machine

/-! ## What a transaction carries -/

/-- Domain of a host core's access (R352, R353). -/
def Hw.hostDom (h : Hw) (k : Nat) (a : HostAcc) : Nat :=
  match a with
  | .machine => 0
  | .lower => bits (h.core k).mdomain 0 8
  | .mprv m => if m then 0 else bits (h.core k).mdomain 0 8
  | .walk => bits (h.core k).mdomain 8 8

/-- Domain that a transaction carries (R29, R30): of the admitted program on the Lantern, of the classification rule for payload,
of the CAN channel. None for a use that its master does not have: no such transaction is made. -/
def Hw.txnDom (h : Hw) (t : Txn) : Option Nat :=
  match t.master, t.use_ with
  | .host k, .own => some (h.hostDom k.val t.host)
  | .tender n, .own => some (h.chanDom n.val)
  | .lantern l, .program p => match Tab.get? h.progs p.val with
    | some q => if q.lnt = l.val then some q.prog.dom else none
    | none => none
  | .packet, .payload r => some (h.fld (PKT_CR_ACT_DOM r.val))
  | .packet, .descriptor => some 0
  | .can, .channel n => some (h.fld (CAN_CTRL_DOM n.val))
  | .keeper, .own | .debug, .own | .loop _, .own | .dispatch, .own | .metering, .own | .watch, .own | .key, .own | .store, .own
  | .image, .own => some 0
  | _, _ => none

/-- An exception that keeps a host core from issuing an access (R346, R348, R349). -/
def Hw.hostStop (h : Hw) (t : Txn) : Option HostExc :=
  if !t.isWalk && t.kind != .fetch && decide (t.bytes ≤ 8) && decide (0 < t.bytes) && t.addr.toNat % t.bytes != 0 then some .misaligned
  else if decide (2 ^ 40 ≤ t.addr.toNat) then some (faultOf t.kind)
  else if t.atomic && !(h.region t.addr.toNat).cacheable then some .storeFault
  else none

/-! ## What a response does to its master (R347, R368, R377) -/

/-- The page-fault exception of the kind of an access. -/
def pageFaultOf : TKind → HostExc
  | .read => .loadPage
  | .write => .storePage
  | .fetch => .fetchPage

/-- The cores set no A or D bit: an access through a leaf PTE with A = 0, or a store through one with D = 0, is a page fault
(R347). A leaf has V and one of R and X. -/
def pteFault (pte : Nat) (kind : TKind) : Bool :=
  bitOf pte 0 && (bitOf pte 1 || bitOf pte 3) && (!bitOf pte 6 || (kind == .write && !bitOf pte 7))

/-- A response reaches its master: an error makes a host core take an exception and a Tender channel act under R391. What an error
response that no target gave does to a host core (a timeout, an isolated port) is the access fault of the kind too (log entry 172,
DEDUCED). A page-table entry may end in a page fault. -/
def Hw.answered (h : Hw) (t : Txn) (kind : TKindF) : Hw :=
  match t.master with
  | .host k =>
    if h.bus.resp.err then h.hostExc k.val (faultOf t.kind)
    else if t.isWalk && t.bytes == 8 && pteFault (ofBytes h.bus.resp.data) t.kind then h.hostExc k.val (pageFaultOf t.kind)
    else h
  | .tender n => if h.bus.resp.err then h.burstFail n.val kind (t.busKind == .write) else h
  | _ => h

/-! ## At the target -/

/-- An error that the target's memory finds: corrected ones are counted, an uncorrectable one on a read gives an error
response (R365, R368, R483). -/
def Hw.memFate (h : Hw) (addr : Nat) (kind : TKind) (fate : TFate) : Hw :=
  if h.bus.resp.err then h
  else
    if (h.region addr).checked then
      match fate with
      | .corrected => h.readCorrected addr
      | .uncorrectable => if kind = .write then h else (h.readUe addr).respErr
      | _ => h
    else h

/-- A host core's access to a cacheable region (R356, R357): lines that the caches do not hold with the right are fetched, and the
target checks those alone. An error in a fetched line is one on a read, whatever the access (R368). -/
def State.cachedAccess (k dom : Nat) (kind : TKind) (addr n : Nat) (data : List Byte) (fate : TFate) (s : State) : State :=
  let ls := linesOf addr n
  let s := (ls.foldl (fun s la => s.conform k dom kind la) s).onHw fun h => h.respond []
  let need := ls.filter fun la => !s.hw.served k dom kind la 1
  match need.findSome? fun la => (s.hw.mapCheck k dom (max la addr) kind).map fun c => (max la addr, c) with
  | some (a, c) => s.onHw fun h => h.violation a k dom (h.region a).target kind c
  | none =>
    let s := s.onHw fun h => need.foldl (fun h la => (h.wake la 64).memFate (max la addr) .read fate) h
    if s.hw.bus.resp.err then s else (ls.foldl (fun s la => s.fill k dom kind la) s).inCache k kind addr n data

/-- A transaction reaches its target and its response its master. -/
def State.performTxn (t : Txn) (dom : Nat) (fate : TFate) (s : State) : State :=
  let m := t.master.val
  let a := t.addr.toNat
  if m < 4 ∧ (s.hw.region a).cacheable = true then
    (s.cachedAccess m dom t.busKind a t.bytes t.data fate).onHw fun h => h.answered t .uncorrectable
  else
    let s := if t.busKind = .write then s.targetWrite m dom a t.data else s.targetRead m dom t.busKind a t.bytes
    s.onHw fun h =>
      let refused := h.bus.resp.err
      let h := h.memFate a t.busKind fate
      h.answered t (if refused then .violation else .uncorrectable)

/-! ## Source ports: credits, isolation, timeouts (R30, R35-R38) -/

/-- Outstanding transactions of a master. -/
def Hw.outstOf (h : Hw) (m : Nat) : List Issued := h.bus.outst.filter fun t => t.txn.master.val == m

/-- A transaction that has its credit. Only what crosses the fabric can stay without a response; a master's transactions to one
island complete in order (R32), so one behind an outstanding one stays outstanding. -/
def State.issue (t : Txn) (dom : Nat) (fate : TFate) (s : State) : State :=
  let h := s.hw
  let m := t.master.val
  let a := t.addr.toNat
  if h.portClosed m a then s.onHw fun h => (h.closedPort a m dom t.busKind).answered t .timeout
  else if (fate == .silent && h.islandAt a != masterIsland m)
      || (h.outstOf m).any fun o => h.islandAt o.txn.addr.toNat == h.islandAt a then
    s.onHw fun h => { h with bus := { h.bus with outst := h.bus.outst ++ [⟨t, dom⟩] } }
  else s.performTxn t dom fate

/-- A master may issue now: the debug port is open (R645), and no Lantern issues a transaction in its compute window (R28). -/
def Hw.mayIssue (h : Hw) (t : Txn) : Bool :=
  match t.master with
  | .debug => h.debug
  | .lantern _ => h.phase != .open_
  | _ => true

/-- A master makes a transaction. A host core's access that its caches serve leaves no core (R356). -/
def State.transaction (t : Txn) (fate : TFate) (s : State) : State :=
  let h := s.hw
  let m := t.master.val
  match h.txnDom t with
  | none => s
  | some dom =>
    if h.mayIssue t = false then s
    else
      let s := if m < 4 ∧ t.fencei = true then s.onHw fun h => h.fenceI m else s
      match (if m < 4 then s.hw.hostStop t else none) with
      | some e => s.onHw fun h => h.hostExc m e
      | none =>
        if 2 ^ 40 ≤ t.addr.toNat then s
        else if m < 4 ∧ (s.hw.region t.addr.toNat).cacheable = true ∧ s.hw.served m dom t.busKind t.addr.toNat t.bytes = true then
          s.performTxn t dom .answered
        else if credits m ≤ (h.outstOf m).length ∨ (h.bus.stalled.any fun o => o.txn.master.val == m) = true then
          s.onHw fun h => { h with bus := { h.bus with stalled := h.bus.stalled ++ [⟨t, dom⟩] } }
        else s.issue t dom fate

/-- The oldest transaction of a master leaves a list. -/
def takeFirst (m : Nat) : List Issued → Option (Issued × List Issued)
  | [] => none
  | t :: ts => if t.txn.master.val = m then some (t, ts) else (takeFirst m ts).map fun e => (e.1, t :: e.2)

/-- A stalled transaction of master `m` issues once a credit is free, with the domain it was made with (R354). -/
def State.stalledTxn (m : Nat) (fate : TFate) (s : State) : State :=
  if credits m ≤ (s.hw.outstOf m).length then s
  else match takeFirst m s.hw.bus.stalled with
    | none => s
    | some (t, rest) =>
      if s.hw.mayIssue t.txn then (s.onHw fun h => { h with bus := { h.bus with stalled := rest } }).issue t.txn t.dom fate else s

/-- The oldest outstanding transaction of master `m` reaches 20 µs (R35). Whether a write was performed is not known (R36): a
free value says. A core's store to a cacheable region is a fetch of its line. -/
def State.fabricTimeout (m : Nat) (s : State) : State :=
  match takeFirst m s.hw.bus.outst with
  | none => s
  | some (⟨t, dom⟩, rest) =>
    let a := t.addr.toNat
    let write := t.busKind == .write && !(decide (m < 4) && (s.hw.region a).cacheable)
    let done := decide (s.hw.freeVal 1 = 1)
    let s := s.onHw fun h => { h with bus := { h.bus with outst := rest } }
    let s := if write then
        let s := s.onHw Hw.useFree
        if done then s.targetWrite m dom a t.data else s
      else s
    s.onHw fun h =>
      ((h.timedOut a m dom (if write then 1 else 0)).answered t .timeout).settlePorts

/-! ## Host cores (R352-R360) -/

/-- A read or a write of a domain CSR (R352, R354): the value read is held in `csr`. -/
def domainCsr (k : Nat) (machine sdomain : Bool) (op : CsrOp) (h : Hw) : Hw :=
  let c := h.core k
  match op with
  | .read => if machine || sdomain then h.setCore k { c with csr := c.mdomain } else h.hostExc k .illegal
  | .write v => if sdomain || !machine then h.hostExc k .illegal else h.setCore k { c with mdomain := v.toNat % 2 ^ 16 }

def Hw.l1ce (h : Hw) : Hw := h.countS MEM_L1CE_COUNT MEM_L1CE_SAT 221 1
def Hw.l2ce (h : Hw) : Hw := h.countS MEM_L2CE_COUNT MEM_L2CE_SAT 221 1

/-- The changes of a line are lost: where a data cache still holds a byte changed, what lies beneath it is now the older value. -/
def State.loseChanges (la : Nat) (under : Tab Byte) (s : State) : State :=
  under.foldl (fun s e =>
    if (s.hw.linesAt la).any fun x => (Tab.get? x.2.under e.1).isSome then
      s.onHw fun h => (h.linesAt la).foldl (fun h x => h.setCore x.1 { h.core x.1 with lines := (h.core x.1).lines.map fun l =>
        if l.addr = la ∧ (Tab.get? l.under e.1).isSome = true then { l with under := Tab.put l.under e.1 e.2 } else l }) h
    else { s with mem := memPut s.mem e.1 e.2 }) s

/-- A line in which an error lay is fetched again for its domain (R360). -/
def State.refetch (k dom : Nat) (kind : TKind) (la : Nat) (s : State) : State := s.cachedAccess k dom kind la 64 [] .answered

/-- A double-bit error in a line with changes (R360): the core takes the exception, the error is counted and recorded, E220. -/
def Hw.dirtyLost (h : Hw) (k addr src : Nat) (store : Bool) : Hw :=
  (((h.hostExc k (if store then .storeFault else .loadFault)).ueAddr addr src).countS MEM_L2UE_COUNT MEM_L2UE_SAT 221 1).raise 220

/-- A cache error of core `k` (R360). A parity error concerns the instruction cache alone. A line of the L2 leaves it with the data
caches' copies of it, whose own changes are written back (log entry 171, DESIGN CHOICE). An error in a line that no cache holds
is none. -/
def State.cacheError (k : Nat) (err : CacheErr) (addr : Nat) (store : Bool) (s : State) : State :=
  let la := lineOf addr
  match err with
  | .parityI => match s.hw.iLine k la with
    | some l => (s.onHw fun h => (h.dropCode k la).l1ce).refetch k l.dom .fetch la
    | none => s
  | .single l2 => s.onHw fun h => if l2 then h.l2ce else h.l1ce
  | .double false => match s.hw.dLine k la with
    | some l =>
      if l.under.isEmpty then (s.onHw fun h => (h.dropLine k la).l1ce).refetch k l.dom .read la
      else { s with mem := restoreBytes s.mem l.under, hw := (s.hw.dropLine k la).dirtyLost k addr 3 store }
    | none => s
  | .double true => match s.hw.l2Line la with
    | some l =>
      if l.under.isEmpty then ((s.flushLine la).onHw Hw.l2ce).refetch k l.dom .read la
      else
        let s := s.loseChanges la l.under
        let s := (s.onHw fun h => { h with l2 := h.l2.map fun q => if q.addr = la then { q with under := [] } else q }).flushLine la
        s.onHw fun h => h.dirtyLost k addr 2 store
    | none => s

/-! ## Meanings -/

def execTransaction (t : Txn) (fate : TFate) (s : State) : Host.Outcome State Fault Refusal := .next (s.transaction t fate)
def execStalledTransaction (m : Master) (fate : TFate) (s : State) : Host.Outcome State Fault Refusal :=
  .next (s.stalledTxn m.val fate)
def execFabricTimeout (m : Master) (s : State) : Host.Outcome State Fault Refusal := .next (s.fabricTimeout m.val)
/-- A response from an isolated island is discarded (R37): nothing changes. -/
def execLateResponse (_ : Fin 20) (_ : List Byte) (s : State) : Host.Outcome State Fault Refusal := .next s
def execMdomainWrite (core : Fin 4) (machine sdomain : Bool) (op : CsrOp) (s : State) : Host.Outcome State Fault Refusal :=
  .next (s.onHw (domainCsr core.val machine sdomain op))
def execCacheWriteback (_ : Fin 4) (line : BitVec 40) (answered : Bool) (s : State) : Host.Outcome State Fault Refusal :=
  .next (s.flushLineWith answered (lineOf line.toNat))
def execCacheError (core : Fin 4) (err : CacheErr) (addr : BitVec 40) (store : Bool) (s : State) : Host.Outcome State Fault Refusal :=
  .next (s.cacheError core.val err addr.toNat store)

end Sys2Proof.Machine
end

