-- ==== Sys2Proof/Machine/Dispatch.lean ====
section
/-! DEFINITION. The dispatch: one arm for every command, each one direct call of its meaning. -/

namespace Sys2Proof.Machine

def exec (i : Instr) (s : State) : Host.Outcome State Fault Refusal :=
  match i with
  | .registerWrite src addr width val => Sys2Proof.Machine.execRegisterWrite src addr width val s
  | .lowerHalfRead src addr => Sys2Proof.Machine.execLowerHalfRead src addr s
  | .transaction t fate => Sys2Proof.Machine.execTransaction t fate s
  | .stalledTransaction m fate => Sys2Proof.Machine.execStalledTransaction m fate s
  | .fabricTimeout m => Sys2Proof.Machine.execFabricTimeout m s
  | .lateResponse island data => Sys2Proof.Machine.execLateResponse island data s
  | .preWake => Sys2Proof.Machine.execPreWake s
  | .frameStart stall0 stall1 => Sys2Proof.Machine.execFrameStart stall0 stall1 s
  | .computeWindowOpen late => Sys2Proof.Machine.execComputeWindowOpen late s
  | .loopWindowClose cause => Sys2Proof.Machine.execLoopWindowClose cause s
  | .computeWindowClose => Sys2Proof.Machine.execComputeWindowClose s
  | .publish late copyFailed => Sys2Proof.Machine.execPublish late copyFailed s
  | .frameWatchdog => Sys2Proof.Machine.execFrameWatchdog s
  | .landing src p wide v => Sys2Proof.Machine.execLanding src p wide v s
  | .zownWrite src n val => Sys2Proof.Machine.execZownWrite src n val s
  | .layoutLoad => Sys2Proof.Machine.execLayoutLoad s
  | .layoutReadDone fate => Sys2Proof.Machine.execLayoutReadDone fate s
  | .admitProg src prog lnt => Sys2Proof.Machine.execAdmitProg src prog lnt s
  | .check src prog lnt => Sys2Proof.Machine.execCheck src prog lnt s
  | .revoke src prog lnt => Sys2Proof.Machine.execRevoke src prog lnt s
  | .retireLnt src lnt => Sys2Proof.Machine.execRetireLnt src lnt s
  | .loopEnable src eng => Sys2Proof.Machine.execLoopEnable src eng s
  | .loopDisable src eng => Sys2Proof.Machine.execLoopDisable src eng s
  | .retireLoop src eng => Sys2Proof.Machine.execRetireLoop src eng s
  | .planNm1 src => Sys2Proof.Machine.execPlanNm1 src s
  | .admitVerdict fate => Sys2Proof.Machine.execAdmitVerdict fate s
  | .retirementRequest src loop lnt eng => Sys2Proof.Machine.execRetirementRequest src loop lnt eng s
  | .keeperRequestRun => Sys2Proof.Machine.execKeeperRequestRun s
  | .shadowLoadDone => Sys2Proof.Machine.execShadowLoadDone s
  | .run on => Sys2Proof.Machine.execRun on s
  | .commission src on => Sys2Proof.Machine.execCommission src on s
  | .ulcLd l sp bit idx => Sys2Proof.Machine.execUlcLd l sp bit idx s
  | .ulcLdn l sp bit idx => Sys2Proof.Machine.execUlcLdn l sp bit idx s
  | .ulcAnd l sp bit idx => Sys2Proof.Machine.execUlcAnd l sp bit idx s
  | .ulcAndn l sp bit idx => Sys2Proof.Machine.execUlcAndn l sp bit idx s
  | .ulcOr l sp bit idx => Sys2Proof.Machine.execUlcOr l sp bit idx s
  | .ulcOrn l sp bit idx => Sys2Proof.Machine.execUlcOrn l sp bit idx s
  | .ulcXor l sp bit idx => Sys2Proof.Machine.execUlcXor l sp bit idx s
  | .ulcXorn l sp bit idx => Sys2Proof.Machine.execUlcXorn l sp bit idx s
  | .ulcAndBracket l => Sys2Proof.Machine.execUlcAndBracket l s
  | .ulcOrBracket l => Sys2Proof.Machine.execUlcOrBracket l s
  | .ulcXorBracket l => Sys2Proof.Machine.execUlcXorBracket l s
  | .ulcCloseBracket l => Sys2Proof.Machine.execUlcCloseBracket l s
  | .ulcSt l sp bit idx => Sys2Proof.Machine.execUlcSt l sp bit idx s
  | .ulcStn l sp bit idx => Sys2Proof.Machine.execUlcStn l sp bit idx s
  | .ulcS l sp bit idx => Sys2Proof.Machine.execUlcS l sp bit idx s
  | .ulcR l sp bit idx => Sys2Proof.Machine.execUlcR l sp bit idx s
  | .ulcRe l m idx => Sys2Proof.Machine.execUlcRe l m idx s
  | .ulcFe l m idx => Sys2Proof.Machine.execUlcFe l m idx s
  | .ulcBop l f => Sys2Proof.Machine.execUlcBop l f s
  | .ulcIf l => Sys2Proof.Machine.execUlcIf l s
  | .ulcElse l => Sys2Proof.Machine.execUlcElse l s
  | .ulcEndif l => Sys2Proof.Machine.execUlcEndif l s
  | .ulcTon l m idx => Sys2Proof.Machine.execUlcTon l m idx s
  | .ulcTof l m idx => Sys2Proof.Machine.execUlcTof l m idx s
  | .ulcTp l m idx => Sys2Proof.Machine.execUlcTp l m idx s
  | .ulcTrs l m idx => Sys2Proof.Machine.execUlcTrs l m idx s
  | .ulcCtu l m idx => Sys2Proof.Machine.execUlcCtu l m idx s
  | .ulcCtd l m idx => Sys2Proof.Machine.execUlcCtd l m idx s
  | .ulcCtw l m idx => Sys2Proof.Machine.execUlcCtw l m idx s
  | .ulcCld l m idx => Sys2Proof.Machine.execUlcCld l m idx s
  | .ulcLa l sp m idx => Sys2Proof.Machine.execUlcLa l sp m idx s
  | .ulcLb l sp m idx => Sys2Proof.Machine.execUlcLb l sp m idx s
  | .ulcLas l m idx => Sys2Proof.Machine.execUlcLas l m idx s
  | .ulcLag l m idx => Sys2Proof.Machine.execUlcLag l m idx s
  | .ulcTa l sp m idx => Sys2Proof.Machine.execUlcTa l sp m idx s
  | .ulcTas l sp m idx => Sys2Proof.Machine.execUlcTas l sp m idx s
  | .ulcLai l imm => Sys2Proof.Machine.execUlcLai l imm s
  | .ulcLbi l imm => Sys2Proof.Machine.execUlcLbi l imm s
  | .ulcLak l lit => Sys2Proof.Machine.execUlcLak l lit s
  | .ulcLbk l lit => Sys2Proof.Machine.execUlcLbk l lit s
  | .ulcWmv l f => Sys2Proof.Machine.execUlcWmv l f s
  | .ulcIop l f => Sys2Proof.Machine.execUlcIop l f s
  | .ulcFop l f => Sys2Proof.Machine.execUlcFop l f s
  | .ulcCvt l f => Sys2Proof.Machine.execUlcCvt l f s
  | .ulcCmp l ty r => Sys2Proof.Machine.execUlcCmp l ty r s
  | .ulcScl l ty m k => Sys2Proof.Machine.execUlcScl l ty m k s
  | .ulcLim l ty m k => Sys2Proof.Machine.execUlcLim l ty m k s
  | .ulcJmp l c dist => Sys2Proof.Machine.execUlcJmp l c dist s
  | .ulcLoop l count a b => Sys2Proof.Machine.execUlcLoop l count a b s
  | .ulcEndl l => Sys2Proof.Machine.execUlcEndl l s
  | .ulcCall l blk => Sys2Proof.Machine.execUlcCall l blk s
  | .ulcRet l => Sys2Proof.Machine.execUlcRet l s
  | .ulcEnd l => Sys2Proof.Machine.execUlcEnd l s
  | .ulcNop l => Sys2Proof.Machine.execUlcNop l s
  | .ulcLsm l mode idx => Sys2Proof.Machine.execUlcLsm l mode idx s
  | .ulcLdsb l sel => Sys2Proof.Machine.execUlcLdsb l sel s
  | .ulcLdsw l sel => Sys2Proof.Machine.execUlcLdsw l sel s
  | .lanternMemoryError l corrected r off => Sys2Proof.Machine.execLanternMemoryError l corrected r off s
  | .forceWrite src n val => Sys2Proof.Machine.execForceWrite src n val s
  | .stationWrite n map val => Sys2Proof.Machine.execStationWrite n map val s
  | .stationSupervision on => Sys2Proof.Machine.execStationSupervision on s
  | .loopDescriptorWrite src m off v => Sys2Proof.Machine.execLoopDescriptorWrite src m off v s
  | .stgcmdGo src m cmd => Sys2Proof.Machine.execStgcmdGo src m cmd s
  | .injArm m k => Sys2Proof.Machine.execInjArm m k s
  | .injAbort m k => Sys2Proof.Machine.execInjAbort m k s
  | .injen m on => Sys2Proof.Machine.execInjen m on s
  | .capArm m k => Sys2Proof.Machine.execCapArm m k s
  | .capsel m buf => Sys2Proof.Machine.execCapsel m buf s
  | .slotFault m off capture corrected => Sys2Proof.Machine.execSlotFault m off capture corrected s
  | .loadProg => Sys2Proof.Machine.execLoadProg s
  | .loadProb => Sys2Proof.Machine.execLoadProb s
  | .loadVerdict fate => Sys2Proof.Machine.execLoadVerdict fate s
  | .dpeSolve => Sys2Proof.Machine.execDpeSolve s
  | .dpeAbort => Sys2Proof.Machine.execDpeAbort s
  | .dpeUnload => Sys2Proof.Machine.execDpeUnload s
  | .unloadClearDone => Sys2Proof.Machine.execUnloadClearDone s
  | .dpeEn on => Sys2Proof.Machine.execDpeEn on s
  | .scfgWrite val => Sys2Proof.Machine.execScfgWrite val s
  | .capsWrite val => Sys2Proof.Machine.execCapsWrite val s
  | .scratchWrite src off data => Sys2Proof.Machine.execScratchWrite src off data s
  | .gatherComplete failed => Sys2Proof.Machine.execGatherComplete failed s
  | .stagingComplete => Sys2Proof.Machine.execStagingComplete s
  | .solveDeadline => Sys2Proof.Machine.execSolveDeadline s
  | .dpeMemoryError corrected code addr => Sys2Proof.Machine.execDpeMemoryError corrected code addr s
  | .dIadd d a b => Sys2Proof.Machine.execDIadd d a b s
  | .dIsub d a b => Sys2Proof.Machine.execDIsub d a b s
  | .dIaddi d a imm => Sys2Proof.Machine.execDIaddi d a imm s
  | .dIli d imm => Sys2Proof.Machine.execDIli d imm s
  | .dImul d a b => Sys2Proof.Machine.execDImul d a b s
  | .dFadd d a b => Sys2Proof.Machine.execDFadd d a b s
  | .dFsub d a b => Sys2Proof.Machine.execDFsub d a b s
  | .dFmul d a b => Sys2Proof.Machine.execDFmul d a b s
  | .dFfma d a b c => Sys2Proof.Machine.execDFfma d a b c s
  | .dFdiv d a b => Sys2Proof.Machine.execDFdiv d a b s
  | .dFsqrt d a => Sys2Proof.Machine.execDFsqrt d a s
  | .dFmm d f => Sys2Proof.Machine.execDFmm d f s
  | .dFli d imm => Sys2Proof.Machine.execDFli d imm s
  | .dCvt toInt d a => Sys2Proof.Machine.execDCvt toInt d a s
  | .dLdw int d a imm => Sys2Proof.Machine.execDLdw int d a imm s
  | .dStw int a b imm => Sys2Proof.Machine.execDStw int a b imm s
  | .dVdset d a base => Sys2Proof.Machine.execDVdset d a base s
  | .dVdsub d a b c => Sys2Proof.Machine.execDVdsub d a b c s
  | .dNop => Sys2Proof.Machine.execDNop s
  | .dVcpy d a => Sys2Proof.Machine.execDVcpy d a s
  | .dVset d c => Sys2Proof.Machine.execDVset d c s
  | .dVaxpy d a b c => Sys2Proof.Machine.execDVaxpy d a b c s
  | .dVaxpby d a b c f => Sys2Proof.Machine.execDVaxpby d a b c f s
  | .dVmul d a b => Sys2Proof.Machine.execDVmul d a b s
  | .dVdiv d a b => Sys2Proof.Machine.execDVdiv d a b s
  | .dVmm d f => Sys2Proof.Machine.execDVmm d f s
  | .dVproj d a b c => Sys2Proof.Machine.execDVproj d a b c s
  | .dVnrm f d a => Sys2Proof.Machine.execDVnrm f d a s
  | .dVdot d a b => Sys2Proof.Machine.execDVdot d a b s
  | .dSpmv d m b c f => Sys2Proof.Machine.execDSpmv d m b c f s
  | .dSpmvt d m b c f => Sys2Proof.Machine.execDSpmvt d m b c f s
  | .dSpmvs d b c f => Sys2Proof.Machine.execDSpmvs d b c f s
  | .dLdlf b c => Sys2Proof.Machine.execDLdlf b c s
  | .dTrsvl d a => Sys2Proof.Machine.execDTrsvl d a s
  | .dTrsvu d a => Sys2Proof.Machine.execDTrsvu d a s
  | .dDsolve d a => Sys2Proof.Machine.execDDsolve d a s
  | .dB c tgt => Sys2Proof.Machine.execDB c tgt s
  | .dCall tgt => Sys2Proof.Machine.execDCall tgt s
  | .dRet => Sys2Proof.Machine.execDRet s
  | .dItmark => Sys2Proof.Machine.execDItmark s
  | .dRpt a b => Sys2Proof.Machine.execDRpt a b s
  | .dGstat f d => Sys2Proof.Machine.execDGstat f d s
  | .dClrf => Sys2Proof.Machine.execDClrf s
  | .dDone r a => Sys2Proof.Machine.execDDone r a s
  | .sample n code unstable => Sys2Proof.Machine.execSample n code unstable s
  | .settledSamples n => Sys2Proof.Machine.execSettledSamples n s
  | .windowEnd f back => Sys2Proof.Machine.execWindowEnd f back s
  | .fixedWindowEnd w => Sys2Proof.Machine.execFixedWindowEnd w s
  | .trackerTimeout f => Sys2Proof.Machine.execTrackerTimeout f s
  | .apply src mask => Sys2Proof.Machine.execApply src mask s
  | .callock src => Sys2Proof.Machine.execCallock src s
  | .feederCfgWrite src f v => Sys2Proof.Machine.execFeederCfgWrite src f v s
  | .refdriftCheck ppm => Sys2Proof.Machine.execRefdriftCheck ppm s
  | .filterMemoryError n => Sys2Proof.Machine.execFilterMemoryError n s
  | .billingIntervalEnd f => Sys2Proof.Machine.execBillingIntervalEnd f s
  | .snap src fmask heat => Sys2Proof.Machine.execSnap src fmask heat s
  | .heatSnapshot => Sys2Proof.Machine.execHeatSnapshot s
  | .saveDue => Sys2Proof.Machine.execSaveDue s
  | .savenow src => Sys2Proof.Machine.execSavenow src s
  | .saveDone => Sys2Proof.Machine.execSaveDone s
  | .clear src => Sys2Proof.Machine.execClear src s
  | .gapclr src => Sys2Proof.Machine.execGapclr src s
  | .heatCfgWrite src c word v => Sys2Proof.Machine.execHeatCfgWrite src c word v s
  | .savecfgWrite src period phase => Sys2Proof.Machine.execSavecfgWrite src period phase s
  | .billingRegisterError n corrected => Sys2Proof.Machine.execBillingRegisterError n corrected s
  | .pulseInputEdge n falling => Sys2Proof.Machine.execPulseInputEdge n falling s
  | .pulseEmit n => Sys2Proof.Machine.execPulseEmit n s
  | .pulseOutCfgWrite src n v => Sys2Proof.Machine.execPulseOutCfgWrite src n v s
  | .mdomainWrite core machineMode sdomain op => Sys2Proof.Machine.execMdomainWrite core machineMode sdomain op s
  | .cacheWriteback core line answered => Sys2Proof.Machine.execCacheWriteback core line answered s
  | .cacheError core err addr store => Sys2Proof.Machine.execCacheError core err addr store s
  | .actRd src => Sys2Proof.Machine.execActRd src s
  | .actWr src => Sys2Proof.Machine.execActWr src s
  | .hostwr src allow => Sys2Proof.Machine.execHostwr src allow s
  | .actLock src => Sys2Proof.Machine.execActLock src s
  | .ddrInit src => Sys2Proof.Machine.execDdrInit src s
  | .ddrTrainingDone ok => Sys2Proof.Machine.execDdrTrainingDone ok s
  | .scrubPass ddr corrected ues => Sys2Proof.Machine.execScrubPass ddr corrected ues s
  | .xltInv src vpn as allva allas => Sys2Proof.Machine.execXltInv src vpn as allva allas s
  | .invDone => Sys2Proof.Machine.execInvDone s
  | .pinWrite src n pa val => Sys2Proof.Machine.execPinWrite src n pa val s
  | .bindWrite src n val => Sys2Proof.Machine.execBindWrite src n val s
  | .tenderEn src on => Sys2Proof.Machine.execTenderEn src on s
  | .channelEn src n cfg => Sys2Proof.Machine.execChannelEn src n cfg s
  | .tndStart n trig => Sys2Proof.Machine.execTndStart n trig s
  | .tndResume src n => Sys2Proof.Machine.execTndResume src n s
  | .tndAbort src n => Sys2Proof.Machine.execTndAbort src n s
  | .descriptorFetch n => Sys2Proof.Machine.execDescriptorFetch n s
  | .granuleIssue err => Sys2Proof.Machine.execGranuleIssue err s
  | .translationFault n => Sys2Proof.Machine.execTranslationFault n s
  | .tndError n err dst => Sys2Proof.Machine.execTndError n err dst s
  | .descriptorComplete n => Sys2Proof.Machine.execDescriptorComplete n s
  | .frameReceived port fcsOk frame => Sys2Proof.Machine.execFrameReceived port fcsOk frame s
  | .pktTransmit port err => Sys2Proof.Machine.execPktTransmit port err s
  | .linkChange port up => Sys2Proof.Machine.execLinkChange port up s
  | .pktStationWrite src n word val => Sys2Proof.Machine.execPktStationWrite src n word val s
  | .morBegin src q => Sys2Proof.Machine.execMorBegin src q s
  | .morPush src q w => Sys2Proof.Machine.execMorPush src q w s
  | .packetEnd src q flags last => Sys2Proof.Machine.execPacketEnd src q flags last s
  | .morPop src q err => Sys2Proof.Machine.execMorPop src q err s
  | .morFlush q => Sys2Proof.Machine.execMorFlush q s
  | .banken en => Sys2Proof.Machine.execBanken en s
  | .quarantine src cell => Sys2Proof.Machine.execQuarantine src cell s
  | .quarantineReturn src cell => Sys2Proof.Machine.execQuarantineReturn src cell s
  | .canFrameStored n f => Sys2Proof.Machine.execCanFrameStored n f s
  | .startOfFrame n => Sys2Proof.Machine.execStartOfFrame n s
  | .canFrameSent n => Sys2Proof.Machine.execCanFrameSent n s
  | .canError n e => Sys2Proof.Machine.execCanError n e s
  | .busOffRecovery n => Sys2Proof.Machine.execBusOffRecovery n s
  | .canTxrq src n m => Sys2Proof.Machine.execCanTxrq src n m s
  | .canCancel src n m => Sys2Proof.Machine.execCanCancel src n m s
  | .fifoPush src n => Sys2Proof.Machine.execFifoPush src n s
  | .fifoFlush src n => Sys2Proof.Machine.execFifoFlush src n s
  | .timingWrite src n data val => Sys2Proof.Machine.execTimingWrite src n data val s
  | .canMode src n mode => Sys2Proof.Machine.execCanMode src n mode s
  | .objectWrite src n m word val => Sys2Proof.Machine.execObjectWrite src n m word val s
  | .timLock src => Sys2Proof.Machine.execTimLock src s
  | .timLocked src => Sys2Proof.Machine.execTimLocked src s
  | .timHold src => Sys2Proof.Machine.execTimHold src s
  | .timRelock src => Sys2Proof.Machine.execTimRelock src s
  | .timFree src => Sys2Proof.Machine.execTimFree src s
  | .timStep src => Sys2Proof.Machine.execTimStep src s
  | .timKeep src => Sys2Proof.Machine.execTimKeep src s
  | .timCapt src => Sys2Proof.Machine.execTimCapt src s
  | .rateWrite src rate => Sys2Proof.Machine.execRateWrite src rate s
  | .slewGo src ms => Sys2Proof.Machine.execSlewGo src ms s
  | .slewEnd => Sys2Proof.Machine.execSlewEnd s
  | .servoTimeout => Sys2Proof.Machine.execServoTimeout s
  | .clockFold => Sys2Proof.Machine.execClockFold s
  | .tpArm src n cfg => Sys2Proof.Machine.execTpArm src n cfg s
  | .tpStop src n => Sys2Proof.Machine.execTpStop src n s
  | .tpEdge n => Sys2Proof.Machine.execTpEdge n s
  | .nvmWrite src len txn ie => Sys2Proof.Machine.execNvmWrite src len txn ie s
  | .groupCommit plane verified => Sys2Proof.Machine.execGroupCommit plane verified s
  | .nvmRead src => Sys2Proof.Machine.execNvmRead src s
  | .nvmReadDone lost => Sys2Proof.Machine.execNvmReadDone lost s
  | .compactionStart => Sys2Proof.Machine.execCompactionStart s
  | .compactionPage => Sys2Proof.Machine.execCompactionPage s
  | .sectorEraseDone verified => Sys2Proof.Machine.execSectorEraseDone verified s
  | .compactRequest src sector refresh => Sys2Proof.Machine.execCompactRequest src sector refresh s
  | .codeRefresh src sector bad => Sys2Proof.Machine.execCodeRefresh src sector bad s
  | .cntinc src cnt => Sys2Proof.Machine.execCntinc src cnt s
  | .powerDownComplete => Sys2Proof.Machine.execPowerDownComplete s
  | .modeWrite src mode => Sys2Proof.Machine.execModeWrite src mode s
  | .keyCreate src node parent => Sys2Proof.Machine.execKeyCreate src node parent s
  | .keyInvalidate src node => Sys2Proof.Machine.execKeyInvalidate src node s
  | .keyUpdate src node => Sys2Proof.Machine.execKeyUpdate src node s
  | .keyDelete src node => Sys2Proof.Machine.execKeyDelete src node s
  | .keyReenrol src => Sys2Proof.Machine.execKeyReenrol src s
  | .keyRecover src tamperLow => Sys2Proof.Machine.execKeyRecover src tamperLow s
  | .keyAnchor src => Sys2Proof.Machine.execKeyAnchor src s
  | .ledgerCommit ok => Sys2Proof.Machine.execLedgerCommit ok s
  | .engSel src e node => Sys2Proof.Machine.execEngSel src e node s
  | .jobSubmit src e => Sys2Proof.Machine.execJobSubmit src e s
  | .jobDone e => Sys2Proof.Machine.execJobDone e s
  | .floorCommit node => Sys2Proof.Machine.execFloorCommit node s
  | .slotWrite src slot => Sys2Proof.Machine.execSlotWrite src slot s
  | .tamper => Sys2Proof.Machine.execTamper s
  | .keyRamError node => Sys2Proof.Machine.execKeyRamError node s
  | .swraise src n => Sys2Proof.Machine.execSwraise src n s
  | .claim src c => Sys2Proof.Machine.execClaim src c s
  | .logRecord => Sys2Proof.Machine.execLogRecord s
  | .rateWindowClose code => Sys2Proof.Machine.execRateWindowClose code s
  | .logWrite src code sev => Sys2Proof.Machine.execLogWrite src code sev s
  | .logNext src p => Sys2Proof.Machine.execLogNext src p s
  | .readerDone p => Sys2Proof.Machine.execReaderDone p s
  | .logClear src addr => Sys2Proof.Machine.execLogClear src addr s
  | .clearVerdict => Sys2Proof.Machine.execClearVerdict s
  | .heartbeatPeriod => Sys2Proof.Machine.execHeartbeatPeriod s
  | .heartbeat path m => Sys2Proof.Machine.execHeartbeat path m s
  | .checkpointDue => Sys2Proof.Machine.execCheckpointDue s
  | .cknow src => Sys2Proof.Machine.execCknow src s
  | .ckSegSend => Sys2Proof.Machine.execCkSegSend s
  | .ckSeg path m => Sys2Proof.Machine.execCkSeg path m s
  | .ckAck path m => Sys2Proof.Machine.execCkAck path m s
  | .leaseReqPeriod => Sys2Proof.Machine.execLeaseReqPeriod s
  | .requestUnanswered => Sys2Proof.Machine.execRequestUnanswered s
  | .leaseReq m => Sys2Proof.Machine.execLeaseReq m s
  | .confirmQ m => Sys2Proof.Machine.execConfirmQ m s
  | .release path m => Sys2Proof.Machine.execRelease path m s
  | .leaseGrant m => Sys2Proof.Machine.execLeaseGrant m s
  | .leaseDeny m => Sys2Proof.Machine.execLeaseDeny m s
  | .wait m => Sys2Proof.Machine.execWait m s
  | .leaseEnd => Sys2Proof.Machine.execLeaseEnd s
  | .witnessExpiry => Sys2Proof.Machine.execWitnessExpiry s
  | .witnessStart => Sys2Proof.Machine.execWitnessStart s
  | .silence => Sys2Proof.Machine.execSilence s
  | .confirmQRepeat => Sys2Proof.Machine.execConfirmQRepeat s
  | .pathSilence path => Sys2Proof.Machine.execPathSilence path s
  | .witnessUnreachable => Sys2Proof.Machine.execWitnessUnreachable s
  | .switch src => Sys2Proof.Machine.execSwitch src s
  | .switchAckTimeout => Sys2Proof.Machine.execSwitchAckTimeout s
  | .join src => Sys2Proof.Machine.execJoin src s
  | .selfTestCycle pass fails => Sys2Proof.Machine.execSelfTestCycle pass fails s
  | .hourlyReading d mv supplies => Sys2Proof.Machine.execHourlyReading d mv supplies s
  | .temperatureReading t => Sys2Proof.Machine.execTemperatureReading t s
  | .marginRead code sector low => Sys2Proof.Machine.execMarginRead code sector low s
  | .vddConfirmed mv => Sys2Proof.Machine.execVddConfirmed mv s
  | .supplyConfirmTimeout => Sys2Proof.Machine.execSupplyConfirmTimeout s
  | .keepPlan src => Sys2Proof.Machine.execKeepPlan src s
  | .keepRead src => Sys2Proof.Machine.execKeepRead src s
  | .keepAccept src => Sys2Proof.Machine.execKeepAccept src s
  | .keepUnretire src isl => Sys2Proof.Machine.execKeepUnretire src isl s
  | .por => Sys2Proof.Machine.execPor s
  | .pinReset => Sys2Proof.Machine.execPinReset s
  | .systemWatchdogExpiry => Sys2Proof.Machine.execSystemWatchdogExpiry s
  | .portIsolationTimeout isl => Sys2Proof.Machine.execPortIsolationTimeout isl s
  | .reset src cold => Sys2Proof.Machine.execReset src cold s
  | .keeperWatchdog => Sys2Proof.Machine.execKeeperWatchdog s
  | .saveTimeout => Sys2Proof.Machine.execSaveTimeout s
  | .pfret => Sys2Proof.Machine.execPfret s
  | .boot b => Sys2Proof.Machine.execBoot b s
  | .suppliesInRange => Sys2Proof.Machine.execSuppliesInRange s
  | .supplyTimeout => Sys2Proof.Machine.execSupplyTimeout s
  | .powerFail => Sys2Proof.Machine.execPowerFail s
  | .supplyOutOfRange n => Sys2Proof.Machine.execSupplyOutOfRange n s
  | .watchdogEn src period => Sys2Proof.Machine.execWatchdogEn src period s
  | .wdkick src key => Sys2Proof.Machine.execWdkick src key s
  | .confirm src => Sys2Proof.Machine.execConfirm src s
  | .slotSwitch src bad => Sys2Proof.Machine.execSlotSwitch src bad s
  | .coldnow src => Sys2Proof.Machine.execColdnow src s
  | .fogsw src on => Sys2Proof.Machine.execFogsw src on s
  | .machineTimer => Sys2Proof.Machine.execMachineTimer s
  | .set src mask => Sys2Proof.Machine.execSet src mask s
  | .clr src mask => Sys2Proof.Machine.execClr src mask s
  | .arbitrationLost n => Sys2Proof.Machine.execArbitrationLost n s
  | .pulseEnd n => Sys2Proof.Machine.execPulseEnd n s
  | .supplyBackInRange n => Sys2Proof.Machine.execSupplyBackInRange n s
  | .lossOfSupply => Sys2Proof.Machine.execLossOfSupply s
  | .pfiNReturnsHigh => Sys2Proof.Machine.execPfiNReturnsHigh s
  | .tamperReset => Sys2Proof.Machine.execTamperReset s
  | .keyCommandEnd => Sys2Proof.Machine.execKeyCommandEnd s
  | .codeSectorProgrammed => Sys2Proof.Machine.execCodeSectorProgrammed s

end Sys2Proof.Machine
end

