-- ==== Sys2Proof/Machine/Power.lean ====
section
/-! DEFINITION. Clocks and power of the islands as the other state gives them (01 R45-R48): which memory banks are powered, which
islands have pending work, and which logic clocks run. No register sets any of it. -/

namespace Sys2Proof.Machine

/-- Island that holds a memory bank (R21). -/
def Bank.island : Bank → Nat
  | .lantern l _ => 2 + l | .slot m _ => 10 + m | .scratch _ => 12 | .sram _ | .image | .pool => 18

/-- A bank stays powered while its program is admitted or its slot enabled: the IN window, OUT staging, timer, counter and local-word
banks of a Lantern, the slot memory of a loop slot (R47). -/
def Hw.bankKept (h : Hw) : Bank → Bool
  | .lantern l i => !(h.programs l).isEmpty && (decide (i ≤ 3) || i == 5)
  | .slot m s => (h.eng m).flag s dEn
  | _ => false

/-- A bank is powered: it is kept, or an access woke it and it has not been idle since; never in a retired island (R45, R47, R48). -/
def Hw.powered (h : Hw) (b : Bank) : Bool := !h.bus.retired.contains b.island && (h.bankKept b || h.banks.contains b)

/-- Work of an island that the state holds, beside what pre-wake brings and transactions under way: the Keeper and the time island
always work; the host island once its cores have started. -/
def Hw.ownWork (h : Hw) (i : Nat) : Bool :=
  if i = 0 ∨ i = 16 then true
  else if i = 1 then h.sys.entry.isSome
  else if i < 10 then (match (h.lan (i - 2)).doing with
    | .running _ _ _ => true
    | _ => false)
  else if i < 12 then !(h.eng (i - 10)).left.isEmpty
  else if i = 12 then h.dActive || h.dpe.load.isSome || h.dpe.clearing
  else if i = 13 then h.mtr.ch.any fun c => c.2.en
  else if i = 14 then !(h.pkt.land.isEmpty && h.pkt.build.isEmpty && h.pkt.outq.isEmpty)
  else if i = 15 then h.can.any fun c => c.2.arb.isSome || !(c.2.fifo.isEmpty && c.2.land.isEmpty && c.2.fill.isEmpty)
  else if i = 17 then h.key.cmd.isSome || !h.key.job.isEmpty
  else if i = 18 then h.phase != .idle || h.adm.cmd.isSome || h.img.load.isSome || (List.range 64).any fun n => h.fld (TND_CH_STAT_STATE n) == chActive
  else h.nvm.comp.isSome || h.nvm.erase.isSome || h.nvm.refresh.isSome || h.nvm.read.isSome || !h.nvm.reqs.isEmpty

/-- An island has pending work: its own, a frame that pre-wake announced (R46), or a transaction under way from or to it. -/
def Hw.pendingWork (h : Hw) (i : Nat) : Bool :=
  h.ownWork i || h.awake.contains i
    || h.bus.outst.any fun t => masterIsland t.txn.master.val == i || h.islandAt t.txn.addr.toNat == i

/-- The logic clock of an island runs: it has pending work and is not retired (R45, R48). -/
def Hw.clockRuns (h : Hw) (i : Nat) : Bool := !h.bus.retired.contains i && h.pendingWork i

end Sys2Proof.Machine
end

