-- ==== Sys2Proof/Safety.lean ====
section
/-! DEFINITION. The terms claims are stated in: what a safe run is, what a command leaves as it was, and what it raises
and records. -/

namespace Sys2Proof

/-- A step that goes on. -/
def isNext {σ φ ρ : Type} : Host.Outcome σ φ ρ → Bool
  | .next _ => true
  | _ => false

/-- The state an outcome goes on to. -/
def nextOf {σ φ ρ : Type} : Host.Outcome σ φ ρ → Option σ
  | .next s => some s
  | _ => none

/-- A state is safe to step from: its step neither faults nor refuses. -/
def Machine.State.safe (s : Machine.State) : Prop := ∃ t, Machine.step s = .next t

/-- A run of `n` steps from `s` is safe: every state on it steps on. -/
def Machine.State.safeFor : Nat → Machine.State → Prop
  | 0, _ => True
  | n + 1, s => ∃ t, Machine.step s = .next t ∧ Machine.State.safeFor n t

end Sys2Proof

namespace Sys2Proof.Machine

/-! ## Frames -/

/-- The parts of the hardware beside its register fields: one name for each field of `Hw` but `flds`. -/
inductive Part where
  | free | bus | cores | l2 | banks | windows | iotlb | inv | tch | tlast | ddrTraining | ddrFit | clk | tp | evtLatch | evtLoop
  | log | nvm | key | debug | img | lnt | progs | adm | lpe | redir | keep | mor | pkt | can | dpe | mtr | bil | wch
  | forceSaved | phase | frame | awake | sys
  deriving DecidableEq, Repr

/-- A part is the same in two states of the hardware. -/
def Part.same (h h' : Hw) : Part → Prop
  | .free => h'.free = h.free
  | .bus => h'.bus = h.bus
  | .cores => h'.cores = h.cores
  | .l2 => h'.l2 = h.l2
  | .banks => h'.banks = h.banks
  | .windows => h'.windows = h.windows
  | .iotlb => h'.iotlb = h.iotlb
  | .inv => h'.inv = h.inv
  | .tch => h'.tch = h.tch
  | .tlast => h'.tlast = h.tlast
  | .ddrTraining => h'.ddrTraining = h.ddrTraining
  | .ddrFit => h'.ddrFit = h.ddrFit
  | .clk => h'.clk = h.clk
  | .tp => h'.tp = h.tp
  | .evtLatch => h'.evtLatch = h.evtLatch
  | .evtLoop => h'.evtLoop = h.evtLoop
  | .log => h'.log = h.log
  | .nvm => h'.nvm = h.nvm
  | .key => h'.key = h.key
  | .debug => h'.debug = h.debug
  | .img => h'.img = h.img
  | .lnt => h'.lnt = h.lnt
  | .progs => h'.progs = h.progs
  | .adm => h'.adm = h.adm
  | .lpe => h'.lpe = h.lpe
  | .redir => h'.redir = h.redir
  | .keep => h'.keep = h.keep
  | .mor => h'.mor = h.mor
  | .pkt => h'.pkt = h.pkt
  | .can => h'.can = h.can
  | .dpe => h'.dpe = h.dpe
  | .mtr => h'.mtr = h.mtr
  | .bil => h'.bil = h.bil
  | .wch => h'.wch = h.wch
  | .forceSaved => h'.forceSaved = h.forceSaved
  | .phase => h'.phase = h.phase
  | .frame => h'.frame = h.frame
  | .awake => h'.awake = h.awake
  | .sys => h'.sys = h.sys

/-- The block a register field lies in: bits 31:16 of its address. -/
abbrev Fld.block (f : Fld) : Nat := Fld.key f / 2 ^ 22

/-- What a command may change: single register fields, whole register blocks, parts of the hardware. -/
structure Scope where
  fields : List Fld
  blocks : List Nat
  parts : List Part

/-- A field lies in a scope. -/
def Scope.has (sc : Scope) (g : Fld) : Prop := Fld.key g ∈ sc.fields.map Fld.key ∨ Fld.block g ∈ sc.blocks

/-- Outside the scope nothing differs: every other register field and every other part reads as before. -/
structure Agrees (sc : Scope) (h h' : Hw) : Prop where
  flds : ∀ g : Fld, ¬sc.has g → h'.fld g = h.fld g
  parts : ∀ p : Part, p ∉ sc.parts → Part.same h h' p

/-- A scope without events: the named fields and parts. -/
def own (fields : List Fld) (parts : List Part) : Scope := ⟨fields, [], parts⟩

/-- A scope with events: the named fields and parts, and what a raised event changes (R558): the pending registers of the
EVT block, the channels a trigger starts, the event latches. -/
def ownEvents (fields : List Fld) (parts : List Part) : Scope :=
  ⟨fields, [0x3002, 0x302C], .tch :: .evtLatch :: .evtLoop :: parts⟩

/-- A scope that takes in whole register blocks, and what a raised event changes. -/
def inBlocks (blocks : List Nat) (parts : List Part) : Scope :=
  ⟨[], 0x3002 :: 0x302C :: blocks, .tch :: .evtLatch :: .evtLoop :: parts⟩

/-- The same with single register fields beside the blocks. -/
def inBlocksAnd (fields : List Fld) (blocks : List Nat) (parts : List Part) : Scope := { inBlocks blocks parts with fields := fields }

/-- A scope with a hardware fault: what a report to the Keeper may lead to (R614-R616), events taken in: its own block and
WCH.HEALTH, a retirement request, the states of the frame engine, the Lanterns and the loop engines. -/
def withFault (blocks : List Nat) (parts : List Part) : Scope :=
  inBlocks ([0x3001, 0x3004, 0x3008, 0x3009, 0x300A, 0x300B, 0x300C, 0x300D, 0x300E, 0x300F, 0x3010, 0x3011, 0x302B] ++ blocks)
    ([.keep, .log, .free, .adm] ++ parts)

/-- The command answers a next state that keeps the queue and general memory, differs from `s` inside the scope only, and
satisfies `P`. -/
def Runs (c : Instr) (s : State) (sc : Scope) (P : Hw → Prop) : Prop :=
  ∃ t, exec c s = .next t ∧ t.pending = s.pending ∧ t.mem = s.mem ∧ Agrees sc s.hw t.hw ∧ P t.hw

/-- As `Runs`, for a command that may write general memory: every byte outside `touched` reads as before. -/
def RunsMem (c : Instr) (s : State) (sc : Scope) (touched : Nat → Prop) (P : State → Prop) : Prop :=
  ∃ t, exec c s = .next t ∧ t.pending = s.pending ∧ (∀ a, ¬touched a → memGet t.mem a = memGet s.mem a) ∧
    Agrees sc s.hw t.hw ∧ P t

/-- The bytes of a range. -/
def Bytes (a n : Nat) : Nat → Prop := fun x => a ≤ x ∧ x < a + n

/-- No byte. -/
def NoBytes : Nat → Prop := fun _ => False

/-! ## Events and records -/

/-- Event `n` has reached every host context that EVT.ROUTEn names (R559). -/
def Signals (n : Nat) (h h' : Hw) : Prop :=
  ∀ c : Fin 8, h.fldBit (EVT_ROUTE_CTX n) c.val = true → h'.fldBit (EVT_PEND c.val (n / 64)) (n % 64) = true

/-- One Logbook record of a code has been presented, with a parameter where one is named, and the Logbook is otherwise as
it was (R563). -/
def Records (code : Nat) (param : Option Nat) (h h' : Hw) : Prop :=
  ∃ r : LogRec, r.code = code ∧ (∀ p, param = some p → r.param = p % 2 ^ 64) ∧
    h'.log = { h.log with arriving := LogRec.insert r h.log.arriving }

/-! ## Access violations (R378) -/

/-- What a violation writes: the record at the ring position `n`, the ring's head, the counter. -/
def violationFields (n : Nat) : List Fld :=
  [ACT_VREC_ADDR n, ACT_VREC_MASTER n, ACT_VREC_DOMAIN n, ACT_VREC_TARGET n, ACT_VREC_KIND n, ACT_VREC_CAUSE n, ACT_VREC_TIME n,
    ACT_VHEAD_NEXT, ACT_VCNT_COUNT, ACT_VCNT_SAT]

/-- What a violation changes: its record, the response, and the exception that a host core takes. -/
def violationScope (h : Hw) : Scope := ownEvents (violationFields (h.fld ACT_VHEAD_NEXT)) [.bus, .cores]

/-- A refused transaction has been recorded at the ring's head, E208 raised and an error response given; a host core takes the
access fault of its kind (R377, R378). -/
def Violates (addr : Nat) (src : Src) (target : Nat) (kind : TKind) (cause : Cause) (h h' : Hw) : Prop :=
  let n := h.fld ACT_VHEAD_NEXT
  h'.fld (ACT_VREC_ADDR n) = addr % 2 ^ 40 ∧ h'.fld (ACT_VREC_MASTER n) = src.master.val ∧
    h'.fld (ACT_VREC_DOMAIN n) = src.dom.toNat ∧ h'.fld (ACT_VREC_TARGET n) = target ∧
    h'.fld (ACT_VREC_KIND n) = kindCode kind ∧ h'.fld (ACT_VREC_CAUSE n) = cause.code ∧
    h'.fld (ACT_VREC_TIME n) = h.nt ∧ h'.fld ACT_VHEAD_NEXT = (n + 1) % 16 ∧ h'.bus.resp = ⟨true, []⟩ ∧
    (∀ k, h'.core k = if k < 4 ∧ k = src.master.val then { h.core k with exc := some (faultOf kind) } else h.core k) ∧
    Signals 208 h h'

/-! ## Conditions on transactions and channels -/

/-- A transaction of a master that is no host core carries a domain, may be made now, and finds an open port and nothing outstanding
or waiting before it. -/
def Issues (h : Hw) (t : Txn) (dom : Nat) : Prop :=
  4 ≤ t.master.val ∧ h.txnDom t = some dom ∧ h.mayIssue t = true ∧ t.addr.toNat < 2 ^ 40 ∧
    h.bus.outst = [] ∧ h.bus.stalled = [] ∧ h.portClosed t.master.val t.addr.toNat = false

/-- The port and the access table of a write's target pass it (R34, R37). -/
def Admits (h : Hw) (src : Src) (addr n : Nat) : Prop :=
  h.portClosed src.master.val addr = false ∧ h.accessCheck src.master.val src.dom.toNat addr n .write = none

/-- No data cache and no line of the L2 holds anything. -/
structure NoLines (h : Hw) : Prop where
  data : ∀ la, h.linesAt la = []
  l2 : h.l2 = []

/-- No landing rule, output port or CAN FD channel uses Tender channel `n`. -/
def Unshared (h : Hw) (n : Nat) : Prop :=
  (∀ k < 16, h.fld (PKT_LR_CFG_CHAN k) ≠ n) ∧ (∀ p < 6, h.fld (PKT_P_OCFG_OCHAN p) ≠ n) ∧
    ∀ k < 8, h.fld (CAN_RIO_CFG_ICHAN k) ≠ n ∧ h.fld (CAN_RIO_CFG_OCHAN k) ≠ n

/-! ## Lanterns -/

/-- The Lantern runs a task. -/
def Lantern.Runs (x : Lantern) : Prop := ∃ p t f, x.doing = .running p t f

/-- The Lantern executes one instruction of `cost` ticks that moves its PC by `len`: no other Lantern and no other part
changes, and `P` holds of the Lantern with ticks and PC as they were. -/
def LanternRuns (c : Instr) (s : State) (l : Fin 8) (cost len : Nat) (P : Lantern → Prop) : Prop :=
  Sys2Proof.Machine.Runs c s (own [] [.lnt]) fun h =>
    (∀ k, k ≠ l.val → h.lan k = s.hw.lan k) ∧ (h.lan l.val).ticks = (s.hw.lan l.val).ticks + cost ∧
      (h.lan l.val).pc = ((s.hw.lan l.val).pc + len) % 2 ^ 15 ∧
      P { h.lan l.val with ticks := (s.hw.lan l.val).ticks, pc := (s.hw.lan l.val).pc }

/-- An integer brought into the signed 32-bit range (R138). -/
def clamp32 (i : Int) : Int := max (-(2 ^ 31)) (min (2 ^ 31 - 1) i)

/-- Every store of a Lantern's local memory and staging is as it was. -/
def SameStores (x y : Lantern) : Prop :=
  y.mrk = x.mrk ∧ y.lw = x.lw ∧ y.tmr = x.tmr ∧ y.ctr = x.ctr ∧ y.edg = x.edg ∧ y.cst = x.cst ∧ y.outVal = x.outVal ∧
    y.outNow = x.outNow ∧ y.ilk = x.ilk ∧ y.lsp = x.lsp ∧ y.tasOut = x.tasOut ∧ y.tasIlk = x.tasIlk

/-! ## The dispatch engine -/

/-- A result in an f register; a NaN or an infinity sets NANF (R246). -/
def Dpe.withF (x : Dpe) (d : Nat) (v : Word) : Dpe :=
  { x with fr := Tab.put x.fr d v, nanf := x.nanf || F32.isNan v || F32.isInf v }

/-- A result in an i register. -/
def Dpe.withI (x : Dpe) (d : Nat) (v : Word) : Dpe := { x with ir := Tab.put x.ir d v }

/-- A vector written from byte `a` of the scratch; with `check` a NaN or an infinity in it sets NANF. -/
def Dpe.withVec (x : Dpe) (a : Nat) (ws : List Word) (check : Bool) : Dpe :=
  { x with scratch := spliceBytes x.scratch a (wordsBytes ws), nanf := x.nanf || (check && ws.any fun w => F32.isNan w || F32.isInf w) }

/-- A solve under way executes one instruction of `cycles` cycles and goes on at the next: nothing but the engine and
DPE.CYC changes, and `P` holds of the engine with its PC as it was. -/
def DpeRuns (c : Instr) (s : State) (cycles : Nat) (P : Dpe → Prop) : Prop :=
  Runs c s (own [DPE_CYC] [.dpe]) fun h => h.fld DPE_CYC = (s.hw.fld DPE_CYC + cycles) % 2 ^ 64 ∧
    h.dpe.pc = (s.hw.dpe.pc + 1) % 2 ^ 14 ∧ P { h.dpe with pc := s.hw.dpe.pc }

/-- What the end of a solve changes. -/
def dpeEnd : List Fld :=
  [DPE_STAT_STATE, DPE_STAT_WARMOK, DPE_STAT_MBFULL, DPE_LASTVAL_WORD, DPE_LASTINFO_WORD]

/-- An instruction ends the solve with a fault of a cause (R262): nothing is published, E76 is raised and the engine is
IDLE. -/
def DpeFaults (c : Instr) (s : State) (cause : Nat) : Prop :=
  Runs c s (ownEvents ([DPE_FLTINFO_CAUSE, DPE_FLTINFO_PC, DPE_STAT_FAULT, DPE_FLTCNT_COUNT, DPE_FLTCNT_SAT] ++ dpeEnd) [.dpe]) fun h =>
    h.fld DPE_FLTINFO_CAUSE = cause ∧ h.fld DPE_FLTINFO_PC = s.hw.dpe.pc % 2 ^ 14 ∧ h.flag DPE_STAT_FAULT = true ∧
      h.fld DPE_STAT_STATE = 1 ∧ h.dpe.staged = some (s.hw.dEntry 6 0 [] false) ∧ Signals 76 s.hw h

/-! ## The Watch -/

/-- A message passes the checks of R581: CRC or tag, order within its sender, length; `first` says whether a sender without an accepted
message may begin with it. -/
def Hw.passes (h : Hw) (path : WPath) (typ : Nat) (first : Bool) (m : WatchMsg) : Prop :=
  let seen := Tab.get? h.wch.seen m.unit.toNat
  h.msgVerifies path typ m = true ∧ m.payload.length ≤ 1024 ∧ match seen with
    | some w => WSeen.above ⟨m.pcyc.toNat, msgHi m typ seen, m.seq.toNat⟩ w = true
    | none => first = true

/-- The unit has gone to a state of the Watch: STATE shows it, E192 and its record (R586). -/
def MovesTo (st : Nat) (h h' : Hw) : Prop :=
  h'.fld WCH_STAT_STATE = st ∧ Signals 192 h h' ∧
    ∃ r ∈ h'.log.arriving, r.code = 0x090 ∧ r.param = (h.fld WCH_STAT_STATE + st * 8) % 2 ^ 64

/-- What a message or a timer of the Watch may change: its block, FOGHORN, a Mooring queue, the Logbook. -/
def watchScope : Scope := inBlocks [0x3000, 0x3019, 0x302B] [.wch, .mor, .log, .free]

/-- What a takeover or a JOIN may change: what the application holds, beside that. -/
def takeoverScope : Scope :=
  inBlocks [0x3000, 0x3005, 0x3006, 0x3007, 0x3008, 0x3009, 0x300A, 0x300B, 0x300C, 0x300D, 0x300E, 0x300F, 0x3010, 0x3011, 0x3012,
    0x3019, 0x302B, 0x302E] [.wch, .mor, .log, .free, .img, .lnt, .lpe, .dpe, .bus, .banks, .sys]

/-! ## Resets -/

/-- Register fields a reset keeps as they were (R629, R630). -/
def resetKeeps : List Fld :=
  LOG_EPOCH :: ((List.range 16).map NVM_CNT_VALUE ++ (List.range 8).map KEY_ANCHOR_HASH)

/-- Register fields a reset gives a value of its own. -/
def resetOthers : List Fld :=
  [TIM_TFREE, SYS_MTIME, LOG_TAIL, LOG_SEQ, KEY_NONCE, LOG_NONCE, SYS_RSTCAUSE_CAUSE, SYS_RSTCAUSE_SAVED]

/-- Parts of the hardware that come up as after power-on. -/
def resetParts : List Part :=
  [.bus, .cores, .l2, .banks, .windows, .iotlb, .inv, .tch, .tlast, .ddrTraining, .ddrFit, .clk, .tp, .evtLatch, .evtLoop, .debug, .img, .lnt,
    .progs, .adm, .lpe, .redir, .mor, .pkt, .can, .dpe, .mtr, .wch, .phase, .frame, .awake]

/-- The part has been reset from a source of R628: registers at their reset values but for what R629 and R630 keep, memory
lost, what flash holds kept, the reset cause shown. -/
def Restarts (cause : Nat) (s t : State) : Prop :=
  t.pending = s.pending ∧ t.mem = [] ∧
    (∀ g : Fld, Fld.key g ∉ (resetKeeps ++ resetOthers).map Fld.key → t.hw.fld g = Hw.reset.fld g) ∧
    (∀ g ∈ resetKeeps, t.hw.fld g = s.hw.fld g % 2 ^ g.w) ∧
    (∀ g ∈ [TIM_TFREE, SYS_MTIME, LOG_TAIL], t.hw.fld g = if cause = 0 then Hw.reset.fld g else s.hw.fld g % 2 ^ g.w) ∧
    t.hw.fld SYS_RSTCAUSE_CAUSE = cause ∧ t.hw.flag SYS_RSTCAUSE_SAVED = s.hw.sys.pdc ∧
    (∀ p ∈ resetParts, Part.same Hw.reset t.hw p) ∧
    t.hw.nvm.code = s.hw.nvm.code ∧ t.hw.nvm.retired = s.hw.nvm.retired ∧ t.hw.nvm.save = s.hw.nvm.save ∧ t.hw.nvm.reqs = [] ∧
    t.hw.nvm.held = [] ∧ t.hw.nvm.saving = none ∧ (s.hw.nvm.erase = none → t.hw.nvm.sectors = s.hw.nvm.sectors) ∧
    t.hw.log.ring = (if cause = 0 then s.hw.log.ring.take (s.hw.log.ring.length - s.hw.fld LOG_TAIL) else s.hw.log.ring) ∧
    t.hw.key.saved = s.hw.key.saved ∧ t.hw.key.rootNo = s.hw.key.rootNo ∧ t.hw.bil.saves = s.hw.bil.saves ∧
    t.hw.forceSaved = s.hw.forceSaved ∧ t.hw.sys = { Sys.reset with bootRec := s.hw.sys.bootRec, pdc := s.hw.sys.pdc, startAt := if cause = 0 then 0 else s.hw.tfree }

/-- The sequence of R638 has begun for a source: PFI, E1 and its record, the dispatch engine UNLOADED, requests to the record
store failed, billing stopped; with no frame under way Lantern state is captured at once. -/
def SaveBegins (c : Instr) (s : State) (cause : Nat) : Prop :=
  Runs c s (inBlocks [0x3000, 0x3001, 0x3012, 0x3015, 0x3016, 0x3029]
      [.sys, .dpe, .nvm, .bil, .mtr, .keep, .log, .free, .phase, .wch]) fun h =>
    h.sys.down = some cause ∧ h.flag SYS_STAT_PFI = true ∧ Signals 1 s.hw h ∧ (∃ r ∈ h.log.arriving, r.code = 0x0B4) ∧
      h.fld DPE_STAT_STATE = 0 ∧ h.dpe.prog = none ∧ h.nvm.reqs = [] ∧ h.bil.stopped = true ∧
      (s.hw.phase = .idle → h.sys.captured = true)

/-- No save is under way, every feeder's tariff is in range, and the unit sends no RELEASE at once. -/
def SaveReady (h : Hw) : Prop :=
  h.sys.down = none ∧ (h.phase = .idle → (h.isDuplex && h.watchState == wActive) = false) ∧
    ∀ f < 8, h.flag (MTR_F_CFG_EN f) = true → h.ivlTariff f ((h.feed f).ivl * sampleUnit) (h.mtr.num * sampleUnit) < 4

end Sys2Proof.Machine
end

