-- ==== Sys2Proof/WellFormed.lean ====
section
/-! DEFINITION. Which operands of a command the spec admits where its type admits more: addresses and sizes of accesses, the
operands of Uscia Logic Code (R112, R115, R120-R122), the shapes of frames and readings. A meaning does not ask for
it: a command that is not well formed still has the effect its meaning gives. -/

namespace Sys2Proof.Machine

/-- An access to a register block: in the region of R361, naturally aligned (R6). -/
def regAddrOk (a : Nat) (w : Width) : Bool :=
  decide (0x30000000 ≤ a) && decide (a < 0x31000000)
    && a % (match w with | .w8 => 1 | .w16 => 2 | .w32 => 4 | .w64 => 8) == 0

/-- A transaction moves 1 to 256 bytes (R385); a write carries what it says. -/
def txnOk (t : Txn) : Bool :=
  decide (1 ≤ t.size) && decide (t.size ≤ 256) && (t.kind != .write || t.data.length == t.size)

/-- A cache line begins at a multiple of 64 bytes (R355). -/
def lineOk (a : Nat) : Bool := a % 64 == 0

/-- An operand of bit form (R112, R115, R120). -/
def bitOperandOk (rights : Space → Bool) (sp : Space) (bit : Fin 32) (idx : BitVec 17) : Bool :=
  rights sp && (!Space.oneBit sp || bit == 0) && Space.itemOk sp idx

/-- A MOD field without offset names LC 0 (R122). -/
def modOk (m : Mod) : Bool := m.kind != .none || m.lc == 0

/-- An operand of word form (R112, R115, R121). -/
def wordOperandOk (rights : Space → Bool) (sp : Space) (m : Mod) (idx : BitVec 17) : Bool :=
  rights sp && modOk m && Space.itemOk sp idx

/-- A CAN frame: identifier of its format, no remote FD frame, as many bytes as its DLC says. -/
def canFrameOk (f : CanFrame) : Bool :=
  decide (f.id < 2 ^ (if f.ide then 29 else 11)) && !(f.fdf && f.rtr) && (f.fdf || !f.brs)
    && f.data.length == (if f.rtr then 0 else dlcBytes f.fdf f.dlc.val)

/-- A host access to the scratch. -/
def scratchDataOk (off : Nat) (d : List Byte) : Bool := decide (1 ≤ d.length) && decide (d.length ≤ 256) && decide (off + d.length ≤ 2 ^ 23)

/-- The operands of a command are of the form the spec gives them. -/
def wellFormed : Instr → Bool
  | .registerWrite _ a w _ => regAddrOk a.toNat w
  | .lowerHalfRead _ a => regAddrOk a.toNat .w64
  | .transaction t _ => txnOk t
  | .lateResponse _ d => decide (d.length ≤ 256)
  | .cacheWriteback _ a _ => lineOk a.toNat
  | .ulcLd _ sp b i => bitOperandOk Space.bitRead sp b i
  | .ulcLdn _ sp b i => bitOperandOk Space.bitRead sp b i
  | .ulcAnd _ sp b i => bitOperandOk Space.bitRead sp b i
  | .ulcAndn _ sp b i => bitOperandOk Space.bitRead sp b i
  | .ulcOr _ sp b i => bitOperandOk Space.bitRead sp b i
  | .ulcOrn _ sp b i => bitOperandOk Space.bitRead sp b i
  | .ulcXor _ sp b i => bitOperandOk Space.bitRead sp b i
  | .ulcXorn _ sp b i => bitOperandOk Space.bitRead sp b i
  | .ulcSt _ sp b i => bitOperandOk Space.bitWrite sp b i
  | .ulcStn _ sp b i => bitOperandOk Space.bitWrite sp b i
  | .ulcS _ sp b i => bitOperandOk Space.bitWrite sp b i
  | .ulcR _ sp b i => bitOperandOk Space.bitWrite sp b i
  | .ulcRe _ m _ => modOk m
  | .ulcFe _ m _ => modOk m
  | .ulcTon _ m _ => modOk m
  | .ulcTof _ m _ => modOk m
  | .ulcTp _ m _ => modOk m
  | .ulcTrs _ m _ => modOk m
  | .ulcCtu _ m _ => modOk m
  | .ulcCtd _ m _ => modOk m
  | .ulcCtw _ m _ => modOk m
  | .ulcCld _ m _ => modOk m
  | .ulcLa _ sp m i => wordOperandOk Space.wordRead sp m i
  | .ulcLb _ sp m i => wordOperandOk Space.wordRead sp m i
  | .ulcLas _ m _ => modOk m
  | .ulcLag _ m _ => modOk m
  | .ulcTa _ sp m i => wordOperandOk Space.wordWrite sp m i
  | .ulcTas _ sp m i => wordOperandOk (fun s => s == .out || s == .ilk) sp m i
  | .ulcScl _ _ m _ => modOk m
  | .ulcLim _ _ m _ => modOk m
  | .ulcLsm _ _ i => decide (i.extractLsb' 14 3 = 1#3)
  | .hourlyReading d _ s => decide (d.length = 20) && decide (s.length = 3)
  | .temperatureReading t => decide (t.length = 16)
  | .canFrameStored _ f => canFrameOk f
  | .scratchWrite _ off d => scratchDataOk off.toNat d
  | .stalledTransaction .. | .fabricTimeout .. | .mdomainWrite .. | .cacheError .. | .actRd .. | .actWr .. | .hostwr ..
  | .actLock .. | .ddrInit .. | .ddrTrainingDone .. | .scrubPass .. | .xltInv .. | .invDone | .pinWrite .. | .bindWrite ..
  | .tenderEn .. | .channelEn .. | .tndStart .. | .tndResume .. | .tndAbort .. | .descriptorFetch .. | .granuleIssue ..
  | .translationFault .. | .tndError .. | .descriptorComplete .. | .timLock .. | .timLocked .. | .timHold .. | .timRelock ..
  | .timFree .. | .timStep .. | .timKeep .. | .timCapt .. | .rateWrite .. | .slewGo .. | .slewEnd | .servoTimeout | .clockFold
  | .tpArm .. | .tpStop .. | .tpEdge .. | .swraise .. | .claim .. | .logRecord | .rateWindowClose .. | .logWrite ..
  | .logNext .. | .readerDone .. | .logClear .. | .clearVerdict | .nvmWrite .. | .groupCommit .. | .nvmRead .. | .nvmReadDone ..
  | .compactionStart | .compactionPage | .sectorEraseDone .. | .compactRequest .. | .codeRefresh .. | .cntinc ..
  | .powerDownComplete | .codeSectorProgrammed | .modeWrite .. | .keyCreate .. | .keyInvalidate .. | .keyUpdate ..
  | .keyDelete .. | .keyReenrol .. | .keyRecover .. | .keyAnchor .. | .ledgerCommit .. | .engSel .. | .jobSubmit ..
  | .jobDone .. | .floorCommit .. | .slotWrite .. | .tamper | .keyRamError .. | .keyCommandEnd | .ulcAndBracket ..
  | .ulcOrBracket .. | .ulcXorBracket .. | .ulcCloseBracket .. | .ulcBop .. | .ulcIf .. | .ulcElse .. | .ulcEndif ..
  | .ulcLai .. | .ulcLbi .. | .ulcLak .. | .ulcLbk .. | .ulcWmv .. | .ulcIop .. | .ulcFop .. | .ulcCvt .. | .ulcCmp ..
  | .ulcJmp .. | .ulcLoop .. | .ulcEndl .. | .ulcCall .. | .ulcRet .. | .ulcEnd .. | .ulcNop .. | .ulcLdsb .. | .ulcLdsw ..
  | .computeWindowOpen .. | .computeWindowClose | .lanternMemoryError .. | .forceWrite .. | .stationWrite ..
  | .stationSupervision .. | .revoke .. | .landing .. | .loopWindowClose .. | .loopEnable .. | .loopDisable ..
  | .loopDescriptorWrite .. | .stgcmdGo .. | .injArm .. | .injAbort .. | .injen .. | .capArm .. | .capsel .. | .slotFault ..
  | .admitProg .. | .check .. | .retireLnt .. | .retireLoop .. | .planNm1 .. | .admitVerdict .. | .retirementRequest ..
  | .keeperRequestRun | .shadowLoadDone | .marginRead .. | .vddConfirmed .. | .supplyConfirmTimeout | .keepPlan ..
  | .keepRead .. | .keepAccept .. | .keepUnretire .. | .zownWrite .. | .layoutLoad | .layoutReadDone .. | .frameReceived ..
  | .pktTransmit .. | .linkChange .. | .pktStationWrite .. | .morBegin .. | .morPush .. | .packetEnd .. | .morPop ..
  | .morFlush .. | .banken .. | .quarantine .. | .quarantineReturn .. | .startOfFrame .. | .canFrameSent .. | .canError ..
  | .busOffRecovery .. | .canTxrq .. | .canCancel .. | .fifoPush .. | .fifoFlush .. | .timingWrite .. | .canMode ..
  | .objectWrite .. | .arbitrationLost .. | .loadProg | .loadProb | .loadVerdict .. | .dpeSolve | .dpeAbort | .dpeUnload
  | .unloadClearDone | .dpeEn .. | .scfgWrite .. | .capsWrite .. | .gatherComplete .. | .stagingComplete | .solveDeadline
  | .dpeMemoryError .. | .dIadd .. | .dIsub .. | .dIaddi .. | .dIli .. | .dImul .. | .dFadd .. | .dFsub .. | .dFmul ..
  | .dFfma .. | .dFdiv .. | .dFsqrt .. | .dFmm .. | .dFli .. | .dCvt .. | .dLdw .. | .dStw .. | .dVdset .. | .dVdsub .. | .dNop
  | .dVcpy .. | .dVset .. | .dVaxpy .. | .dVaxpby .. | .dVmul .. | .dVdiv .. | .dVmm .. | .dVproj .. | .dVnrm .. | .dVdot ..
  | .dSpmv .. | .dSpmvt .. | .dSpmvs .. | .dLdlf .. | .dTrsvl .. | .dTrsvu .. | .dDsolve .. | .dB .. | .dCall .. | .dRet
  | .dItmark | .dRpt .. | .dGstat .. | .dClrf | .dDone .. | .sample .. | .settledSamples .. | .windowEnd .. | .fixedWindowEnd ..
  | .trackerTimeout .. | .apply .. | .callock .. | .feederCfgWrite .. | .refdriftCheck .. | .filterMemoryError ..
  | .billingIntervalEnd .. | .snap .. | .heatSnapshot | .saveDue | .savenow .. | .saveDone | .clear .. | .gapclr ..
  | .heatCfgWrite .. | .savecfgWrite .. | .billingRegisterError .. | .pulseInputEdge .. | .pulseEmit .. | .pulseOutCfgWrite ..
  | .pulseEnd .. | .heartbeatPeriod | .heartbeat .. | .checkpointDue | .cknow .. | .ckSegSend | .ckSeg .. | .ckAck ..
  | .leaseReqPeriod | .requestUnanswered | .leaseReq .. | .confirmQ .. | .release .. | .leaseGrant .. | .leaseDeny .. | .wait ..
  | .leaseEnd | .witnessExpiry | .witnessStart | .silence | .confirmQRepeat | .pathSilence .. | .witnessUnreachable | .switch ..
  | .switchAckTimeout | .join .. | .selfTestCycle .. | .preWake | .frameStart .. | .publish .. | .run .. | .commission ..
  | .frameWatchdog | .por | .pinReset | .systemWatchdogExpiry | .portIsolationTimeout .. | .reset .. | .keeperWatchdog
  | .saveTimeout | .pfret | .boot .. | .suppliesInRange | .supplyTimeout | .powerFail | .supplyOutOfRange .. | .watchdogEn ..
  | .wdkick .. | .confirm .. | .slotSwitch .. | .coldnow .. | .fogsw .. | .supplyBackInRange .. | .lossOfSupply
  | .pfiNReturnsHigh | .tamperReset | .set .. | .clr .. | .machineTimer => true

end Sys2Proof.Machine
end

