-- ==== Sys2Proof/Certificates/Slice0/Obligations.lean ====
section
/-! DEFINITION. The statements for the provers: each is one proposition about this model, named for what it states. -/

open Sys2Proof Sys2Proof.Machine

/-- R3, R6-R8, R11, R378: accesses to registers. A 64-bit register is written whole, or by two halves that act together
(R8), and read by halves that belong together (R7); a read-only register ignores writes; SAT written 1 clears a counter
(R11); a width of 8 or 16 bits and an address without a register are violations (R6, R364). -/
def Obligations.RegisterAccess : Prop := ∀ (s : State) (src : Src),
  (∀ v : BitVec 64, Runs (.registerWrite src 0x30040028#40 .w64 v) s (own [FRM_ADM_SRC_ADDR] [.bus])
    fun h => h.fld FRM_ADM_SRC_ADDR = v.toNat % 2 ^ 40 ∧ h.bus.resp = ⟨false, []⟩) ∧
  (∀ lo : BitVec 64, Runs (.registerWrite src 0x30040028#40 .w32 lo) s (own [] [.bus])
    fun h => Tab.get? h.bus.held src.master.val = some ⟨0x30040028, lo.toNat % 2 ^ 32⟩) ∧
  (∀ (lo : Nat) (hi : BitVec 64), Tab.get? s.hw.bus.held src.master.val = some ⟨0x30040028, lo⟩ →
    Runs (.registerWrite src 0x3004002C#40 .w32 hi) s (own [FRM_ADM_SRC_ADDR] [.bus])
      fun h => h.fld FRM_ADM_SRC_ADDR = (lo + hi.toNat % 2 ^ 32 * 2 ^ 32) % 2 ^ 40) ∧
  (∀ v : BitVec 64, Runs (.registerWrite src 0x30040004#40 .w32 v) s (own [] [.bus]) fun h => h.bus.resp = ⟨false, []⟩) ∧
  (∀ v : BitVec 64, src.master.val = 4 → v.getLsbD 31 = true →
    Runs (.registerWrite src 0x302E0020#40 .w32 v) s (own [ACT_VCNT_COUNT, ACT_VCNT_SAT] [.bus])
      fun h => h.fld ACT_VCNT_COUNT = 0 ∧ h.flag ACT_VCNT_SAT = false) ∧
  (∀ (w : Width) (addr : BitVec 40) (k : Nat) (v : BitVec 64), w = .w8 ∨ w = .w16 → s.hw.region addr.toNat = .regs k →
    Runs (.registerWrite src addr w v) s (violationScope s.hw)
      (Violates addr.toNat src 8 .write .width s.hw)) ∧
  (∀ (w : Width) (addr : BitVec 40) (v : BitVec 64), s.hw.region addr.toNat = .unmapped →
    Runs (.registerWrite src addr w v) s (violationScope s.hw)
      (Violates addr.toNat src 15 .write .unmapped s.hw)) ∧
  Runs (.lowerHalfRead src 0x30040008#40) s (own [] [.bus])
    (fun h => h.bus.resp = ⟨false, toBytes 4 (s.hw.fld FRM_FNUM)⟩ ∧
      Tab.get? h.bus.shadow src.master.val = some ⟨0x30040008, s.hw.fld FRM_FNUM / 2 ^ 32 % 2 ^ 32⟩) ∧
  (∀ up : Nat, Tab.get? s.hw.bus.shadow src.master.val = some ⟨0x30040008, up⟩ →
    Runs (.lowerHalfRead src 0x3004000C#40) s (own [] [.bus]) fun h => h.bus.resp = ⟨false, toBytes 4 up⟩)

/-- R28-R30, R34, R361, R377, R378: a transaction of a master that is no host core and finds its port open and a credit: a write
of SRAM stores its bytes and nothing else, a read returns them, a refused one is recorded as a violation. Without a credit it
waits in order (R30) and issues once a credit is free, with the domain it was made with; a use that its master does not have, and a
Lantern's within the compute window (R28), make none. R35-R37: a transaction without a response for 20 µs gives an error response,
isolates its island's port, raises E6 and records FABRIC_TIMEOUT, and whether a write was performed is not known; a transaction to
an isolated port gives an error response at once and is recorded; a late response is discarded. -/
def Obligations.BusAndTimeouts : Prop :=
  (∀ (s : State) (t : Txn) (dom : Nat), Memory.wf s.mem →
    (Issues s.hw t dom → NoLines s.hw → t.kind = .write → s.hw.region t.addr.toNat = .sram →
      s.hw.accessCheck t.master.val dom t.addr.toNat t.data.length .write = none →
      RunsMem (.transaction t .answered) s (own [] [.bus, .banks]) (Bytes t.addr.toNat t.data.length)
        fun u => u.hw.bus.resp = ⟨false, []⟩ ∧
          ∀ i < t.data.length, memGet u.mem (t.addr.toNat + i) = t.data.getD i 0#8) ∧
    (Issues s.hw t dom → t.kind = .read → s.hw.region t.addr.toNat = .sram →
      (∀ i < t.size, s.hw.region (t.addr.toNat + i) = .sram) →
      s.hw.accessCheck t.master.val dom t.addr.toNat t.size .read = none →
      Runs (.transaction t .answered) s (own [] [.bus, .banks]) fun h => h.bus.resp = ⟨false, memRead s.mem t.addr.toNat t.size⟩) ∧
    (∀ c, Issues s.hw t dom → t.master.val < 64 → t.kind = .write → s.hw.region t.addr.toNat ≠ .unmapped →
      dom < 256 → s.hw.accessCheck t.master.val dom t.addr.toNat t.data.length .write = some c →
      Runs (.transaction t .answered) s (violationScope s.hw)
        (Violates t.addr.toNat ⟨t.master, BitVec.ofNat 8 dom⟩ (s.hw.region t.addr.toNat).target .write c s.hw)) ∧
    (4 ≤ t.master.val → s.hw.txnDom t = some dom → s.hw.mayIssue t = true → t.addr.toNat < 2 ^ 40 →
      credits t.master.val ≤ (s.hw.outstOf t.master.val).length → ∀ fate,
      Runs (.transaction t fate) s (own [] [.bus]) fun h => h.bus = { s.hw.bus with stalled := s.hw.bus.stalled ++ [⟨t, dom⟩] }) ∧
    (s.hw.bus.outst = [] → s.hw.bus.stalled = [⟨t, dom⟩] → 4 ≤ t.master.val → s.hw.mayIssue t = true →
      s.hw.portClosed t.master.val t.addr.toNat = false → t.kind = .read →
      (∀ i < t.size, s.hw.region (t.addr.toNat + i) = .sram) → s.hw.region t.addr.toNat = .sram →
      s.hw.accessCheck t.master.val dom t.addr.toNat t.size .read = none →
      Runs (.stalledTransaction t.master .answered) s (own [] [.bus, .banks])
        fun h => h.bus.stalled = [] ∧ h.bus.resp = ⟨false, memRead s.mem t.addr.toNat t.size⟩)) ∧
  (∀ (s : State) (t : Txn) fate, (s.hw.txnDom t = none → exec (.transaction t fate) s = .next s) ∧
    (∀ l, t.master = .lantern l → s.hw.phase = .open_ → exec (.transaction t fate) s = .next s)) ∧
  (∀ (s : State) (t : Txn) (dom : Nat),
    (s.hw.bus.outst = [⟨t, dom⟩] → 4 ≤ t.master.val → t.master.val < 64 → t.kind = .read →
      Runs (.fabricTimeout t.master) s (ownEvents [] [.bus, .log])
        fun h => h.bus.outst = [] ∧ h.bus.resp = ⟨true, []⟩ ∧ s.hw.islandAt t.addr.toNat ∈ h.bus.isolated ∧ Signals 6 s.hw h ∧
          Records 0x010 (some (t.addr.toNat + s.hw.islandAt t.addr.toNat * 2 ^ 40 + t.master.val * 2 ^ 45)) s.hw h) ∧
    (s.hw.bus.outst = [⟨t, dom⟩] → 4 ≤ t.master.val → t.master.val < 64 → t.kind = .write → Memory.wf s.mem → NoLines s.hw →
      s.hw.region t.addr.toNat = .sram → s.hw.accessCheck t.master.val dom t.addr.toNat t.data.length .write = none →
      RunsMem (.fabricTimeout t.master) s (ownEvents [] [.bus, .log, .free, .banks]) (Bytes t.addr.toNat t.data.length)
        fun u => u.hw.bus.outst = [] ∧ u.hw.bus.resp = ⟨true, []⟩ ∧ s.hw.islandAt t.addr.toNat ∈ u.hw.bus.isolated ∧
          (u.mem = s.mem ∨ u.mem = memWrite s.mem t.addr.toNat t.data) ∧
          Records 0x010 (some (t.addr.toNat + s.hw.islandAt t.addr.toNat * 2 ^ 40 + t.master.val * 2 ^ 45 + 2 ^ 52)) s.hw u.hw) ∧
    (4 ≤ t.master.val → t.master.val < 64 → s.hw.txnDom t = some dom → s.hw.mayIssue t = true → t.addr.toNat < 2 ^ 40 →
      s.hw.bus.outst = [] → s.hw.bus.stalled = [] → s.hw.portClosed t.master.val t.addr.toNat = true → ∀ fate,
      Runs (.transaction t fate) s (own [] [.bus, .log])
        fun h => h.bus = { s.hw.bus with resp := ⟨true, []⟩ } ∧
          Records 0x010 (some (t.addr.toNat + s.hw.islandAt t.addr.toNat * 2 ^ 40 + t.master.val * 2 ^ 45 +
            (if t.kind = .write then 2 else 3) * 2 ^ 52)) s.hw h) ∧
    (∀ (i : Fin 20) (d : List Byte), exec (.lateResponse i d) s = .next s))


/-- R59-R61, R78: writes of the NEXT view. A landing into an input zone whose source class holds the writer is kept for the next
snapshot, with SUBST and CLAMPED only where 8 bytes bring them; a write into an unused zone or from the wrong class is dropped
and counted; one outside the writer's zones, and one that the writer's row of the image's access table does not grant (R34, R371), is
an access violation; one to an isolated port is recorded (R37). -/
def Obligations.Landings : Prop := ∀ (s : State) (src : Src) (p : BitVec 17) (v : BitVec 64),
  let at_ := s.hw.img
  let addr := 0x21100000 + 8 * p.toNat
  let passes (wide : Bool) : Prop := Admits s.hw src addr (if wide then 8 else 4)
  let lands (wide : Bool) (l : Landing) : Prop := passes wide → Runs (.landing src p wide v) s (own [] [.img, .banks]) fun h =>
    h.img = { at_ with land := Tab.put at_.land p.toNat l }
  let dropped := [IMG_DROPCNT_COUNT, IMG_DROPCNT_SAT]
  let counted (h : Hw) : Prop := s.hw.flag IMG_DROPCNT_SAT = false → s.hw.fld IMG_DROPCNT_COUNT < 2 ^ 31 - 2 →
    h.fld IMG_DROPCNT_COUNT = s.hw.fld IMG_DROPCNT_COUNT + 1
  (s.hw.reaches src.dom.toNat (zoneOf p.toNat) = true →
    (s.hw.isInput p.toNat = true → classOk (s.hw.zoneSrc (zoneOf p.toNat)) src.master.val = true →
      lands true ⟨s.hw.typed p.toNat (v.setWidth 32), v.getLsbD 35, v.getLsbD 40⟩ ∧
      lands false ⟨s.hw.typed p.toNat (v.setWidth 32), false, false⟩) ∧
    (s.hw.isInput p.toNat = true → classOk (s.hw.zoneSrc (zoneOf p.toNat)) src.master.val = false → ∀ wide, passes wide →
      Runs (.landing src p wide v) s (ownEvents dropped [.banks]) fun h => counted h ∧ Signals 25 s.hw h) ∧
    (s.hw.isUnused p.toNat = true → ∀ wide, passes wide → Runs (.landing src p wide v) s (ownEvents dropped [.banks]) counted)) ∧
  (s.hw.reaches src.dom.toNat (zoneOf p.toNat) = false → ∀ wide, passes wide →
    Runs (.landing src p wide v) s (ownEvents (violationFields (s.hw.fld ACT_VHEAD_NEXT)) [.bus, .cores, .banks])
      (Violates addr src 3 .write .zone s.hw)) ∧
  (∀ wide c, s.hw.portClosed src.master.val addr = false →
    s.hw.accessCheck src.master.val src.dom.toNat addr (if wide then 8 else 4) .write = some c →
    Runs (.landing src p wide v) s (violationScope s.hw) (Violates addr src 3 .write c s.hw)) ∧
  (∀ wide, s.hw.portClosed src.master.val addr = true → Runs (.landing src p wide v) s (own [] [.bus, .log, .cores]) fun h =>
    h.bus = { s.hw.bus with resp := ⟨true, []⟩ } ∧ Records 0x010 none s.hw h)

/-- R80, R81, R106, R178-R180, R182: zone owners, the layout load and the force table. A force takes effect whole with its
record, or is refused with its reason and changes no entry; a release records what it ends; an owner write that would take a
zone in use is refused with E26. -/
def Obligations.ForcesOwnersLayout : Prop := ∀ (s : State) (src : Src),
  (∀ (n : Fin 4096) (v : BitVec 64),
    let entry := [FRC_ENT_POINT n, FRC_ENT_SCOPE n, FRC_ENT_ACTIVE n, FRC_ENT_ORPHAN n, FRC_ENT_DOMAIN n, FRC_ENT_VALUE n]
    let written (h : Hw) : Prop := h.fld (FRC_ENT_POINT n) = bits v.toNat 0 17 ∧ h.fld (FRC_ENT_SCOPE n) = bits v.toNat 17 1 ∧
      h.flag (FRC_ENT_ACTIVE n) = v.getLsbD 18 ∧ h.flag (FRC_ENT_ORPHAN n) = false ∧
      h.fld (FRC_ENT_VALUE n) = bits v.toNat 32 32
    (s.hw.flag (FRC_ENT_ACTIVE n) = false → v.getLsbD 18 = false → s.hw.fld (FRC_ENT_DOMAIN n) < 256 →
      Runs (.forceWrite src n v) s (own entry []) written) ∧
    (s.hw.flag (FRC_ENT_ACTIVE n) = false → v.getLsbD 18 = true → s.hw.forceReason src n v.toNat = 0 →
      s.hw.flag FRC_CTRL_RETAIN = false →
      Runs (.forceWrite src n v) s (own (FRC_STAT_NACTIVE :: entry) [.log]) fun h => written h ∧
        h.fld (FRC_ENT_DOMAIN n) = src.dom.toNat ∧ h.fld FRC_STAT_NACTIVE = h.activeForces.length ∧
        Records 0x038 (some (forceParam n v.toNat)) s.hw h) ∧
    (s.hw.flag (FRC_ENT_ACTIVE n) = true → v.getLsbD 18 = false → s.hw.forceReason src n v.toNat = 0 →
      s.hw.flag FRC_CTRL_RETAIN = false →
      Runs (.forceWrite src n v) s (own (FRC_STAT_NACTIVE :: entry) [.log]) fun h => written h ∧
        h.fld FRC_STAT_NACTIVE = h.activeForces.length ∧
        Records 0x039 (some (forceParam n (s.hw.forceImage n))) s.hw h) ∧
    (∀ why, s.hw.flag (FRC_ENT_ACTIVE n) = true ∨ v.getLsbD 18 = true → s.hw.forceReason src n v.toNat = why → why ≠ 0 →
      Runs (.forceWrite src n v) s (own [FRC_STAT_REFUSED, FRC_STAT_REASON, FRC_STAT_ENTRY] [.log]) fun h =>
        h.flag FRC_STAT_REFUSED = true ∧ h.fld FRC_STAT_REASON = why ∧ h.fld FRC_STAT_ENTRY = n ∧
          Records 0x03B none s.hw h)) ∧
  (∀ (n : Fin 256) (v : BitVec 32), src.dom = 0#8 →
    let taken := (List.range 4).any fun i => s.hw.zoneTaken (4 * n + i) (bits v.toNat (8 * i) 8)
    (taken = false → Runs (.zownWrite src n v) s
      (own [IMG_ZOWN_OWNER0 n, IMG_ZOWN_OWNER1 n, IMG_ZOWN_OWNER2 n, IMG_ZOWN_OWNER3 n] []) fun h =>
        ∀ i < 4, h.zoneOwner (4 * n + i) = bits v.toNat (8 * i) 8) ∧
    (taken = true → Runs (.zownWrite src n v) s (ownEvents [IMG_STAT_ZREFUSED] []) fun h =>
      h.flag IMG_STAT_ZREFUSED = true ∧ Signals 26 s.hw h)) ∧
  (s.hw.flag IMG_STAT_LBUSY = false → Runs .layoutLoad s (own [IMG_STAT_LBUSY] [.img]) fun h =>
    h.flag IMG_STAT_LBUSY = true ∧ h.img = { s.hw.img with load := some (.reading (s.hw.fld IMG_LAYOUT_ADDR)) }) ∧
  (∀ a b, s.hw.img.load = some (.reading a) → s.hw.readAs s.mem 25 0 a 593920 = .ok b →
    let zones := chunks 4 1024 b
    let types := (((b.drop 4096).take 65536).map fun x => [bits x.toNat 0 4, bits x.toNat 4 4]).flatten
    (∀ o < 593920, s.hw.region (a + o) = .sram → Runs (.layoutReadDone (.uncorrectable o)) s (inBlocks [0x302F] [.img, .bus, .banks])
      fun h => h.img = { s.hw.img with load := some .readFailed } ∧ h.fld MEM_UEADDR_ADDR = (a + o) % 2 ^ 40 ∧ Signals 219 s.hw h) ∧
    (zones.all zoneWordOk = true → (∀ t ∈ types, t ≤ 4) → Runs (.layoutReadDone .answered) s (own [] [.img, .banks]) fun h =>
      h.img = { s.hw.img with load := some (.read (sparse zones) (sparse types) (sparse (chunks 4 131072 (b.drop 69632)))) }) ∧
    (zones.all zoneWordOk = false → Runs (.layoutReadDone .answered) s (own [] [.img, .banks]) fun h =>
      h.img = { s.hw.img with load := some .invalid }))

/-- R201, R414, R681: writes of the station tables. A station write waits for the next F+0, or leaves its entry and names the
station, and keeps no bit outside its fields (R3); supervision waits for F+0 too; a PKT entry is written whole. -/
def Obligations.StationTables : Prop := ∀ (s : State) (src : Src) (n : Fin 1536) (v : BitVec 64),
  let loads := (List.range 6).map PKT_P_OLOAD
  let next (map : Bool) : Nat × Nat :=
    (if map then s.hw.stationWritten n false else v.toNat % 2 ^ 36, if map then v.toNat % 2 ^ 56 else s.hw.stationWritten n true)
  (∀ map, s.hw.stationBad n (next map).1 (next map).2 = false → Runs (.stationWrite n map v) s (own loads [.img]) fun h =>
    h.img = { s.hw.img with stWrites := s.hw.img.stWrites ++ [⟨n, map, v.toNat % 2 ^ (if map then 56 else 36)⟩] }) ∧
  (∀ map, s.hw.stationBad n (next map).1 (next map).2 = true →
    Runs (.stationWrite n map v) s (own [RIO_STAT_REFUSED, RIO_STAT_STATION] []) fun h =>
      h.flag RIO_STAT_REFUSED = true ∧ h.fld RIO_STAT_STATION = n) ∧
  (∀ on, Runs (.stationSupervision on) s (own [] [.img]) fun h => h.img = { s.hw.img with rioEn := some on }) ∧
  (src.dom = 0#8 →
    Runs (.pktStationWrite src n 1 v) s (own [PKT_ST_W1_MAC n] []) (fun h => h.fld (PKT_ST_W1_MAC n) = v.toNat % 2 ^ 48) ∧
    (v.getLsbD 61 = false → Runs (.pktStationWrite src n 0 v) s (own ([PKT_ST_W0_IP n, PKT_ST_W0_UDPPORT n, PKT_ST_W0_VID n,
        PKT_ST_W0_VTAG n, PKT_ST_W0_OUTEN n, PKT_ST_W0_SRCCHK n] ++ loads) []) fun h =>
      h.fld (PKT_ST_W0_IP n) = v.toNat % 2 ^ 32 ∧ h.fld (PKT_ST_W0_UDPPORT n) = bits v.toNat 32 16 ∧
        h.fld (PKT_ST_W0_VID n) = bits v.toNat 48 12 ∧ h.flag (PKT_ST_W0_OUTEN n) = false) ∧
    (s.hw.flag (PKT_ST_W0_OUTEN n) = false → Runs (.pktStationWrite src n 2 v) s
      (own ([PKT_ST_W2_OUT2_BASE n, PKT_ST_W2_OUT2_CNT n] ++ loads) []) fun h =>
        h.fld (PKT_ST_W2_OUT2_BASE n) = v.toNat % 2 ^ 17 ∧ h.fld (PKT_ST_W2_OUT2_CNT n) = bits v.toNat 17 11) ∧
    (∀ cfg, s.hw.stationWritten n false = cfg → bits cfg 1 1 = 0 → v.getLsbD 61 = true →
      94400 < s.hw.sumOthers (bits cfg 2 3) n +
        sumPart (bits cfg 2 3) cfg (s.hw.stationWritten n true) (s.hw.fld (PKT_ST_W2_OUT2_CNT n)) →
      Runs (.pktStationWrite src n 0 v) s (ownEvents [PKT_STAT_STREF] []) fun h =>
        h.flag PKT_STAT_STREF = true ∧ Signals 105 s.hw h))
/-- R117, R120, R123, R125: bit logic. A running Lantern takes the operand bit into BA with the function of the opcode, in one
tick; brackets push BA with their function and pop it into BA again; nothing else of the Lantern changes. -/
def Obligations.UlcBitLogic : Prop := ∀ (s : State) (l : Fin 8) (sp : Space) (bit : Fin 32) (idx : BitVec 17),
  let x := s.hw.lan l
  let op := s.hw.readBit x sp bit idx.toNat
  x.Runs →
  LanternRuns (.ulcLd l sp bit idx) s l 1 1 (fun y => y = { x with ba := op }) ∧
  LanternRuns (.ulcLdn l sp bit idx) s l 1 1 (fun y => y = { x with ba := !op }) ∧
  LanternRuns (.ulcAnd l sp bit idx) s l 1 1 (fun y => y = { x with ba := x.ba && op }) ∧
  LanternRuns (.ulcAndn l sp bit idx) s l 1 1 (fun y => y = { x with ba := x.ba && !op }) ∧
  LanternRuns (.ulcOr l sp bit idx) s l 1 1 (fun y => y = { x with ba := x.ba || op }) ∧
  LanternRuns (.ulcOrn l sp bit idx) s l 1 1 (fun y => y = { x with ba := x.ba || !op }) ∧
  LanternRuns (.ulcXor l sp bit idx) s l 1 1 (fun y => y = { x with ba := x.ba ^^ op }) ∧
  LanternRuns (.ulcXorn l sp bit idx) s l 1 1 (fun y => y = { x with ba := x.ba ^^ !op }) ∧
  LanternRuns (.ulcAndBracket l) s l 1 1 (fun y => y = { x with ns := .bracket x.ba .and :: x.ns, ba := true }) ∧
  LanternRuns (.ulcOrBracket l) s l 1 1 (fun y => y = { x with ns := .bracket x.ba .or :: x.ns, ba := false }) ∧
  LanternRuns (.ulcXorBracket l) s l 1 1 (fun y => y = { x with ns := .bracket x.ba .xor :: x.ns, ba := false }) ∧
  (∀ b f t, x.ns = .bracket b f :: t → LanternRuns (.ulcCloseBracket l) s l 1 1 fun y => y = { x with
    ns := t, ba := match f with
      | .and => b && x.ba
      | .or => b || x.ba
      | .xor => b ^^ x.ba }) ∧
  LanternRuns (.ulcBop l .not) s l 1 1 (fun y => y = { x with ba := !x.ba }) ∧
  LanternRuns (.ulcBop l .clr) s l 1 1 (fun y => y = { x with ba := false }) ∧
  LanternRuns (.ulcBop l .set) s l 1 1 (fun y => y = { x with ba := true }) ∧
  LanternRuns (.ulcBop l .clrov) s l 1 1 (fun y => y = { x with ov := false })

/-- R110, R112-R114, R125-R127: stores, edges and conditional blocks. While ENB is 1 a store writes the operand bit and no
other marker; while ENB is 0, and for S and R with BA 0, it only takes its tick. RE and FE compare BA with the edge bit and
store BA; IF, ELSE and ENDIF change ENB and NS alone. -/
def Obligations.UlcStoresAndBlocks : Prop := ∀ (s : State) (l : Fin 8) (sp : Space) (bit : Fin 32) (idx : BitVec 17) (m : Mod),
  let x := s.hw.lan l
  let stores (c : Instr) (v : Bool) : Prop := x.enb = true →
    (sp = .mrk → LanternRuns c s l 1 1 fun y => y.marker idx.toNat = v ∧ (∀ j, j ≠ idx.toNat → y.marker j = x.marker j) ∧
      { y with mrk := x.mrk } = x) ∧
    (sp = .lw → LanternRuns c s l 1 1 fun y => (y.local idx.toNat).getLsbD bit = v ∧
      (∀ k, k ≠ bit.val → (y.local idx.toNat).getLsbD k = (x.local idx.toNat).getLsbD k) ∧
      (∀ j, j ≠ idx.toNat → y.local j = x.local j) ∧ { y with lw := x.lw } = x) ∧
    (sp = .out → LanternRuns c s l 1 1 fun y => (s.hw.outRead y idx.toNat).getLsbD bit = v ∧
      (∀ k, k ≠ bit.val → (s.hw.outRead y idx.toNat).getLsbD k = (s.hw.outRead x idx.toNat).getLsbD k) ∧
      (∀ j, j ≠ idx.toNat → s.hw.outRead y j = s.hw.outRead x j) ∧ { y with outNow := x.outNow } = x) ∧
    (sp = .ilk → LanternRuns c s l 1 1 fun y => (y.ilkRead idx.toNat).getLsbD bit = v ∧
      (∀ k, k ≠ bit.val → (y.ilkRead idx.toNat).getLsbD k = (x.ilkRead idx.toNat).getLsbD k) ∧ { y with ilk := x.ilk } = x)
  let idle (c : Instr) : Prop := LanternRuns c s l 1 1 (fun y => y = x)
  x.Runs →
  stores (.ulcSt l sp bit idx) x.ba ∧ stores (.ulcStn l sp bit idx) (!x.ba) ∧
  (x.ba = true → stores (.ulcS l sp bit idx) true ∧ stores (.ulcR l sp bit idx) false) ∧
  (x.ba = false → idle (.ulcS l sp bit idx) ∧ idle (.ulcR l sp bit idx)) ∧
  (x.enb = false → idle (.ulcSt l sp bit idx) ∧ idle (.ulcStn l sp bit idx) ∧ idle (.ulcS l sp bit idx) ∧
    idle (.ulcR l sp bit idx)) ∧
  (x.enb = true → ∀ (c : Instr) (b : Bool), (c = .ulcRe l m idx ∧ b = (x.ba && !x.edge (x.index m idx))) ∨
      (c = .ulcFe l m idx ∧ b = (!x.ba && x.edge (x.index m idx))) →
    LanternRuns c s l 1 1 fun y => y.ba = b ∧ y.edge (x.index m idx) = x.ba ∧
      (∀ j, j ≠ x.index m idx → y.edge j = x.edge j) ∧ { y with ba := x.ba, edg := x.edg } = x) ∧
  (x.enb = false → LanternRuns (.ulcRe l m idx) s l 1 1 (fun y => y = { x with ba := x.ba && !x.edge (x.index m idx) }) ∧
    LanternRuns (.ulcFe l m idx) s l 1 1 (fun y => y = { x with ba := !x.ba && x.edge (x.index m idx) })) ∧
  LanternRuns (.ulcIf l) s l 1 1 (fun y => y = { x with ns := .block x.enb x.ba false :: x.ns, enb := x.enb && x.ba }) ∧
  (∀ e c t, x.ns = .block e c false :: t →
    LanternRuns (.ulcElse l) s l 1 1 fun y => y = { x with ns := .block e c true :: t, enb := e && !c }) ∧
  (∀ e c o t, x.ns = .block e c o :: t → LanternRuns (.ulcEndif l) s l 1 1 fun y => y = { x with ns := t, enb := e })

/-- R110, R128-R133: timers and counters of a running Lantern. BA takes Q and WA takes ET or CV; only the entry named changes,
and while ENB is 0 none does. A count that reaches the limit captures its place and raises the Lantern's LIMIT event (R132). -/
def Obligations.UlcTimersAndCounters : Prop := ∀ (s : State) (l : Fin 8) (m : Mod) (idx : BitVec 17),
  let x := s.hw.lan l
  let i := x.index m idx
  let t := x.timer i
  let c := x.counter i
  let pt := x.wa.toNat
  let timer (k : Instr) (u : Timer) : Prop := LanternRuns k s l 4 1 fun y => y.timer i = u ∧ y.ba = u.q ∧
    y.wa = BitVec.ofNat 32 u.et ∧ (∀ j, j ≠ i → y.timer j = x.timer j) ∧ { y with ba := x.ba, wa := x.wa, tmr := x.tmr } = x
  let counter (k : Instr) (u : Counter) : Prop := LanternRuns k s l 4 1 fun y => y.counter i = u ∧ y.ba = u.q ∧
    y.wa = BitVec.ofNat 32 u.cv ∧ (∀ j, j ≠ i → y.counter j = x.counter j) ∧
    { y with ba := x.ba, wa := x.wa, ctr := x.ctr } = x
  x.Runs → (x.enb = false → ∀ c ∈ [Instr.ulcTon l m idx, .ulcTof l m idx, .ulcTp l m idx, .ulcTrs l m idx, .ulcCtu l m idx,
      .ulcCtd l m idx, .ulcCtw l m idx, .ulcCld l m idx], LanternRuns c s l 4 1 fun y => { y with ba := x.ba, wa := x.wa } = x) ∧
  (x.enb = true →
  (x.ba = false → timer (.ulcTon l m idx) ⟨0, false, false, false, false⟩) ∧
  (x.ba = true → t.inp = false → timer (.ulcTon l m idx) ⟨0, true, decide (pt = 0), true, t.sat⟩) ∧
  (x.ba = true → t.inp = true → timer (.ulcTon l m idx) { t with q := decide (pt ≤ t.et) }) ∧
  (x.ba = true → timer (.ulcTof l m idx) ⟨0, false, true, true, false⟩) ∧
  (x.ba = false → t.inp = true → timer (.ulcTof l m idx) ⟨0, decide (0 < pt), decide (0 < pt), false, t.sat⟩) ∧
  (x.ba = false → t.inp = false → t.run = true →
    timer (.ulcTof l m idx) { t with run := decide (t.et < pt), q := decide (t.et < pt) }) ∧
  (x.ba = true → t.inp = false → t.run = false →
    timer (.ulcTp l m idx) ⟨0, decide (0 < pt), decide (0 < pt), true, false⟩) ∧
  (t.run = true → t.et < pt → timer (.ulcTp l m idx) { t with q := true, inp := x.ba }) ∧
  timer (.ulcTrs l m idx) ⟨0, false, false, false, false⟩ ∧
  (x.ba = true → c.inp = false → c.cv < 2 ^ 32 - 2 →
    counter (.ulcCtu l m idx) ⟨c.cv + 1, decide (pt ≤ c.cv + 1), true, c.sat⟩) ∧
  (x.ba = c.inp → counter (.ulcCtu l m idx) { c with q := decide (pt ≤ c.cv) }) ∧
  (x.ba = true → c.inp = false → 1 < c.cv → counter (.ulcCtd l m idx) ⟨c.cv - 1, false, true, c.sat⟩) ∧
  (x.ba = true → c.inp = false → c.cv < 2 ^ 32 - 1 → counter (.ulcCtw l m idx) ⟨c.cv + 1, false, true, c.sat⟩) ∧
  (x.ba = true → c.inp = false → c.cv = 2 ^ 32 - 1 → counter (.ulcCtw l m idx) ⟨0, true, true, c.sat⟩) ∧
  counter (.ulcCld l m idx) ⟨pt, false, x.ba, false⟩ ∧
  (x.ba = true → c.inp = false → c.cv = 2 ^ 32 - 2 → c.sat = false →
    Runs (.ulcCtu l m idx) s (ownEvents [LNT_LIMCAP_SPACE l, LNT_LIMCAP_INDEX l, LNT_LIMCAP_PROG l, LNT_LIMCAP_VALID l] [.lnt])
      fun h => ((h.lan l).counter i).cv = 2 ^ 32 - 1 ∧ ((h.lan l).counter i).sat = true ∧ h.flag (LNT_LIMCAP_VALID l) = true ∧
        h.fld (LNT_LIMCAP_SPACE l) = 6 ∧ Signals (33 + 4 * l.val) s.hw h))

/-- R112-R114, R116, R121, R135, R136, R147, R148: moves. A load takes the operand word into WA or WB and stores nothing; a
store puts WA where the space says while ENB is 1 and nowhere while it is 0. -/
def Obligations.UlcMoves : Prop := ∀ (s : State) (l : Fin 8) (sp : Space) (m : Mod) (idx : BitVec 17),
  let x := s.hw.lan l
  let i := x.index m idx
  x.Runs →
  LanternRuns (.ulcLa l sp m idx) s l 1 1 (fun y => y = { x with wa := s.hw.readWord x sp i }) ∧
  LanternRuns (.ulcLb l sp m idx) s l 1 1 (fun y => y = { x with wb := s.hw.readWord x sp i }) ∧
  LanternRuns (.ulcLas l m idx) s l 1 1 (fun y => y = { x with wa := (s.hw.inPoint i).st.setWidth 32 }) ∧
  LanternRuns (.ulcLag l m idx) s l 1 1 (fun y => y = { x with wa := BitVec.ofNat 32 (s.hw.inPoint i).age }) ∧
  (x.enb = true → LanternRuns (.ulcTa l .lw m idx) s l 1 1 fun y => y.local i = x.wa ∧ (∀ j, j ≠ i → y.local j = x.local j) ∧
    { y with lw := x.lw } = x) ∧
  (x.enb = true → LanternRuns (.ulcTa l .out m idx) s l 1 1 fun y => s.hw.outRead y i = x.wa ∧
    (∀ j, j ≠ i → s.hw.outRead y j = s.hw.outRead x j) ∧ { y with outNow := x.outNow } = x) ∧
  (x.enb = true → LanternRuns (.ulcTa l .ilk m idx) s l 1 1 fun y => y.ilkRead i = x.wa ∧ { y with ilk := x.ilk } = x) ∧
  (x.enb = true → LanternRuns (.ulcTa l .lsp m idx) s l 1 1 fun y => Tab.get? y.lsp i = some x.wa ∧ { y with lsp := x.lsp } = x) ∧
  (x.enb = false → LanternRuns (.ulcTa l sp m idx) s l 1 1 fun y => y = x) ∧
  (x.enb = true → LanternRuns (.ulcTas l .out m idx) s l 1 1 fun y =>
    Tab.get? y.tasOut i = some (x.wa.getLsbD 3, x.wa.getLsbD 8) ∧ { y with tasOut := x.tasOut } = x) ∧
  (x.enb = true → LanternRuns (.ulcTas l .ilk m idx) s l 1 1 fun y =>
    Tab.get? y.tasIlk (ilkKey x.prog i) = some (x.wa.getLsbD 3, x.wa.getLsbD 8) ∧ { y with tasIlk := x.tasIlk } = x) ∧
  (x.enb = false → LanternRuns (.ulcTas l sp m idx) s l 1 1 fun y => y = x) ∧
  (∀ imm : BitVec 22, LanternRuns (.ulcLai l imm) s l 1 1 fun y => y.wa.toInt = imm.toInt ∧ { y with wa := x.wa } = x) ∧
  (∀ imm : BitVec 22, LanternRuns (.ulcLbi l imm) s l 1 1 fun y => y.wb.toInt = imm.toInt ∧ { y with wb := x.wb } = x) ∧
  (∀ lit, LanternRuns (.ulcLak l lit) s l 2 2 fun y => y = { x with wa := lit }) ∧
  (∀ lit, LanternRuns (.ulcLbk l lit) s l 2 2 fun y => y = { x with wb := lit }) ∧
  LanternRuns (.ulcWmv l .xab) s l 1 1 (fun y => y = { x with wa := x.wb, wb := x.wa }) ∧
  LanternRuns (.ulcWmv l .cab) s l 1 1 (fun y => y = { x with wb := x.wa }) ∧
  LanternRuns (.ulcWmv l .cba) s l 1 1 (fun y => y = { x with wa := x.wb }) ∧
  LanternRuns (.ulcWmv l .wba) s l 1 1 (fun y => y = { x with wa := if x.ba then 1#32 else 0#32 }) ∧
  (x.enb = true → ∀ mode : BitVec 5, LanternRuns (.ulcLsm l mode idx) s l 1 1 fun y =>
    Tab.get? y.lsp idx.toNat = some (mode.setWidth 32) ∧ { y with lsp := x.lsp } = x) ∧
  (x.enb = false → ∀ mode : BitVec 5, LanternRuns (.ulcLsm l mode idx) s l 1 1 fun y => y = x) ∧
  (∀ n : Fin 256, LanternRuns (.ulcLdsb l ⟨n.val, by omega⟩) s l 1 1 fun y => y = { x with ba := x.ev.getLsbD n }) ∧
  LanternRuns (.ulcLdsb l 257) s l 1 1 (fun y => y = { x with ba := x.ov }) ∧
  LanternRuns (.ulcLdsb l 258) s l 1 1 (fun y => y = { x with ba := x.z }) ∧
  LanternRuns (.ulcLdsb l 259) s l 1 1 (fun y => y = { x with ba := x.n }) ∧
  LanternRuns (.ulcLdsw l 0) s l 1 1 (fun y => y = { x with wa := BitVec.ofNat 32 (s.hw.fld FRM_FNUM) }) ∧
  LanternRuns (.ulcLdsw l 3) s l 1 1 (fun y => y = { x with wa := BitVec.ofNat 32 l.val }) ∧
  (∀ (sel : Fin 5), LanternRuns (.ulcLdsw l sel) s l 1 1 fun y => { y with wa := x.wa } = x)

/-- R108, R124, R137, R138: integer arithmetic of a running Lantern. A saturating function gives the exact result brought into
the 32-bit range and sets OV when that changed it; the wrapping ones and the bitwise ones leave OV; Z and N follow the
result; nothing but WA and the flags changes. -/
def Obligations.UlcIntegerArithmetic : Prop := ∀ (s : State) (l : Fin 8),
  let x := s.hw.lan l
  let a := x.wa.toInt
  let b := x.wb.toInt
  let flags (y : Lantern) : Prop := y.z = decide (y.wa = 0#32) ∧ y.n = decide (y.wa.toInt < 0) ∧
    { y with wa := x.wa, z := x.z, n := x.n, ov := x.ov } = x
  let sat (f : IopFn) (ticks : Nat) (r : Int) : Prop := LanternRuns (.ulcIop l f) s l ticks 1 fun y =>
    y.wa.toInt = clamp32 r ∧ y.ov = (x.ov || decide (clamp32 r ≠ r)) ∧ flags y
  let wrap (f : IopFn) (ticks : Nat) (r : Word) : Prop := LanternRuns (.ulcIop l f) s l ticks 1 fun y =>
    y.wa = r ∧ y.ov = x.ov ∧ flags y
  x.Runs →
  sat .add 1 (a + b) ∧ sat .sub 1 (a - b) ∧ sat .mul 3 (a * b) ∧ sat .neg 1 (-a) ∧ sat .abs 1 a.natAbs ∧
  sat .qmul 3 (a * b / 2 ^ 16) ∧
  (x.wb ≠ 0#32 → sat .div 18 (a.tdiv b) ∧ sat .qdiv 18 ((a * 2 ^ 16).tdiv b)) ∧
  (x.wb = 0#32 → ∀ f, f = .div ∨ f = .qdiv → LanternRuns (.ulcIop l f) s l 18 1 fun y =>
    y.wa = (if a < 0 then 0x80000000#32 else 0x7FFFFFFF#32) ∧ y.ov = true ∧ flags y) ∧
  (x.wb = 0#32 → LanternRuns (.ulcIop l .rem) s l 18 1 fun y => y.wa = 0#32 ∧ y.ov = true ∧ flags y) ∧
  (x.wb ≠ 0#32 → LanternRuns (.ulcIop l .rem) s l 18 1 fun y => y.wa.toInt = a.tmod b ∧ y.ov = x.ov ∧ flags y) ∧
  wrap .addw 1 (x.wa + x.wb) ∧ wrap .subw 1 (x.wa - x.wb) ∧ wrap .mulw 3 (x.wa * x.wb) ∧
  wrap .and 1 (x.wa &&& x.wb) ∧ wrap .or 1 (x.wa ||| x.wb) ∧ wrap .xor 1 (x.wa ^^^ x.wb) ∧ wrap .not 1 (~~~x.wa) ∧
  wrap .shl 1 (x.wa <<< (x.wb.toNat % 32)) ∧ wrap .shr 1 (x.wa >>> (x.wb.toNat % 32)) ∧
  LanternRuns (.ulcIop l .sar) s l 1 1 (fun y => y.wa.toInt = a / 2 ^ (x.wb.toNat % 32) ∧ y.ov = x.ov ∧ flags y) ∧
  LanternRuns (.ulcIop l .min) s l 1 1 (fun y => y.wa.toInt = min a b ∧ y.ov = x.ov ∧ flags y) ∧
  LanternRuns (.ulcIop l .max) s l 1 1 (fun y => y.wa.toInt = max a b ∧ y.ov = x.ov ∧ flags y)

/-- R124, R139-R143: F32 arithmetic, conversions, compares, scaling and limiting of a running Lantern. An operand NaN sets OV
and an F32 result is stored as it is; a compare with a NaN satisfies NE alone; SCL rounds the product before the sum; LIM
gives a value between its bounds and reports in BA whether it changed WA. -/
def Obligations.UlcRealArithmetic : Prop := ∀ (s : State) (l : Fin 8) (m : Mod) (k : BitVec 12),
  let x := s.hw.lan l
  let i := k.toNat + x.modOff m
  let keeps (y : Lantern) : Prop := { y with wa := x.wa, z := x.z, n := x.n, ov := x.ov } = x
  let nan2 := F32.isNan x.wa || F32.isNan x.wb
  x.Runs →
  (∀ f, LanternRuns (.ulcFop l f) s l (match f with | .fdiv => 12 | .fsqrt => 14 | .fneg | .fabs => 1 | _ => 2) 1 fun y =>
    y.wa = (fop f x.wa x.wb).val ∧ y.z = decide (y.wa &&& 0x7FFFFFFF#32 = 0#32) ∧ y.n = y.wa.msb ∧ keeps y ∧
      (x.ov = true ∨ F32.isNan x.wa = true ∨
        (f ≠ .fsqrt ∧ f ≠ .fneg ∧ f ≠ .fabs ∧ F32.isNan x.wb = true) → y.ov = true)) ∧
  LanternRuns (.ulcFop l .fneg) s l 1 1 (fun y => y.wa = x.wa ^^^ 0x80000000#32 ∧ y.ov = (x.ov || F32.isNan x.wa)) ∧
  LanternRuns (.ulcFop l .fabs) s l 1 1 (fun y => y.wa = x.wa &&& 0x7FFFFFFF#32 ∧ y.ov = (x.ov || F32.isNan x.wa)) ∧
  (∀ f, LanternRuns (.ulcCvt l f) s l 2 1 fun y => y.wa = (cvt f x.wa).val ∧ keeps y ∧ y.n = y.wa.msb ∧
    (f = .itof ∨ f = .utof ∨ f = .qtof → y.ov = x.ov)) ∧
  (∀ f ∈ [CvtFn.ftoi, .ftou, .ftoq, .ftoir], F32.isNan x.wa = true →
    LanternRuns (.ulcCvt l f) s l 2 1 fun y => y.wa = 0#32 ∧ y.ov = true) ∧
  (∀ r, LanternRuns (.ulcCmp l .i32 r) s l 1 1 fun y => y = { x with
    ba := (match r with
      | .eq => decide (x.wa.toInt = x.wb.toInt) | .ne => decide (x.wa.toInt ≠ x.wb.toInt)
      | .lt => decide (x.wa.toInt < x.wb.toInt) | .le => decide (x.wa.toInt ≤ x.wb.toInt)
      | .gt => decide (x.wb.toInt < x.wa.toInt) | .ge => decide (x.wb.toInt ≤ x.wa.toInt))
    z := decide (x.wa = x.wb), n := decide (x.wa.toInt < x.wb.toInt) }) ∧
  (∀ r, LanternRuns (.ulcCmp l .u32 r) s l 1 1 fun y => y = { x with
    ba := (match r with
      | .eq => decide (x.wa.toNat = x.wb.toNat) | .ne => decide (x.wa.toNat ≠ x.wb.toNat)
      | .lt => decide (x.wa.toNat < x.wb.toNat) | .le => decide (x.wa.toNat ≤ x.wb.toNat)
      | .gt => decide (x.wb.toNat < x.wa.toNat) | .ge => decide (x.wb.toNat ≤ x.wa.toNat))
    z := decide (x.wa = x.wb), n := decide (x.wa.toNat < x.wb.toNat) }) ∧
  (∀ r, nan2 = true → LanternRuns (.ulcCmp l .f32 r) s l 2 1 fun y => y = { x with
    ba := decide (r = .ne), z := false, n := false, ov := true }) ∧
  LanternRuns (.ulcScl l .q16 m k) s l 4 1 (fun y => keeps y ∧
    y.wa.toInt = clamp32 (clamp32 (x.wa.toInt * (x.const i).toInt / 2 ^ 16) + (x.const (i + 1)).toInt)) ∧
  LanternRuns (.ulcScl l .f32 m k) s l 4 1 (fun y => keeps y ∧
    y.wa = F32.add (F32.mul x.wa (x.const i)) (x.const (i + 1))) ∧
  ((x.const i).toInt ≤ (x.const (i + 1)).toInt → LanternRuns (.ulcLim l .i32 m k) s l 2 1 fun y =>
    y.wa.toInt = max (x.const i).toInt (min (x.const (i + 1)).toInt x.wa.toInt) ∧ y.ba = decide (y.wa ≠ x.wa) ∧
      y.ov = x.ov) ∧
  (F32.isNan x.wa = true → LanternRuns (.ulcLim l .f32 m k) s l 2 1 fun y => y.wa = x.const i ∧ y.ba = true ∧ y.ov = true)

/-- R108, R144-R146, R162: control flow of a running Lantern: jumps, loops, calls, returns, NOP and END. END starts the next
due task with the registers of R108, or ends the Lantern's frame and reports its ticks. A Lantern that runs no task executes
nothing (the model's reading, log entry 16). -/
def Obligations.UlcControl : Prop := ∀ (s : State) (l : Fin 8),
  let x := s.hw.lan l
  let others (h : Hw) : Prop := ∀ k, k ≠ l.val → h.lan k = s.hw.lan k
  (x.Runs →
    (∀ (c : JCond) (d : BitVec 15), LanternRuns (.ulcJmp l c d) s l 1
      (if (match c with
        | .always => true | .ba => x.ba | .nba => !x.ba | .z => x.z | .nz => !x.z | .n => x.n | .nn => !x.n | .ov => x.ov
        | .nov => !x.ov) then d.toNat else 1) fun y => y = x) ∧
    (∀ (count : BitVec 9) (a : BitVec 7) (b : BitVec 6), LanternRuns (.ulcLoop l count a b) s l 1 1 fun y =>
      y = { x with loops := x.loops ++ [⟨x.pc + 1, count.toNat, a.toNat, b.toNat, 0⟩] }) ∧
    (∀ pre c, x.loops = pre ++ [c] → c.count ≤ c.lc + 1 → LanternRuns (.ulcEndl l) s l 1 1 fun y => y = { x with loops := pre }) ∧
    (∀ pre c, x.loops = pre ++ [c] → c.lc + 1 < c.count → 0 < c.body → c.body < 2 ^ 15 →
      Runs (.ulcEndl l) s (own [] [.lnt]) fun h => others h ∧ h.lan l = { x with
        loops := pre ++ [{ c with lc := c.lc + 1 }], pc := c.body, ticks := x.ticks + 1 }) ∧
    (∀ blk : BitVec 8, s.hw.blockStart x.prog blk.toNat < 2 ^ 15 →
      Runs (.ulcCall l blk) s (own [] [.lnt]) fun h => others h ∧ h.lan l = { x with
        cs := (x.pc + 1) :: x.cs, pc := s.hw.blockStart x.prog blk.toNat, ticks := x.ticks + 4 }) ∧
    (∀ r t, x.cs = r :: t → r < 2 ^ 15 →
      Runs (.ulcRet l) s (own [] [.lnt]) fun h => others h ∧ h.lan l = { x with cs := t, pc := r, ticks := x.ticks + 3 }) ∧
    LanternRuns (.ulcNop l) s l 1 1 (fun y => y = x) ∧
    (∀ p t rest, x.due = (p, t) :: rest → Runs (.ulcEnd l) s (own [] [.lnt]) fun h =>
      (h.lan l).doing = .running p t (x.first.contains (p * 16 + t)) ∧ (h.lan l).due = rest ∧ (h.lan l).ba = false ∧
        (h.lan l).wa = 0#32 ∧ (h.lan l).wb = 0#32 ∧ (h.lan l).enb = true ∧ (h.lan l).ns = [] ∧ (h.lan l).cs = [] ∧
        (h.lan l).loops = [] ∧ (h.lan l).ov = x.ov ∧ (h.lan l).ticks = x.ticks + 5 ∧ SameStores x (h.lan l) ∧ others h) ∧
    (x.due = [] → x.ticks + 1 ≤ s.hw.fld (FRM_TL_ADM l) → s.hw.fld (FRM_TL_ADM l) < 2 ^ 20 →
      Runs (.ulcEnd l) s (own [FRM_TL_LAST l, FRM_TL_LAST_NOEND l, FRM_TL_MAX l] [.lnt]) fun h =>
        (h.lan l).doing = .ended ∧ h.fld (FRM_TL_LAST l) = x.ticks + 1 ∧ h.flag (FRM_TL_LAST_NOEND l) = false ∧
          SameStores x (h.lan l) ∧ others h)) ∧
  (¬x.Runs → ∀ (m : Mod) (sp : Space) (bit : Fin 32) (idx : BitVec 17) (f : IopFn),
    ∀ c ∈ [Instr.ulcLd l sp bit idx, .ulcSt l sp bit idx, .ulcIf l, .ulcTon l m idx, .ulcCtu l m idx, .ulcTa l sp m idx,
      .ulcIop l f, .ulcNop l, .ulcEnd l], exec c s = .next s)



/-- R209, R224, R226-R230: commands of the loop engines. A descriptor word is written while its slot is not enabled and is an
access violation while it is or where the access table does not grant it; a staged change is kept whole or refused; generators and buffers
are armed, while they are not ACTIVE, aborted and switched off at the next F+0. -/
def Obligations.LoopCommands : Prop := ∀ (s : State) (src : Src) (m : Fin 2) (k : Fin 4),
  let e := s.hw.eng m
  (∀ (off : Fin 262144) (v : Word),
    let addr := 0x25000000 + m.val * 0x100000 + 4 * off.val
    (Admits s.hw src addr 4 → e.flag (off / 32) dEn = false → Runs (.loopDescriptorWrite src m off v) s (own [] [.lpe, .banks])
      fun h => h.lpe = Tab.put s.hw.lpe m (e.setWord (off / 32) (off % 32) (if off.val % 32 = 0 then v &&& 0xFFFFFFFE#32 else v))) ∧
    (Admits s.hw src addr 4 → e.flag (off / 32) dEn = true →
      Runs (.loopDescriptorWrite src m off v) s (ownEvents (violationFields (s.hw.fld ACT_VHEAD_NEXT)) [.bus, .cores, .banks])
        (Violates addr src 6 .write .targetRule s.hw)) ∧
    (∀ c, s.hw.portClosed src.master.val addr = false → s.hw.accessCheck src.master.val src.dom.toNat addr 4 .write = some c →
      Runs (.loopDescriptorWrite src m off v) s (violationScope s.hw) (Violates addr src 6 .write c s.hw))) ∧
  (∀ cmd : BitVec 32,
    let slot := bits cmd.toNat 0 13
    let mask := bits cmd.toNat 16 7
    let stg (j : Nat) : Word := BitVec.ofNat 32 (s.hw.fld (LPE_STG_WORD m j))
    let word (j : Nat) : Nat := if mask.testBit j then (stg j).toNat else (e.word slot (12 + j)).toNat
    let okLimits := toSigned 16 (bits (word 1) 0 16) ≤ toSigned 16 (bits (word 1) 16 16) ∧ bits (word 2) 0 16 ≤ 32767
    (e.staged = none → e.flag slot dEn = true → src.dom = 0#8 ∨ src.dom.toNat = e.get slot dDomain → okLimits →
      Runs (.stgcmdGo src m cmd) s (own [LPE_STGCMD_SLOT m, LPE_STGCMD_MODE m, LPE_STGCMD_RAMPSKIP m, LPE_STGCMD_MASK m,
          LPE_STGCMD_RESETST m, LPE_STAT_STGBUSY m] [.lpe]) fun h => h.flag (LPE_STAT_STGBUSY m) = true ∧
        h.lpe = Tab.put s.hw.lpe m { e with
          staged := some ⟨slot, bits cmd.toNat 13 2, cmd.getLsbD 15, mask, cmd.getLsbD 23, (List.range 7).map stg⟩ }) ∧
    (e.staged.isSome = true ∨ e.flag slot dEn = false ∨ (src.dom ≠ 0#8 ∧ src.dom.toNat ≠ e.get slot dDomain) ∨ ¬okLimits →
      Runs (.stgcmdGo src m cmd) s (own [LPE_STAT_STGREF m] []) fun h => h.flag (LPE_STAT_STGREF m) = true)) ∧
  (s.hw.flag (LPE_INJ_CTRL_ACTIVE m k) = false →
    Runs (.injArm m k) s (own [LPE_INJ_CTRL_ARM m k, LPE_INJ_COUNT m k] [.lpe]) fun h => h.flag (LPE_INJ_CTRL_ARM m k) = true ∧
      h.fld (LPE_INJ_COUNT m k) = 0 ∧ h.lpe = Tab.put s.hw.lpe m (e.setGen k InjGen.reset)) ∧
  Runs (.injAbort m k) s (own [] [.lpe]) (fun h => h.lpe = Tab.put s.hw.lpe m (e.setGen k { e.gen k with abort := true })) ∧
  Runs (.injen m true) s (own [LPE_CTRL_INJEN m] []) (fun h => h.flag (LPE_CTRL_INJEN m) = true) ∧
  Runs (.injen m false) s (own [LPE_CTRL_INJEN m] [.lpe]) (fun h =>
    h.flag (LPE_CTRL_INJEN m) = false ∧ h.lpe = Tab.put s.hw.lpe m { e with injStop := true }) ∧
  (s.hw.flag (LPE_CAP_CTRL_ACTIVE m k) = false → Runs (.capArm m k) s (own [LPE_CAP_CTRL_ARM m k] [.lpe]) fun h =>
    let slot := s.hw.fld (LPE_CAP_CTRL_SLOT m k)
    let injected := (List.range 4).any fun j => s.hw.flag (LPE_INJ_CTRL_ACTIVE m j) && s.hw.fld (LPE_INJ_CTRL_SLOT m j) == slot
    h.flag (LPE_CAP_CTRL_ARM m k) = true ∧ h.lpe = Tab.put s.hw.lpe m ((e.setFlag slot sInj injected).setFlag slot sCap true)) ∧
  (s.hw.flag (LPE_INJ_CTRL_ACTIVE m k) = true → exec (.injArm m k) s = .next s) ∧
  (s.hw.flag (LPE_CAP_CTRL_ACTIVE m k) = true → exec (.capArm m k) s = .next s) ∧
  Runs (.capsel m k) s (own [LPE_CAPSEL_BUF m] []) (fun h => h.fld (LPE_CAPSEL_BUF m) = k)

/-- R55, R72-R75, R109, R162, R188-R192, R197, R680: the compute window and errors of a Lantern. At F+40 us each Lantern in
service starts its first due task with OV clear, unless its distribution is late; at F+850 us a Lantern that still runs has
overrun, and the merge gives every output point its value; an overrun stops the Lantern, discards what it staged and raises
E32 + 4n. R235-R237: the loop window and slot faults. An engine with nothing left enters its cycles in the ledger; one that is
held records the first slot it did not compute and raises E64 + 4m; an uncorrectable error in the descriptor of an enabled
slot puts the slot in FAULT. -/
def Obligations.EngineWindows : Prop :=
  (∀ (s : State),
    let lnt (l : Nat) := s.hw.lan l
    let overrun (l : Fin 8) (cause : Nat) (h : Hw) : Prop := (h.lan l).doing = .stopped ∧ (h.lan l).outNow = [] ∧ (h.lan l).ilk = [] ∧
      (h.lan l).lsp = [] ∧ (h.lan l).mrk = (lnt l).mrk ∧ (h.lan l).lw = (lnt l).lw ∧ (h.lan l).tmr = (lnt l).tmr ∧
      h.flag (LNT_STAT_OVR l) = true ∧ h.fld (LNT_OVRINFO_CAUSE l) = cause ∧ Signals (32 + 4 * l.val) s.hw h
    (s.hw.phase = .started → (∀ l < 8, 12 ≤ s.hw.fld (FRM_TL_ADM l)) →
      Runs (.computeWindowOpen 0#8) s (own ((List.range 8).flatMap fun l => [FRM_TL_LAST l, FRM_TL_LAST_NOEND l, FRM_TL_MAX l])
          [.phase, .lnt]) fun h => h.phase = .open_ ∧ ∀ l : Fin 8,
        (s.hw.lntRuns l = false → h.lan l = lnt l) ∧
        (s.hw.lntRuns l = true → s.hw.dueTasks l = [] → (h.lan l).doing = .ended ∧ h.fld (FRM_TL_LAST l) = 12) ∧
        (∀ n t rest, s.hw.lntRuns l = true → s.hw.dueTasks l = (n, t) :: rest →
          (h.lan l).doing = .running n t ((lnt l).first.contains (n * 16 + t)) ∧ (h.lan l).due = rest ∧ (h.lan l).ov = false ∧
            (h.lan l).enb = true ∧ (h.lan l).ba = false ∧ (h.lan l).wa = 0#32 ∧ (h.lan l).ticks = 16 ∧ SameStores (lnt l) (h.lan l))) ∧
    (∀ (late : BitVec 8) (l : Fin 8), s.hw.phase = .started → s.hw.lntRuns l = true → late.getLsbD l = true →
      Runs (.computeWindowOpen late) s (withFault [] [.phase, .lnt]) fun h => h.phase = .open_ ∧ overrun l 2 h) ∧
    (s.hw.phase = .open_ → (∀ l < 8, (lnt l).doing = .ended ∨ (lnt l).doing = .waiting) →
      Runs .computeWindowClose s (inBlocksAnd ([IMG_ILKCNT_COUNT, IMG_ILKCNT_SAT, IMG_ILKLAST_POINT, IMG_ILKLAST_WINNER] ++
          (List.range 8).flatMap fun l => [FRM_TL_LAST l, FRM_TL_LAST_NOEND l, FRM_TL_MAX l]) [0x302E]
          [.phase, .img, .lpe, .lnt, .bus]) fun h => h.phase = .closed ∧
        h.img = { s.hw.img with merged := (Tab.mapVal s.hw.img.out fun p _ => s.hw.mergePoint p), orphan := [] } ∧
        ∀ l < 8, h.lan l = (lnt l).merged ∧
          h.fld (FRM_TL_LAST l) = if (lnt l).doing = .ended then s.hw.fld (FRM_TL_LAST l) else 0) ∧
    (∀ (l : Fin 8) n t f, s.hw.phase = .open_ → (lnt l).doing = .running n t f →
      Runs .computeWindowClose s (withFault [0x3005, 0x302E] [.phase, .img, .lpe, .lnt, .bus]) fun h =>
        h.phase = .closed ∧ overrun l 0 h) ∧
    (∀ (l : Fin 8) (r : LntRegion) (off : BitVec 20),
      let where_ := [LNT_ECCADDR_ADDR l, LNT_ECCADDR_REGION l, LNT_ECCADDR_VALID l]
      (s.hw.flag (LNT_ECCCNT_SAT l) = false → s.hw.fld (LNT_ECCCNT_COUNT l) < 2 ^ 31 - 2 →
        Runs (.lanternMemoryError l true r off) s (own [LNT_ECCCNT_COUNT l] []) fun h =>
          h.fld (LNT_ECCCNT_COUNT l) = s.hw.fld (LNT_ECCCNT_COUNT l) + 1) ∧
      (¬(lnt l).Runs → Runs (.lanternMemoryError l false r off) s (own where_ []) fun h =>
        h.fld (LNT_ECCADDR_ADDR l) = off.toNat ∧ h.flag (LNT_ECCADDR_VALID l) = true) ∧
      ((lnt l).Runs → Runs (.lanternMemoryError l false r off) s (withFault [] [.lnt]) fun h => overrun l 1 h ∧
        h.fld (LNT_ECCADDR_ADDR l) = off.toNat ∧ h.flag (LNT_STAT_HWF l) = true ∧ Signals (35 + 4 * l.val) s.hw h))) ∧
  (∀ (s : State) (m : Fin 2),
    let e := s.hw.eng m
    (∀ cause : Fin 3, s.hw.phase = .open_ →
      ((∀ k : Fin 2, (s.hw.eng k).left = [] ∧ (s.hw.eng k).cycles ≤ s.hw.fld (FRM_TL_ADM (8 + k)) ∧
          s.hw.fld (FRM_TL_ADM (8 + k)) < 2 ^ 20) →
        Runs (.loopWindowClose cause) s (own ((List.range 2).flatMap fun k =>
            [FRM_TL_LAST (8 + k), FRM_TL_LAST_NOEND (8 + k), FRM_TL_MAX (8 + k)]) []) fun h =>
          h.fld (FRM_TL_LAST (8 + m)) = e.cycles ∧ h.flag (FRM_TL_LAST_NOEND (8 + m)) = false) ∧
      (∀ t ts, e.left = t :: ts → ts.length < 8192 → Runs (.loopWindowClose cause) s (withFault [] [.lpe]) fun h =>
        h.flag (LPE_STAT_OVR m) = true ∧ h.fld (LPE_OVRINFO_SLOT m) = t % 2 ^ 13 ∧ h.fld (LPE_OVRINFO_NSKIP m) = ts.length + 1 ∧
          h.fld (LPE_OVRINFO_CAUSE m) = cause ∧ Signals (64 + 4 * m.val) s.hw h ∧ (h.eng m).outs = e.outs)) ∧
    (∀ off : BitVec 20,
      let where_ := [LPE_ECCADDR_ADDR m, LPE_ECCADDR_REGION m, LPE_ECCADDR_VALID m]
      (∀ c, s.hw.flag (LPE_ECCCNT_SAT m) = false → s.hw.fld (LPE_ECCCNT_COUNT m) < 2 ^ 31 - 2 →
        Runs (.slotFault m off c true) s (own [LPE_ECCCNT_COUNT m] []) fun h =>
          h.fld (LPE_ECCCNT_COUNT m) = s.hw.fld (LPE_ECCCNT_COUNT m) + 1) ∧
      Runs (.slotFault m off true false) s (own where_ []) (fun h => h.fld (LPE_ECCADDR_ADDR m) = off.toNat ∧
        h.fld (LPE_ECCADDR_REGION m) = 1 ∧ h.flag (LPE_ECCADDR_VALID m) = true) ∧
      (e.flag (off.toNat / 128) dEn = true → Runs (.slotFault m off false false) s (withFault [] [.lpe]) fun h =>
        (h.eng m).st (off.toNat / 128) = slFault ∧ h.fld (LPE_ECCADDR_ADDR m) = off.toNat ∧ h.flag (LPE_STAT_HWF m) = true ∧
          Signals (67 + 4 * m.val) s.hw h ∧ h.eng (1 - m.val) = s.hw.eng (1 - m.val))))


/-- R246, R247, R249: scalar and descriptor instructions of a solve under way. Each writes its one result, counts its cycles and
moves on; FP results that are NaN or infinite set NANF; a load, a store or a descriptor outside what R261 allows ends the solve
with its cause. -/
def Obligations.BalsilScalar : Prop := ∀ (s : State) (d a b c : Fin 16) (v w : Fin 32) (imm : Word) (base : BitVec 23),
  let x := s.hw.dpe
  let i (r : Fin 16) := s.hw.iReg r
  let f (r : Fin 16) := s.hw.fReg r
  let at_ := (imm + i a).toNat
  s.hw.fld DPE_STAT_STATE = 4 →
  DpeRuns (.dIadd d a b) s 1 (fun y => y = x.withI d (i a + i b)) ∧
  DpeRuns (.dIsub d a b) s 1 (fun y => y = x.withI d (i a - i b)) ∧
  DpeRuns (.dIaddi d a imm) s 1 (fun y => y = x.withI d (i a + imm)) ∧
  DpeRuns (.dIli d imm) s 1 (fun y => y = x.withI d imm) ∧
  DpeRuns (.dImul d a b) s 2 (fun y => y = x.withI d (i a * i b)) ∧
  DpeRuns (.dFadd d a b) s 4 (fun y => y = x.withF d (F32.add (f a) (f b))) ∧
  DpeRuns (.dFsub d a b) s 4 (fun y => y = x.withF d (F32.sub (f a) (f b))) ∧
  DpeRuns (.dFmul d a b) s 4 (fun y => y = x.withF d (F32.mul (f a) (f b))) ∧
  DpeRuns (.dFfma d a b c) s 4 (fun y => y = x.withF d (F32.fma (f a) (f b) (f c))) ∧
  DpeRuns (.dFdiv d a b) s 16 (fun y => y = x.withF d (F32.div (f a) (f b))) ∧
  DpeRuns (.dFsqrt d a) s 16 (fun y => y = x.withF d (F32.sqrt (f a))) ∧
  DpeRuns (.dFmm d (.max a b)) s 4 (fun y => y = x.withF d (F32.fmax (f a) (f b))) ∧
  DpeRuns (.dFmm d (.min a b)) s 4 (fun y => y = x.withF d (F32.fmin (f a) (f b))) ∧
  DpeRuns (.dFmm d (.abs a)) s 4 (fun y => y = x.withF d (f a &&& 0x7FFFFFFF#32)) ∧
  DpeRuns (.dFli d imm) s 1 (fun y => y = { x with fr := Tab.put x.fr d imm }) ∧
  DpeRuns (.dCvt false d a) s 4 (fun y => y = x.withF d (F32.ofInt (i a).toInt 0)) ∧
  DpeRuns (.dCvt true d a) s 4
    (fun y => y = x.withI d (BitVec.ofInt 32 (F32.toRange .even 0 (-2 ^ 31) (2 ^ 31 - 1) (f a)).1)) ∧
  DpeRuns .dNop s 1 (fun y => y = x) ∧
  (at_ + 4 ≤ 2 ^ 23 → DpeRuns (.dLdw true d a imm) s 4 (fun y => y = x.withI d (s.hw.scratchWord at_)) ∧
    DpeRuns (.dLdw false d a imm) s 4 (fun y => y = { x with fr := Tab.put x.fr d (s.hw.scratchWord at_) })) ∧
  (2 ^ 23 < at_ + 4 → ∀ int, DpeFaults (.dLdw int d a imm) s 2 ∧ DpeFaults (.dStw int a b imm) s 2) ∧
  (∀ int, s.hw.writeFault at_ 4 = none → DpeRuns (.dStw int a b imm) s 4 fun y =>
    y = { x with scratch := spliceBytes x.scratch at_ (toBytes 4 (if int then i b else f b).toNat) }) ∧
  (∀ int sec, sec ∈ s.hw.dSecs → sec.typ ≠ 5 → sec.off ≤ at_ → at_ < sec.off + sec.bytes → at_ + 4 ≤ 2 ^ 23 →
    DpeFaults (.dStw int a b imm) s 3) ∧
  DpeRuns (.dVdset v a base) s 1 (fun y => y = { x with vd := Tab.put x.vd v (base.toNat, (i a).toNat % 2 ^ 15) }) ∧
  DpeRuns (.dVdsub v w b c) s 1 (fun y => y = { x with
    vd := Tab.put x.vd v (((s.hw.vdOf w).1 + 4 * (i b).toNat) % 2 ^ 23, (i c).toNat % 2 ^ 15) })

/-- R245-R247, R249-R251: vector, sparse and factor instructions of a solve under way. Operands of the lengths R251 asks for,
inside the scratch, give the destination its elements; the cycles are those of the tables; a sum takes every term once in an order that
is a free value of Config, a function of lengths and structure alone (R247), as are the roundings that the spec leaves open. A
factorisation gives L and D of the permuted matrix over its pattern (R250, R256). A wrong length ends the solve with cause 1, a solve
without a factor with cause 4. -/
def Obligations.BalsilVector : Prop := ∀ (s : State) (d a b e : Fin 32) (c f g : Fin 16) (m : Fin 8),
  let x := s.hw.dpe
  let len (v : Fin 32) := (s.hw.vdOf v).2
  let vec (v : Fin 32) := s.hw.scratchWords (s.hw.vdOf v).1 (len v)
  let fits (l : List (Fin 32)) : Prop := ∀ v ∈ l, (s.hw.vdOf v).1 + 4 * len v ≤ 2 ^ 23
  let even (n : Nat) (l : List (Fin 32)) : Prop := ∀ v ∈ l, len v = n
  let stores (i : Instr) (cost : Nat) (ws : List Word) (check : Bool) : Prop :=
    s.hw.writeFault (s.hw.vdOf d).1 (4 * ws.length) = none →
      DpeRuns i s cost fun y => y = x.withVec (s.hw.vdOf d).1 ws check
  let per (k : Nat) := k * ((len d + 31) / 32) + 8
  s.hw.fld DPE_STAT_STATE = 4 →
  stores (.dVset d c) (per 1) (List.replicate (len d) (s.hw.fReg c)) false ∧
  (even (len d) [a] → fits [a] → stores (.dVcpy d a) (per 1) (vec a) false ∧
    stores (.dVmm d (.abs a)) (per 1) ((vec a).map fun w => w &&& 0x7FFFFFFF#32) true) ∧
  (even (len d) [a, b] → fits [a, b] →
    stores (.dVaxpy d a b c) (per 1) (zip2 (axpy (s.hw.fReg c)) (vec a) (vec b)) true ∧
    stores (.dVaxpby d a b c f) (per 1) (zip2 (fun p q => axpby (s.hw.fReg c) p (s.hw.fReg f) q) (vec a) (vec b)) true ∧
    stores (.dVmul d a b) (per 1) (zip2 F32.mul (vec a) (vec b)) true ∧
    stores (.dVdiv d a b) (per 4) (zip2 F32.div (vec a) (vec b)) true ∧
    stores (.dVmm d (.max a b)) (per 1) (zip2 F32.fmax (vec a) (vec b)) true ∧
    stores (.dVmm d (.min a b)) (per 1) (zip2 F32.fmin (vec a) (vec b)) true) ∧
  (even (len d) [a, b, e] → fits [a, b, e] → stores (.dVproj d a b e) (per 1)
    (zip3 (fun p lo hi => F32.fmin (F32.fmax p lo) hi) (vec a) (vec b) (vec e)) true) ∧
  (len a ≠ len d → ∀ i ∈ [Instr.dVcpy d a, .dVaxpy d a b c, .dVaxpby d a b c f, .dVmul d a b, .dVdiv d a b, .dVmm d (.max a b),
    .dVmm d (.min a b), .dVmm d (.abs a), .dVproj d a b e], DpeFaults i s 1) ∧
  (fits [a] → ∀ n, DpeRuns (.dVnrm n g a) s ((len a + 31) / 32 + 24) fun y => y = x.withF g (match n with
    | .inf => if (vec a).any F32.isNan then Config.nanNorm (vec a) else ((vec a).map fun w => F32.canon (w &&& 0x7FFFFFFF#32)).foldl F32.fmax 0#32
    | .two => F32.sqrt (sumTerms [1] ((vec a).map fun w => (w, w)))
    | .sum => sumTerms [2] ((vec a).map fun w => (w, one32)))) ∧
  (fits [a, b] → even (len a) [b] → DpeRuns (.dVdot g a b) s ((len a + 31) / 32 + 24) fun y =>
    y = x.withF g (sumTerms [3] ((vec a).zip (vec b)))) ∧
  (∀ k, s.hw.csr m = .ok k → fits [b, d] →
    let sums (kind : Nat) (ts : List (List (Word × Word))) :=
      (((List.range ts.length).zip ts).zip (vec d)).map fun t =>
        sparseElem (t.1.1 :: kind :: k.key) (s.hw.fReg c) (s.hw.fReg f) t.2 t.1.2
    (len b = k.cols → len d = k.rows → stores (.dSpmv d m b c f) ((k.nz + 31) / 32 + (k.rows + 7) / 8 + 16) (sums 4 (k.terms (vec b))) true) ∧
    (len b = k.rows → len d = k.cols → stores (.dSpmvt d m b c f) ((k.nz + 31) / 32 + (k.cols + 7) / 8 + 16) (sums 5 (k.termsT (vec b))) true) ∧
    (m.val = 1 → even k.rows [b, d] → stores (.dSpmvs d b c f) ((k.nz + 15) / 16 + (k.rows + 7) / 8 + 16) (sums 6 (k.termsS (vec b))) true)) ∧
  (∀ p sec pat, x.prob = some p → s.hw.secOf 4 = some sec → s.hw.secOf 3 = some pat →
    let n := p.n + p.m
    let t := s.hw.pattern p
    let at_ (i : Nat) : Nat := t.perm.getD i 0
    (∀ ka kp, s.hw.csr 0 = .ok ka → s.hw.csr 1 = .ok kp → len b = p.n → len e = p.m → fits [b, e] →
      let cols := ldlColumns t (fun i j => kktTerms ka kp (vec b) (vec e) p.n (at_ i) (at_ j)) n
      let bad := ((List.range n).zip cols).any fun c => badPivot p.n (at_ c.1) c.2.piv
      Runs (.dLdlf b e) s (own [DPE_CYC, DPE_STAT_BRK] [.dpe]) fun h =>
        h.fld DPE_CYC = (s.hw.fld DPE_CYC + ((p.ops + 23) / 24 + 8 * n + 64)) % 2 ^ 64 ∧ h.flag DPE_STAT_BRK = bad ∧
          h.dpe = { x with
            pc := (x.pc + 1) % 2 ^ 14, facOk := !bad, scratch := (s.hw.putFactor sec p t cols).dpe.scratch,
            nanf := x.nanf || (cols.map fun c => c.piv :: c.vals.map (·.2)).flatten.any fun w => F32.isNan w || F32.isInf w }) ∧
    (x.facOk = true → even n [d, a] → fits [a] →
      let l (i j : Nat) : Word := s.hw.scratchWord (lAddr sec p t i j)
      let cost := (p.nzL + 15) / 16 + (n + 31) / 32 + 16
      stores (.dTrsvl d a) cost (solveLower t l (t.perm.map fun i => (vec a).getD i 0#32)) true ∧
        stores (.dTrsvu d a) cost (t.inv.map fun i => (solveUpper t l (vec a)).getD i 0#32) true ∧
        stores (.dDsolve d a) ((n + 31) / 32 + 8)
          (((List.range n).zip (vec a)).map fun q => byPivot q.2 (s.hw.scratchWord (dAddr sec p q.1))) true) ∧
    (x.facOk = false → ∀ i ∈ [Instr.dTrsvl d a, .dTrsvu d a, .dDsolve d a], DpeFaults i s 4))

/-- R244, R251-R253, R268: control instructions of a solve under way: branches by their condition, calls eight deep, the
iteration count with its cap entry, residuals, status reads, and DONE, which ends the program with a result. -/
def Obligations.BalsilControl : Prop := ∀ (s : State) (d a b : Fin 16) (v : Fin 32) (tgt : BitVec 14) (f : Fin 5),
  let x := s.hw.dpe
  let i (r : Fin 16) := s.hw.iReg r
  let jumps (c : Instr) (pc : Nat) (cst : List Nat) : Prop := Runs c s (own [DPE_CYC] [.dpe]) fun h =>
    h.fld DPE_CYC = (s.hw.fld DPE_CYC + 2) % 2 ^ 64 ∧ h.dpe = { x with pc := pc, cst := cst }
  let next := (x.pc + 1) % 2 ^ 14
  let it := min (s.hw.fld DPE_ITER + 1) 65535
  s.hw.fld DPE_STAT_STATE = 4 →
  (∀ k ∈ [(DCond.always, True), (.ieq a b, i a = i b), (.ine a b, i a ≠ i b), (.ilt a b, (i a).toInt < (i b).toInt),
      (.ige a b, (i b).toInt ≤ (i a).toInt), (.flt a b, F32.lt (s.hw.fReg a) (s.hw.fReg b) = true),
      (.fge a b, F32.lt (s.hw.fReg b) (s.hw.fReg a) = true ∨ F32.eq (s.hw.fReg a) (s.hw.fReg b) = true), (.nanf, x.nanf = true),
      (.brk, s.hw.flag DPE_STAT_BRK = true), (.izero a, i a = 0#32), (.inonzero a, i a ≠ 0#32)],
    (k.2 → jumps (.dB k.1 tgt) tgt.toNat x.cst) ∧ (¬k.2 → jumps (.dB k.1 tgt) next x.cst)) ∧
  (x.cst.length < 8 → jumps (.dCall tgt) tgt.toNat (next :: x.cst)) ∧
  (8 ≤ x.cst.length → DpeFaults (.dCall tgt) s 5) ∧
  (∀ p ps, x.cst = p :: ps → jumps .dRet (p % 2 ^ 14) ps) ∧
  (x.cst = [] → DpeFaults .dRet s 5) ∧
  (it = x.icap → x.capTaken = false → ∀ p, x.prog = some p → Runs .dItmark s (own [DPE_CYC, DPE_ITER] [.dpe]) fun h =>
    h.fld DPE_ITER = it ∧ h.dpe = { x with pc := p.cap % 2 ^ 14, capTaken := true }) ∧
  (it ≠ x.icap ∨ x.capTaken = true → Runs .dItmark s (own [DPE_CYC, DPE_ITER] [.dpe]) fun h =>
    h.fld DPE_ITER = it ∧ h.dpe = { x with pc := next }) ∧
  Runs (.dRpt a b) s (own [DPE_CYC, DPE_PRES_VALUE, DPE_DRES_VALUE] [.dpe]) (fun h => h.dpe = { x with pc := next } ∧
    h.fld DPE_PRES_VALUE = (s.hw.fReg a).toNat ∧ h.fld DPE_DRES_VALUE = (s.hw.fReg b).toNat) ∧
  DpeRuns (.dGstat f d) s 1 (fun y => y = x.withI d (BitVec.ofNat 32 ([x.notGood, b2n x.warmAt, b2n x.facOk,
    s.hw.fld FRM_FNUM - s.hw.fld DPE_TSTART_FNUM, s.hw.fld DPE_SEQ % 65536].getD f 0))) ∧
  DpeRuns .dClrf s 1 (fun y => y = { x with nanf := false }) ∧
  (∀ r, r = .primalInfeasible ∨ r = .dualInfeasible → Runs (.dDone r v) s
    (ownEvents [DPE_CYC, DPE_STAT_WARMOK, DPE_STAT_STATE, DPE_INFCNT_COUNT, DPE_INFCNT_SAT] [.dpe]) fun h =>
      h.fld DPE_STAT_STATE = 5 ∧ h.flag DPE_STAT_WARMOK = true ∧ Signals 75 s.hw h ∧
        h.dpe = { x with pc := next, staging := some (s.hw.dEntry 3 (if r = .primalInfeasible then 1 else 2) [] false) }) ∧
  (∀ r, r = .converged ∨ r = .capped → (s.hw.vdOf v).2 = s.hw.mailCount → (s.hw.vdOf v).1 + 4 * (s.hw.vdOf v).2 ≤ 2 ^ 23 →
    let ws := s.hw.scratchWords (s.hw.vdOf v).1 (s.hw.vdOf v).2
    let capped := r = .capped ∨ x.capTaken = true
    let vals := ((List.range ws.length).zip ws).map fun e => (s.hw.mailPoint e.1, publishValue (s.hw.pointType (s.hw.mailPoint e.1)) e.2)
    (∀ w ∈ ws, F32.isNan w = false ∧ F32.isInf w = false) →
    Runs (.dDone r v) s (ownEvents [DPE_CYC, DPE_STAT_WARMOK, DPE_STAT_STATE, DPE_CAPCNT_COUNT, DPE_CAPCNT_SAT] [.dpe]) fun h =>
      h.fld DPE_STAT_STATE = 5 ∧ h.flag DPE_STAT_WARMOK = true ∧
        (¬capped → h.dpe.staging = some (s.hw.dEntry 1 0 vals true)) ∧
        (capped → s.hw.flag DPE_CTRL_CAPPUB = true → h.dpe.staging = some (s.hw.dEntry 2 0 vals true)) ∧
        (capped → s.hw.flag DPE_CTRL_CAPPUB = false → h.dpe.staging = some (s.hw.dEntry 2 0 [] false)))

/-- R254, R258, R260-R263, R266, R267, R276, R277: commands and events of the dispatch engine outside its instructions: loads and
their verdict, solve starts, aborts, unloading, settings, the host's writes of the scratch, the end of the gather and of the
staging, the deadline, memory errors. -/
def Obligations.DispatchCommands : Prop := ∀ (s : State) (src : Src) (v : BitVec 32),
  let x := s.hw.dpe
  let st := s.hw.fld DPE_STAT_STATE
  let rest := st = 0 ∨ st = 1
  let active := 3 ≤ st ∧ st ≤ 5
  let cmdref (c : Instr) : Prop := Runs c s (own [DPE_STAT_CMDREF] []) fun h => h.flag DPE_STAT_CMDREF = true
  (rest → Runs .loadProg s (own [DPE_STAT_STATE] [.dpe]) (fun h => h.fld DPE_STAT_STATE = 2 ∧
      h.dpe = { x with load := some ⟨true, s.hw.fld DPE_SRC_ADDR⟩ }) ∧
    Runs .loadProb s (own [DPE_STAT_STATE] [.dpe]) (fun h => h.fld DPE_STAT_STATE = 2 ∧
      h.dpe = { x with load := some ⟨false, s.hw.fld DPE_SRC_ADDR⟩ }) ∧
    Runs .dpeUnload s (own [DPE_STAT_STATE, DPE_STAT_PROGOK, DPE_STAT_PROBOK, DPE_STAT_WARMOK] [.dpe]) fun h =>
      h.fld DPE_STAT_STATE = 0 ∧ h.flag DPE_STAT_PROGOK = false ∧ h.flag DPE_STAT_PROBOK = false ∧ h.flag DPE_STAT_WARMOK = false ∧
        h.dpe = { x with code := [], prog := none, prob := none, scratch := [], vd := [], facOk := false, clearing := true }) ∧
  (¬rest → cmdref .loadProg ∧ cmdref .loadProb ∧ cmdref .dpeUnload) ∧
  Runs .unloadClearDone s (own [] [.dpe]) (fun h => h.dpe = { x with clearing := false }) ∧
  (∀ l, x.load = some l → x.clearing = false →
    let g := s.hw.setDpe fun y => { y with load := none }
    let verdict (h : Hw) (ok : Bool) : Prop := h.fld DPE_LDSTAT_VERDICT = (if ok then 1 else 2) ∧
      h.flag (if l.prog then DPE_STAT_PROGOK else DPE_STAT_PROBOK) = ok ∧ h.dpe.load = none ∧ Signals 77 s.hw h ∧
      h.fld DPE_STAT_STATE = if h.flag DPE_STAT_PROGOK = true ∨ h.flag DPE_STAT_PROBOK = true then 1 else 0
    let fields := [DPE_LDSTAT_VERDICT, DPE_LDSTAT_REASON, DPE_LDSTAT_DETAIL, DPE_STAT_PROGOK, DPE_STAT_PROBOK, DPE_STAT_WARMOK, DPE_STAT_STATE]
    (∀ o < 64, ∀ b, g.readAs s.mem 18 0 l.addr 64 = .ok b → s.hw.region (l.addr + o) = .sram →
      Runs (.loadVerdict (.uncorrectable o)) s (inBlocksAnd fields [0x302F] [.dpe, .free, .bus, .banks]) fun h =>
        verdict h false ∧ h.fld DPE_LDSTAT_REASON = 1 ∧ h.fld MEM_UEADDR_ADDR = (l.addr + o) % 2 ^ 40 ∧ Signals 219 s.hw h) ∧
    (∀ b sig u, g.dImage s.mem .answered l.prog l.addr = (some (b, sig), u) →
      Runs (.loadVerdict .answered) s (ownEvents fields [.dpe, .free, .banks]) fun h =>
        if l.prog = true then match u.checkProg b sig with
          | .ok (p, code) => verdict h true ∧ h.dpe.prog = some p ∧ h.dpe.code = (List.range code.length).zip code
          | .error r => verdict h false ∧ h.fld DPE_LDSTAT_REASON = r.reason.code ∧ h.dpe.prog = none ∧ h.dpe.code = []
        else match u.checkProb b with
          | .ok (p, _) => verdict h true ∧ h.dpe.prob = some p ∧ h.dpe.facOk = false
          | .error r => verdict h false ∧ h.fld DPE_LDSTAT_REASON = r.reason.code ∧ h.dpe.prob = none)) ∧
  Runs .dpeSolve s (own [] [.dpe]) (fun h => h.dpe = { x with due := true }) ∧
  (active → Runs .dpeAbort s (own dpeEnd [.dpe]) (fun h => h.fld DPE_STAT_STATE = 1 ∧ h.flag DPE_STAT_WARMOK = true ∧
      h.flag DPE_STAT_MBFULL = true ∧ h.dpe = { x with staged := some (s.hw.dEntry 5 0 [] false), staging := none }) ∧
    Runs (.dpeEn false) s (own (DPE_CTRL_EN :: dpeEnd) [.dpe]) (fun h => h.flag DPE_CTRL_EN = false ∧ h.fld DPE_STAT_STATE = 1 ∧
      h.dpe = { x with staged := some (s.hw.dEntry 5 0 [] false), staging := none }) ∧
    Runs .solveDeadline s (ownEvents ([DPE_STAT_LATE, DPE_LATECNT_COUNT, DPE_LATECNT_SAT] ++ dpeEnd) [.dpe]) fun h =>
      h.fld DPE_STAT_STATE = 1 ∧ h.flag DPE_STAT_LATE = true ∧ Signals 74 s.hw h ∧
        h.dpe = { x with staged := some (s.hw.dEntry 4 0 [] false), staging := none }) ∧
  Runs (.dpeEn true) s (own [DPE_CTRL_EN] []) (fun h => h.flag DPE_CTRL_EN = true) ∧
  (¬active → exec .solveDeadline s = .next s ∧ (x.staged = none → exec .dpeAbort s = .next s) ∧
    (∀ o, x.staged = some o → Runs .dpeAbort s (own [DPE_STAT_MBFULL, DPE_LASTVAL_WORD, DPE_LASTINFO_WORD] [.dpe]) fun h =>
      h.dpe = { x with staging := none, staged := some { s.hw.dEntry 5 0 [] false with vpoint := o.vpoint, ipoint := o.ipoint } }) ∧
    Runs (.dpeEn false) s (own [DPE_CTRL_EN] []) fun h => h.flag DPE_CTRL_EN = false) ∧
  (v.toNat % 65536 = 0 ∨ v.toNat % 65536 ≤ v.toNat / 65536 → cmdref (.scfgWrite v)) ∧
  (v.toNat / 65536 < v.toNat % 65536 → Runs (.scfgWrite v) s (own [DPE_SCFG_PERIOD, DPE_SCFG_PHASE] []) fun h =>
    h.fld DPE_SCFG_PERIOD = v.toNat % 65536 ∧ h.fld DPE_SCFG_PHASE = v.toNat / 65536) ∧
  (v.toNat % 65536 = 0 ∨ v.toNat / 65536 = 0 → cmdref (.capsWrite v)) ∧
  (v.toNat % 65536 ≠ 0 → v.toNat / 65536 ≠ 0 → Runs (.capsWrite v) s (own [DPE_CAPS_ICAP, DPE_CAPS_TCAP] []) fun h =>
    h.fld DPE_CAPS_ICAP = v.toNat % 65536 ∧ h.fld DPE_CAPS_TCAP = v.toNat / 65536) ∧
  (∀ (off : BitVec 23) (data : List Byte),
    let addr := 0x26000000 + off.toNat
    let open_ := src.master.val < 4 ∧ st = 1 ∧
      ∃ q ∈ s.hw.dSecs, q.typ = 5 ∧ q.hostw = true ∧ q.off ≤ off.toNat ∧ off.toNat + data.length ≤ q.off + q.bytes
    (Admits s.hw src addr data.length → open_ → Runs (.scratchWrite src off data) s (own [] [.dpe, .banks]) fun h =>
      h.dpe = { x with scratch := spliceBytes x.scratch off.toNat data }) ∧
    (Admits s.hw src addr data.length → ¬open_ →
      Runs (.scratchWrite src off data) s (ownEvents (violationFields (s.hw.fld ACT_VHEAD_NEXT)) [.bus, .cores, .banks])
        (Violates addr src 7 .write .targetRule s.hw)) ∧
    (∀ c, s.hw.portClosed src.master.val addr = false → s.hw.accessCheck src.master.val src.dom.toNat addr data.length .write = some c →
      Runs (.scratchWrite src off data) s (violationScope s.hw) (Violates addr src 7 .write c s.hw))) ∧
  (st = 3 → Runs (.gatherComplete true) s (ownEvents [DPE_STAT_GFAIL, DPE_STAT_STATE] []) (fun h =>
      h.flag DPE_STAT_GFAIL = true ∧ h.fld DPE_STAT_STATE = 1 ∧ Signals 76 s.hw h) ∧
    ∀ sec p, s.hw.secOf 6 = some sec → x.prog = some p →
      let word (k : Nat) := (s.hw.scratchWord (sec.off + 4 * k)).toNat
      let pts := (List.range (word 0 % 2 ^ 14)).map fun k => word (4 + k) % 2 ^ 17
      Runs (.gatherComplete false) s (ownEvents [DPE_STAT_STATE] [.dpe]) fun h => h.fld DPE_STAT_STATE = 4 ∧ Signals 72 s.hw h ∧
        h.dpe.pc = p.start ∧ h.dpe.ir = [] ∧ h.dpe.fr = [] ∧ h.dpe.cst = [] ∧ h.dpe.nanf = false ∧
        h.dpe.notGood = (pts.filter fun q => !(s.hw.inPoint q).has stGood).length ∧
        ∃ flags : List Byte, flags.length = (pts.length + 7) / 8 ∧
          (∀ k (_ : k < pts.length), (flags.getD (k / 8) 0#8).getLsbD (k % 8) = (s.hw.inPoint (pts.getD k 0)).has stGood) ∧
          h.dpe.scratch = spliceBytes (spliceBytes x.scratch (word 1 % 2 ^ 23)
            (wordsBytes (pts.map fun q => gatherValue (s.hw.pointType q) (s.hw.inPoint q).val))) (word 2 % 2 ^ 23) flags) ∧
  (∀ e, st = 5 → x.staging = some e → Runs .stagingComplete s (own [DPE_STAT_STATE, DPE_STAT_MBFULL, DPE_LASTVAL_WORD, DPE_LASTINFO_WORD] [.dpe])
    fun h => h.fld DPE_STAT_STATE = 1 ∧ h.flag DPE_STAT_MBFULL = true ∧ h.fld DPE_LASTVAL_WORD = e.word.toNat ∧
      h.dpe = { x with staging := none, staged := some { e with info := BitVec.ofNat 32 (e.info.toNat % 65536 +
        min (s.hw.fld FRM_FNUM - s.hw.fld DPE_TSTART_FNUM) 65535 * 65536) } }) ∧
  (∀ code (addr : BitVec 23),
    Runs (.dpeMemoryError true code addr) s (ownEvents [DPE_ECCCNT_COUNT, DPE_ECCCNT_SAT] []) (fun h =>
      s.hw.flag DPE_ECCCNT_SAT = false → s.hw.fld DPE_ECCCNT_COUNT < 2 ^ 31 - 2 → h.fld DPE_ECCCNT_COUNT = s.hw.fld DPE_ECCCNT_COUNT + 1) ∧
    (st ≠ 4 → Runs (.dpeMemoryError false code addr) s (ownEvents [DPE_ECCADDR_ADDR, DPE_ECCADDR_REGION, DPE_ECCADDR_VALID] []) fun h =>
      h.fld DPE_ECCADDR_ADDR = addr.toNat ∧ h.flag DPE_ECCADDR_REGION = code ∧ h.flag DPE_ECCADDR_VALID = true ∧ Signals 79 s.hw h) ∧
    (st = 4 → Runs (.dpeMemoryError false code addr) s (ownEvents ([DPE_ECCADDR_ADDR, DPE_ECCADDR_REGION, DPE_ECCADDR_VALID,
        DPE_FLTINFO_CAUSE, DPE_FLTINFO_PC, DPE_STAT_FAULT, DPE_FLTCNT_COUNT, DPE_FLTCNT_SAT] ++ dpeEnd) [.dpe]) fun h =>
      h.fld DPE_ECCADDR_ADDR = addr.toNat ∧ h.fld DPE_FLTINFO_CAUSE = 6 ∧ h.fld DPE_STAT_STATE = 1 ∧ h.flag DPE_STAT_WARMOK = false ∧
        Signals 76 s.hw h))

/-- R280, R281, R287-R291, R302, R303, R305, R306: samples and calibration. A sample goes through the chain of its channel, is
kept and shown; a restart's samples and those of a channel in error are 0. The high-pass has no response to DC. APPLY loads the
words of the channels of its mask and is refused under CALLOCK, which nothing but a reset clears. A feeder's point block must be F32
points of one METER zone; a feeder's new configuration waits for the next sample. -/
def Obligations.MeterSamplesAndCalibration : Prop := ∀ (s : State) (src : Src) (n : Fin 32) (code : BitVec 24) (unstable : Bool)
    (mask v : BitVec 32) (f : Fin 8) (ppm : BitVec 16) (filt : ChainMem),
  let c := s.hw.mch n
  let on := s.hw.flag MTR_STAT_RUN = true ∧ c.en = true
  let trackers := (List.range 8).map MTR_F_STAT_TSTATE
  let quiet := c.cnt < s.hw.mtr.num ∨ ∀ g < 8, (s.hw.feed g).next = none
  let r := s.hw.chain n c code.toInt
  let delivered (h : Hw) (c' : MtrCh) (raw y : Int) (ovl : Bool) : Prop :=
    let sh := Config.shiftStep c.shift y
    h.mch n = { c' with
      cnt := c.cnt + 1, shift := sh
      buf := (⟨c.cnt + 1, y, Config.shiftOut sh, raw, c.k, c.pga, ovl, s.hw.fld BIL_TARCUR_TAR⟩ :: c.buf).take 20480 } ∧
    h.mtr = { s.hw.mtr with ch := Tab.put s.hw.mtr.ch n (h.mch n), num := max s.hw.mtr.num (c.cnt + 1) } ∧
    h.fld (MTR_CH_INST n) = ofSigned 24 y
  (¬on → exec (.sample n code unstable) s = .next s) ∧
  (on → quiet → c.dead = true → Runs (.sample n code unstable) s (own [MTR_CH_INST n] [.mtr]) fun h => delivered h c 0 0 false) ∧
  (∀ k, on → quiet → c.dead = false → c.zeros = some (k + 1) →
    Runs (.sample n code unstable) s (own [MTR_CH_INST n] [.mtr]) fun h => delivered h { r.1 with zeros := some k } 0 0 false) ∧
  (on → quiet → c.dead = false → (c.zeros = none ∨ c.zeros = some 0) →
    let y := max (-8388608) (min 8388607 r.2.2)
    let ovl := unstable || code.toInt == -8388608 || code.toInt == 8388607 || r.2.2 != y
    r.2.1 = nearQuot ((code.toInt - c.offs) * c.gain) (2 ^ 22) ∧
    Runs (.sample n code unstable) s (ownEvents [MTR_CH_INST n, MTR_OVLSTAT_OVL] [.mtr]) fun h =>
      delivered h { r.1 with zeros := none } r.2.1 y ovl ∧
      (ovl = true → h.fldBit MTR_OVLSTAT_OVL n = true ∧ (s.hw.fldBit MTR_OVLSTAT_OVL n = false → Signals 81 s.hw h))) ∧
  (∀ w, on → s.hw.mtr.num ≤ c.cnt → (s.hw.feed f).next = some w →
    Runs (.sample n code unstable) s (ownEvents (MTR_CH_INST n :: MTR_OVLSTAT_OVL :: trackers) [.mtr]) fun h =>
      (h.feed f).cfg = w ∧ (h.feed f).next = none ∧ (h.mch n).cnt = c.cnt + 1) ∧
  (filt.highPass filt.last).high.natAbs ≤ filt.high.natAbs - 1 ∧
  (c.zeros = some 0 → Runs (.settledSamples n) s (own [] [.mtr]) fun h =>
    h.mtr = { s.hw.mtr with ch := Tab.put s.hw.mtr.ch n { c with zeros := none } }) ∧
  (c.zeros ≠ some 0 → exec (.settledSamples n) s = .next s) ∧
  Runs (.filterMemoryError n) s (ownEvents [] [.mtr]) (fun h => Signals 86 s.hw h ∧
    h.mtr = { s.hw.mtr with ch := Tab.put s.hw.mtr.ch n { c with dead := true } }) ∧
  (src.dom = 0#8 →
    (s.hw.flag MTR_CTRL_CALLOCK = true → Runs (.apply src mask) s (ownEvents [MTR_STAT_CALREF] [.log, .free]) fun h =>
      h.flag MTR_STAT_CALREF = true ∧ Signals 85 s.hw h ∧ Records 0x051 none s.hw h) ∧
    (s.hw.flag MTR_CTRL_CALLOCK = false → Runs (.apply src mask) s (ownEvents trackers [.mtr, .log]) fun h =>
      Signals 84 s.hw h ∧ Records 0x050 (some (mask.toNat + (s.hw.mtr.num + 1) % 2 ^ 32 * 2 ^ 32)) s.hw h ∧
        ∀ k : Fin 32, (mask.getLsbD k = false → h.mch k = s.hw.mch k) ∧ (mask.getLsbD k = true → let x := h.mch k
          x.k = BitVec.ofNat 32 (s.hw.fld (MTR_CH_K k)) ∧ x.offs = s.hw.sfld (MTR_CH_OFFS k) ∧ x.gain = s.hw.fld (MTR_CH_GAIN k) ∧
          x.phase = s.hw.sfld (MTR_CH_PHASE k) ∧ x.en = s.hw.flag (MTR_CH_CFG_EN k) ∧ x.hpf = s.hw.flag (MTR_CH_CFG_HPFEN k) ∧
          x.sensor = s.hw.fld (MTR_CH_CFG_SENSOR k) ∧ x.pga = s.hw.fld (MTR_CH_CFG_PGA k) ∧ x.dead = false ∧
          x.cals.head? = some (s.hw.mtr.num + 1) ∧ (x.pga ≠ (s.hw.mch k).pga ∨ x.sensor ≠ (s.hw.mch k).sensor →
            x.zeros = some 128 ∧ x.filt = ⟨0, 0, 0⟩ ∧ x.shift = 0 ∧ x.hist = []))) ∧
    Runs (.callock src) s (own [MTR_CTRL_CALLOCK] []) (fun h => h.flag MTR_CTRL_CALLOCK = true) ∧
    let ok := s.hw.blockOk (bits v.toNat 5 17)
    Runs (.feederCfgWrite src f v) s
      (ownEvents [MTR_F_CFG_EN f, MTR_F_CFG_USET f, MTR_F_CFG_REFPH f, MTR_F_CFG_PTEN f, MTR_F_CFG_PTBASE f] [.mtr]) fun h =>
      h.flag (MTR_F_CFG_EN f) = v.getLsbD 0 ∧ h.flag (MTR_F_CFG_USET f) = v.getLsbD 1 ∧ h.fld (MTR_F_CFG_REFPH f) = bits v.toNat 2 2 ∧
        h.flag (MTR_F_CFG_PTEN f) = (v.getLsbD 4 && ok) ∧ h.fld (MTR_F_CFG_PTBASE f) = bits v.toNat 5 17 ∧
        (v.getLsbD 4 = true → ok = false → Signals 86 s.hw h) ∧ (h.feed f).next = some (bits v.toNat 0 22 - (if v.getLsbD 4 && !ok then 16 else 0)) ∧
        h.mtr = { s.hw.mtr with feed := Tab.put s.hw.mtr.feed f { s.hw.feed f with next := (h.feed f).next } }) ∧
  (500 < ppm.toInt.natAbs → (s.hw.sfld MTR_REFDRIFT_PPM).natAbs ≤ 500 →
    Runs (.refdriftCheck ppm) s (ownEvents [MTR_REFDRIFT_PPM, MTR_STAT_REFALM] [.log, .free]) fun h =>
      h.fld MTR_REFDRIFT_PPM = ppm.toNat ∧ h.flag MTR_STAT_REFALM = true ∧ Signals 83 s.hw h ∧ Records 0x052 none s.hw h) ∧
  (ppm.toInt.natAbs ≤ 500 ∨ 500 < (s.hw.sfld MTR_REFDRIFT_PPM).natAbs → Runs (.refdriftCheck ppm) s (own [MTR_REFDRIFT_PPM] [])
    fun h => h.fld MTR_REFDRIFT_PPM = ppm.toNat)

/-- R294-R297, R299, R300: windows. A tracker acquires at a crossing, locks after two qualified windows and falls to NOSYNC on an
unqualified one or after 50 ms without a crossing; the end of a window writes its results, counts it and raises E80; fixed
windows of 1,600 samples run in NOSYNC and for the spare channels, each on the end of the window before. -/
def Obligations.MeterWindows : Prop := ∀ (s : State) (f : Fin 8) (back : BitVec 16),
  let x := s.hw.feed f
  let new := s.hw.mtr.num * 65536
  let b := new - back.toNat
  let st := s.hw.fld (MTR_F_STAT_TSTATE f)
  let ready := s.hw.fEn f = true ∧ s.hw.feedReady f = true ∧ s.hw.fRef f < 3
  let scope := inBlocks [0x3005, 0x3014, 0x302E] [.mtr, .img, .bus, .banks, .log]
  let last := s.hw.mtr.spare
  let result (h : Hw) (n b : Nat) : Prop := h.fld (MTR_CH_RMS n) = (meterRms (s.hw.meas n x.start b)).toNat
  let ended (h : Hw) (b : Nat) : Prop := h.fld (MTR_F_WSEQ f) = (s.hw.fld (MTR_F_WSEQ f) + 1) % 2 ^ 32 ∧
    h.fld (MTR_F_WEND f) = s.hw.nt ∧ h.fld (MTR_F_NSAMP f) = ((b + 65535) / 65536 - x.start / 65536) % 2 ^ 16 ∧ Signals 80 s.hw h ∧
    ∀ p < 3, result h (3 * f.val + p) b ∧ (s.hw.setOwner (s.hw.fSet f) = some f.val → result h (setCh (s.hw.fSet f) p) b)
  let lost (h : Hw) (b : Nat) : Prop := h.fld (MTR_F_STAT_TSTATE f) = 0 ∧ (h.feed f).start = b ∧ (h.feed f).qual = 0 ∧
    Signals 82 s.hw h
  (¬ready → exec (.windowEnd f back) s = .next s) ∧
  (ready → st = 0 → Runs (.windowEnd f back) s (ownEvents [MTR_F_STAT_TSTATE f] [.mtr]) fun h => h.fld (MTR_F_STAT_TSTATE f) = 1 ∧
    h.feed f = { x with start := b, qual := 0 } ∧ Signals 82 s.hw h) ∧
  (ready → st ≠ 0 → b ≤ x.start → exec (.windowEnd f back) s = .next s) ∧
  (ready → x.start < b → s.hw.qualified f x.start b = true →
    (st = 1 → Runs (.windowEnd f back) s scope fun h => ended h b ∧ (h.feed f).start = b ∧ (h.feed f).qual = x.qual + 1 ∧
      (h.feed f).freq = (s.hw.windowFreq x.start b).1 ∧
      if 1 ≤ x.qual then h.fld (MTR_F_STAT_TSTATE f) = 2 ∧ Signals 82 s.hw h else h.fld (MTR_F_STAT_TSTATE f) = 1) ∧
    (st = 2 → Runs (.windowEnd f back) s scope fun h => ended h b ∧ (h.feed f).start = b ∧ h.fld (MTR_F_STAT_TSTATE f) = 2 ∧
      let mhz := h.fld (MTR_F_STAT_FREQ f)
      let cycles := s.hw.fld MTR_CTRL_NCYC * 8000000 * 65536
      (h.feed f).freq = mhz ∧ mhz * (b - x.start) < cycles + (b - x.start) ∧ cycles < (mhz + 1) * (b - x.start))) ∧
  (ready → x.start < b → s.hw.qualified f x.start b = false →
    (st = 1 → Runs (.windowEnd f back) s scope fun h => ended h b ∧ lost h b) ∧
    (st = 2 → Runs (.windowEnd f back) s scope fun h => ended h new ∧ lost h new)) ∧
  (st = 2 → x.start < new → Runs (.trackerTimeout f) s scope fun h => ended h new ∧ lost h new) ∧
  (st = 1 ∨ st = 2 ∧ new ≤ x.start → Runs (.trackerTimeout f) s (ownEvents [MTR_F_STAT_TSTATE f] [.mtr]) fun h => lost h x.last) ∧
  (st ≠ 1 → st ≠ 2 → exec (.trackerTimeout f) s = .next s) ∧
  (s.hw.fEn f = true → st = 0 → x.start + 1600 * 65536 ≤ new →
    Runs (.fixedWindowEnd ⟨f.val, by omega⟩) s scope fun h =>
      ended h (x.start + 1600 * 65536) ∧ (h.feed f).start = x.start + 1600 * 65536) ∧
  (last + 1600 * 65536 ≤ new → Runs (.fixedWindowEnd 8) s (inBlocks [0x3014] [.mtr]) fun h =>
      h.mtr.spare = last + 1600 * 65536 ∧ ∀ n, n = 30 ∨ n = 31 → (s.hw.mch n).en = true →
        h.fld (MTR_CH_RMS n) = (meterRms (s.hw.meas n last (last + 1600 * 65536))).toNat)

/-- R309-R316, R324, R325: a billing interval ends, and latches. An interval ends at a crossing in LOCKED, at the sample at which
LOCKED was left, and after 160 samples in the other states. The interval's energies enter the registers of the tariff in
force at its first sample, with their residues, and no other register; a due tariff switch follows on a clock that is locked; a
pending latch of the feeder copies its registers and raises E90; the heat set's latch is taken at F+600 us. -/
def Obligations.BillingIntervals : Prop := ∀ (s : State) (src : Src) (f : Fin 8) (fmask : BitVec 8) (heat : Bool),
  let fd := s.hw.feed f
  let n := s.hw.mtr.num
  let lockedFeed := s.hw.fld (MTR_F_STAT_TSTATE f) = 2
  let ends (k : Nat) : Prop := fd.left = some k ∧ k ≤ fd.ivl + 400 ∨ fd.left = none ∧ s.hw.fEn f = true ∧
    (lockedFeed ∧ fd.ivl < n ∧ n ≤ max fd.ivl fd.locked + 178 ∧ k = n ∨ ¬lockedFeed ∧ fd.ivl + 160 ≤ n ∧ k = fd.ivl + 160)
  let open_ := fd.left = none ∧ (s.hw.fEn f = false ∨ lockedFeed ∧ n ≤ fd.ivl ∨
    ¬lockedFeed ∧ n < fd.ivl + 160 ∧ s.hw.feedReady f = true)
  let m (k : Nat) := s.hw.ivlMeas f (fd.ivl * 65536) (k * 65536)
  let t (k : Nat) := s.hw.ivlTariff f (fd.ivl * 65536) (k * 65536)
  let energy (k q : Nat) : Nat :=
    let P := netEnergy false (m k)
    let Q := netEnergy true (m k)
    if (s.hw.flag BIL_CTRL_EN && !(ivlAll (m k)).isEmpty && !s.hw.bil.stopped) = false then 0 else match q with
    | 0 => if 0 ≤ P then P.natAbs else 0
    | 1 => if P < 0 then P.natAbs else 0
    | 2 => if 0 ≤ P ∧ 0 < Q then Q.natAbs else 0
    | 3 => if P < 0 ∧ 0 < Q then Q.natAbs else 0
    | 4 => if P < 0 ∧ Q < 0 then Q.natAbs else 0
    | 5 => if 0 ≤ P ∧ Q < 0 then Q.natAbs else 0
    | _ => apparentEnergy (m k)
  let fine (h : Hw) (i : Nat) := h.bilVal i * 2 ^ 24 + Tab.getD h.bil.res i 0
  let locked := 2 ≤ s.hw.fld TIM_STAT_STATE
  let latched (h : Hw) (i : Nat) : Prop := h.fld (bilLat i) = h.fld (bilReg i) % 2 ^ 64 ∧ h.fld (bilLatWrap i) = h.fld (bilWrap i) % 2 ^ 16
  (open_ → exec (.billingIntervalEnd f) s = .next s) ∧
  (∀ k, ends k → t k < 4 →
    (∀ r, s.hw.bil.run = some r → f.val ∉ r.feeders) →
    Runs (.billingIntervalEnd f) s (inBlocks [0x3015, 0x3016] [.bil, .mtr, .log]) fun h =>
      h.mtr = { s.hw.mtr with feed := Tab.put s.hw.mtr.feed f { fd with ivl := k, left := none } } ∧
      (∀ q < 7, ∀ u < 4, fine h (feedIdx f q u) % 2 ^ 104 =
        (fine s.hw (feedIdx f q u) + if u = t k then energy k q else 0) % 2 ^ 104) ∧
      (∀ i, (i < 28 * f.val ∨ 28 * f.val + 28 ≤ i) → (i < 224 ∨ 256 ≤ i ∧ i < 1280) → h.fld (bilReg i) = s.hw.fld (bilReg i) ∧ h.fld (bilWrap i) = s.hw.fld (bilWrap i)) ∧
      (¬locked → h.fld BIL_TARCUR_TAR = s.hw.fld BIL_TARCUR_TAR) ∧
      (∀ k, locked → s.hw.tswLatest (s.hw.tswDue s.hw.nt) = some k → s.hw.fld (BIL_TSW_CTL_TAR k) < 4 →
        h.fld BIL_TARCUR_TAR = s.hw.fld (BIL_TSW_CTL_TAR k) ∧ ∀ j ∈ s.hw.tswDue s.hw.nt, h.flag (BIL_TSW_CTL_VALID j) = false) ∧
      (s.hw.fldBit BIL_SNAPSTAT_FPEND f = true → (∀ i ∈ feedIdxs f, latched h i) ∧ h.fld (BIL_LTIME f) = s.hw.nt ∧
        h.fldBit BIL_SNAPSTAT_FPEND f = false ∧ h.fldBit BIL_SNAPSTAT_FDONE f = true ∧ Signals 90 s.hw h)) ∧
  (∀ k r, ends k → t k < 4 → s.hw.bil.run = some r → f.val ∈ r.feeders → r.heat = true →
    Runs (.billingIntervalEnd f) s (inBlocks [0x3015, 0x3016] [.bil, .mtr, .log]) fun h =>
      ∃ r', h.bil.run = some r' ∧ r'.feeders = r.feeders.erase f ∧ r'.heat = true ∧ r'.got.seq = r.got.seq ∧
        ∀ i ∈ feedIdxs f, Tab.get? r'.got.vals i = some (h.bilVal i)) ∧
  (src.dom = 0#8 → Runs (.snap src fmask heat) s (own [BIL_SNAPSTAT_FPEND, BIL_SNAPSTAT_HPEND] []) fun h =>
    h.fld BIL_SNAPSTAT_FPEND = (s.hw.fld BIL_SNAPSTAT_FPEND ||| fmask.toNat) % 2 ^ 8 ∧
      h.flag BIL_SNAPSTAT_HPEND = (s.hw.flag BIL_SNAPSTAT_HPEND || heat)) ∧
  (s.hw.bil.run = none → s.hw.flag BIL_SNAPSTAT_HPEND = true → s.hw.bil.snapArm = true →
    Runs .heatSnapshot s (inBlocks [0x3015] [.bil]) fun h => (∀ c < 1024, latched h (256 + c)) ∧
      (∀ i, (i < 224 ∨ 256 ≤ i ∧ i < 1280) → h.fld (bilReg i) = s.hw.fld (bilReg i) ∧ h.fld (bilWrap i) = s.hw.fld (bilWrap i)) ∧
      h.fld BIL_HLFNUM_VALUE = s.hw.fld FRM_FNUM % 2 ^ 64 ∧ h.flag BIL_SNAPSTAT_HPEND = false ∧ h.flag BIL_SNAPSTAT_HDONE = true ∧
      h.bil = { s.hw.bil with snapArm := false } ∧ Signals 90 s.hw h) ∧
  (s.hw.bil.run = none → (s.hw.flag BIL_SNAPSTAT_HPEND && s.hw.bil.snapArm) = false → exec .heatSnapshot s = .next s)

/-- R328-R330, R333, R335, R336, R343: saves, clearing and errors of the billing registers. A periodic save falls due at its phase, on a
clock that is not locked every PERIOD seconds from the start of metering. A save that falls due waits for its captures, or abandons the one before it with E92; a committed save moves SAVESEQ and SAVETIME and raises E91; CLEAR is refused
under CALLOCK; a register in error takes its value of the last committed save. -/
def Obligations.BillingSaves : Prop := ∀ (s : State) (src : Src) (period phase : BitVec 12),
  let x := s.hw.bil
  let busy := s.hw.saveFeeders ≠ [] ∨ s.hw.saveHeat ≠ []
  let got (t : Nat) : BillSave := ⟨(s.hw.fld BIL_SAVESEQ_SEQ + 1) % 2 ^ 32, t, [], [], [], [], 0⟩
  let begun (t : Nat) : SaveRun := ⟨s.hw.saveFeeders, !s.hw.saveHeat.isEmpty, false, got t, false, 0, false⟩
  let falls (c : Instr) (t : Nat) : Prop :=
    (x.run = none → busy → Runs c s (own [] [.bil]) fun h => h.bil = { x with run := some (begun t) }) ∧
    (x.run ≠ none → busy → Runs c s
      (ownEvents [BIL_STAT_SAVEBUSY, BIL_STAT_SAVEFAIL, BIL_SAVEFAILCNT_COUNT, BIL_SAVEFAILCNT_SAT] [.bil, .nvm]) fun h =>
        h.bil = { x with run := some (begun t) } ∧ h.flag BIL_STAT_SAVEBUSY = false ∧ h.flag BIL_STAT_SAVEFAIL = true ∧
          Signals 92 s.hw h ∧ (∀ r ∈ h.nvm.reqs, r.purpose.isBilling = false) ∧ h.nvm.sectors = s.hw.nvm.sectors) ∧
    (x.run = none → ¬busy → s.hw.sys.down = none → s.hw.flag NVM_STAT_TAMPER = false → s.hw.cipherOrphan = false →
      Runs c s (ownEvents [BIL_STAT_SAVEBUSY, NVM_STAT_KEYWAIT, NVM_STAT_FULLWAIT] [.bil, .nvm, .free]) fun h =>
        h.flag BIL_STAT_SAVEBUSY = true ∧ ∃ r, h.bil = { x with run := some r } ∧ r.written = true ∧ r.got.t = t ∧ r.tx = s.hw.nvm.txNext)
  let second := s.hw.nt / 1000000000
  let running := s.hw.elapsed s.hw.mtr.began / 1000000000
  let notNow := if 2 ≤ s.hw.fld TIM_STAT_STATE then second % s.hw.fld BIL_SAVECFG_PERIOD ≠ s.hw.fld BIL_SAVECFG_PHASE
    else running = 0 ∨ running % s.hw.fld BIL_SAVECFG_PERIOD ≠ 0
  (notNow → exec .saveDue s = .next s) ∧
  (¬notNow → falls .saveDue (second * 1000000000)) ∧
  (∀ r, x.run = some r → r.written = true → r.failed = false → s.hw.billWaits = false →
    Runs .saveDone s (ownEvents [BIL_STAT_SAVEBUSY, BIL_SAVESEQ_SEQ, BIL_SAVETIME_VALUE] [.bil]) fun h =>
      h.bil = { x with run := none, saves := r.got :: x.saves.take 1 } ∧ h.flag BIL_STAT_SAVEBUSY = false ∧
        h.fld BIL_SAVESEQ_SEQ = (s.hw.fld BIL_SAVESEQ_SEQ + 1) % 2 ^ 32 ∧ h.fld BIL_SAVETIME_VALUE = r.got.t % 2 ^ 64 ∧ Signals 91 s.hw h) ∧
  (x.run = none ∨ (∃ r, x.run = some r ∧ r.failed = true) ∨ s.hw.billWaits = true → exec .saveDone s = .next s) ∧
  (src.dom = 0#8 → falls (.savenow src) s.hw.nt ∧
    (s.hw.flag MTR_CTRL_CALLOCK = true → Runs (.clear src) s (own [BIL_STAT_CLRREF] []) fun h => h.flag BIL_STAT_CLRREF = true) ∧
    (s.hw.flag MTR_CTRL_CALLOCK = false → Tab.rising s.hw.flds = true → x.run = none → busy →
      Runs (.clear src) s (inBlocks [0x3015] [.bil, .log, .free]) fun h => Records 0x05C none s.hw h ∧
        h.bil = { x with run := some (begun s.hw.nt) } ∧
        ∀ i, (i < 224 ∨ 256 ≤ i ∧ i < 1280) → h.bilVal i = 0 ∧ h.fld (bilLat i) = 0 ∧ h.fld (bilLatWrap i) = 0 ∧ h.fld (bilGap i) = 0) ∧
    (Tab.rising s.hw.flds = true → Runs (.gapclr src) s (inBlocks [0x3015] []) fun h => h.fld BIL_GAPSTAT_STATE = 0 ∧
      h.fld BIL_GAPSTAT_NENT = 0 ∧ ∀ i, (i < 224 ∨ 256 ≤ i ∧ i < 1280) → h.fld (bilGap i) = 0 ∧ h.bilVal i = s.hw.bilVal i) ∧
    (60 ≤ period.toNat → period.toNat ≤ 3600 → phase.toNat < period.toNat →
      Runs (.savecfgWrite src period phase) s (own [BIL_SAVECFG_PERIOD, BIL_SAVECFG_PHASE] []) fun h =>
        h.fld BIL_SAVECFG_PERIOD = period.toNat ∧ h.fld BIL_SAVECFG_PHASE = phase.toNat) ∧
    (period.toNat < 60 ∨ 3600 < period.toNat ∨ period.toNat ≤ phase.toNat → exec (.savecfgWrite src period phase) s = .next s)) ∧
  (∀ i : Fin 1280, Runs (.billingRegisterError i true) s (ownEvents [BIL_ECCCNT_COUNT, BIL_ECCCNT_SAT] []) fun h =>
    s.hw.flag BIL_ECCCNT_SAT = false → s.hw.fld BIL_ECCCNT_COUNT < 2 ^ 31 - 2 → h.fld BIL_ECCCNT_COUNT = s.hw.fld BIL_ECCCNT_COUNT + 1) ∧
  (∀ i : Fin 1280, i.val < 224 ∨ 256 ≤ i.val →
    Runs (.billingRegisterError i false) s (ownEvents [bilReg i, bilWrap i] [.log]) fun h => h.bilVal i = x.savedVal i % 2 ^ 80 ∧
      Signals 95 s.hw h ∧ Records 0x05D (some i.val) s.hw h)

/-- R322, R323, R339-R341, R344: heat channels' configuration and pulses. A channel is enabled only over F32 points of used zones
and closed to changes while it is enabled; an edge of the configured kind counts; an output emits one pulse of its backlog at a
time, with a gap of WIDTH ms after it, and starts afresh when its configuration changes. -/
def Obligations.HeatAndPulses : Prop := ∀ (s : State) (src : Src) (c : Fin 1024) (v : BitVec 32) (i : Fin 32) (o : Fin 8) (falling : Bool),
  let on := s.hw.flag (BIL_HCFG_EN c)
  let words := [BIL_HCFG_FPT c, BIL_HCFG_TFPT c, BIL_HCFG_TRPT c]
  let faults := [(17, BIL_HCFG_CFGREF c), (18, BIL_HCFG_TBAD c), (19, BIL_HCFG_FBAD c), (20, BIL_HCFG_RANGE c), (21, BIL_HCFG_REVERSE c)]
  let cleared (h : Hw) : Prop := ∀ e ∈ faults, e.1 ≠ 17 → h.flag e.2 = (s.hw.flag e.2 && !v.getLsbD e.1)
  let p := s.hw.pulseOut o
  (src.dom = 0#8 →
    (∀ w : Fin 4, w.val ≠ 0 → (on = true → exec (.heatCfgWrite src c w v) s = .next s) ∧
      (on = false → ∀ f, words[w.val - 1]? = some f → Runs (.heatCfgWrite src c w v) s (own [f] []) fun h => h.fld f = v.toNat % 2 ^ 17)) ∧
    (on = true → Runs (.heatCfgWrite src c 0 v) s (own (BIL_HCFG_EN c :: faults.map Prod.snd) []) fun h => cleared h ∧
      h.flag (BIL_HCFG_CFGREF c) = (s.hw.flag (BIL_HCFG_CFGREF c) && !v.getLsbD 17) ∧ h.flag (BIL_HCFG_EN c) = v.getLsbD 0) ∧
    (on = false →
      let ok := (v.getLsbD 3 || s.hw.heatPointOk (s.hw.fld (BIL_HCFG_FPT c))) && s.hw.heatPointOk (s.hw.fld (BIL_HCFG_TFPT c)) &&
        s.hw.heatPointOk (s.hw.fld (BIL_HCFG_TRPT c))
      Runs (.heatCfgWrite src c 0 v) s (own ([BIL_HCFG_EN c, BIL_HCFG_MODE c, BIL_HCFG_MOUNT c, BIL_HCFG_FSRC c, BIL_HCFG_PIN c,
          BIL_HCFG_DTMIN c] ++ faults.map Prod.snd) [.bil]) fun h =>
        cleared h ∧ h.flag (BIL_HCFG_MODE c) = v.getLsbD 1 ∧ h.flag (BIL_HCFG_MOUNT c) = v.getLsbD 2 ∧
        h.flag (BIL_HCFG_FSRC c) = v.getLsbD 3 ∧ h.fld (BIL_HCFG_PIN c) = bits v.toNat 4 5 ∧ h.fld (BIL_HCFG_DTMIN c) = bits v.toNat 9 8 ∧
        h.flag (BIL_HCFG_EN c) = (v.getLsbD 0 && ok) ∧
        (v.getLsbD 0 = true → ok = false → h.flag (BIL_HCFG_CFGREF c) = true) ∧
        (v.getLsbD 0 = true → ok = true → Tab.get? h.bil.base c = some (s.hw.fld (PLS_IN_CNT (bits v.toNat 4 5)))))) ∧
  (let takes := s.hw.flag (PLS_IN_CFG_EN i) && s.hw.flag (PLS_IN_CFG_EDGE i) == falling && !s.hw.bil.stopped
   (takes = true → Runs (.pulseInputEdge i falling) s (own [PLS_IN_CNT i] []) fun h =>
      h.fld (PLS_IN_CNT i) = (s.hw.fld (PLS_IN_CNT i) + 1) % 2 ^ 64) ∧
   (takes = false → exec (.pulseInputEdge i falling) s = .next s)) ∧
  (let ready := s.hw.flag (PLS_OUT_CFG_EN o) = true ∧ p.on = false ∧ s.hw.fld (PLS_OUT_BACKLOG o) ≠ 0 ∧
      ∀ u, p.gap = some u → atOrAfter s.hw.tfree u = true
   (ready → s.hw.fld (PLS_OUT_BACKLOG o) < 2 ^ 16 → Runs (.pulseEmit o) s (own [PLS_OUT_BACKLOG o, PLS_OUT_COUNT o] [.bil]) fun h =>
      h.pulseOut o = { p with on := true } ∧ h.fld (PLS_OUT_BACKLOG o) = s.hw.fld (PLS_OUT_BACKLOG o) - 1 ∧
        h.fld (PLS_OUT_COUNT o) = (s.hw.fld (PLS_OUT_COUNT o) + 1) % 2 ^ 32 ∧ ∀ k, k ≠ o.val → h.pulseOut k = s.hw.pulseOut k) ∧
   (¬ready → exec (.pulseEmit o) s = .next s)) ∧
  (p.on = true → Runs (.pulseEnd o) s (own [] [.bil]) fun h =>
    h.pulseOut o = { p with on := false, gap := some ((s.hw.tfree + s.hw.fld (PLS_OUT_CFG_WIDTH o) * 1000000) % 2 ^ 64) } ∧
      ∀ k, k ≠ o.val → h.pulseOut k = s.hw.pulseOut k) ∧
  (p.on = false → exec (.pulseEnd o) s = .next s) ∧
  (src.dom = 0#8 → Runs (.pulseOutCfgWrite src o v) s (own [PLS_OUT_CFG_EN o, PLS_OUT_CFG_SRC o, PLS_OUT_CFG_FEED o, PLS_OUT_CFG_QTY o,
      PLS_OUT_CFG_HCH o, PLS_OUT_CFG_WIDTH o, PLS_OUT_CFG_POL o, PLS_OUT_CFG_OVF o, PLS_OUT_BACKLOG o] [.bil]) fun h =>
    h.flag (PLS_OUT_CFG_EN o) = v.getLsbD 0 ∧ h.fld (PLS_OUT_CFG_SRC o) = bits v.toNat 1 1 ∧ h.fld (PLS_OUT_CFG_FEED o) = bits v.toNat 2 3 ∧
      h.fld (PLS_OUT_CFG_HCH o) = bits v.toNat 8 10 ∧ h.flag (PLS_OUT_CFG_POL o) = v.getLsbD 26 ∧
      h.flag (PLS_OUT_CFG_OVF o) = (s.hw.flag (PLS_OUT_CFG_OVF o) && !v.getLsbD 27) ∧
      (s.hw.flag (PLS_OUT_CFG_EN o) = true → h.fld (PLS_OUT_BACKLOG o) = 0 ∧ h.pulseOut o = { p with acc := 0 }) ∧
      (s.hw.flag (PLS_OUT_CFG_EN o) = false → h.bil = s.hw.bil ∧ h.fld (PLS_OUT_BACKLOG o) = s.hw.fld (PLS_OUT_BACKLOG o)))
/-- R352-R354, R356-R358, R360: a domain CSR is read in machine mode or as sdomain, written from machine mode alone, and the
instruction is illegal elsewhere. A load finds a line of its own domain and a store one that it may write without a check of the
target; a store that needs write permission is checked. A line goes back to memory with its own domain; one that the target refuses
loses its changes, and the violation is recorded. Cache errors are counted, and one in a line with changes makes its core take an
exception, loses them and raises E220. -/
def Obligations.HostCoresAndCaches : Prop := ∀ (s : State) (k : Fin 4) (line : BitVec 40), Memory.wf s.mem →
  let la := lineOf line.toNat
  let core := s.hw.core k
  let others (h : Hw) : Prop := ∀ j, j ≠ k.val → h.core j = s.hw.core j
  let gone (h : Hw) : Prop := h.dLine k la = none ∧ h.l2Line la = none
  let n := s.hw.fld ACT_VHEAD_NEXT
  (∀ v : BitVec 64, Runs (.mdomainWrite k true false (.write v)) s (own [] [.cores])
    fun h => h.core k = { core with mdomain := v.toNat % 2 ^ 16 } ∧ others h) ∧
  (∀ m d, m = true ∨ d = true → Runs (.mdomainWrite k m d .read) s (own [] [.cores])
    fun h => h.core k = { core with csr := core.mdomain } ∧ others h) ∧
  (∀ m d op, (m = false ∧ d = false) ∨ (∃ v, op = .write v ∧ (m = false ∨ d = true)) →
    Runs (.mdomainWrite k m d op) s (own [] [.cores]) fun h => h.core k = { core with exc := some .illegal } ∧ others h) ∧
  (∀ (a : BitVec 64) (size : Nat) (data : List Byte) (fate : TFate) (l q : Line),
    let dom := bits core.mdomain 0 8
    let load : Txn := ⟨.host k, .lower, .own, false, false, .read, a, size, []⟩
    let store : Txn := ⟨.host k, .lower, .own, false, false, .write, a, 0, data⟩
    (∀ i < 64, s.hw.region (la + i) = .sram) → lineOf a.toNat = la → s.hw.foreign dom la = false →
    s.hw.dLine k la = some l → s.hw.l2Line la = some q → l.dom = dom → l.copy = [] →
    (s.hw.hostStop load = none → 0 < size → a.toNat + size ≤ la + 64 →
      Runs (.transaction load fate) s (own [] [.bus]) fun h => h.bus.resp = ⟨false, memRead s.mem a.toNat size⟩) ∧
    (s.hw.hostStop store = none → data ≠ [] → a.toNat + data.length ≤ la + 64 →
      (l.writable = true → RunsMem (.transaction store fate) s (own [] [.bus, .cores, .l2]) (Bytes a.toNat data.length) fun u =>
        u.hw.bus.resp = ⟨false, []⟩ ∧ ∀ i < data.length, memGet u.mem (a.toNat + i) = data.getD i 0#8) ∧
      (∀ c, l.writable = false → q.writable = false → s.hw.mapCheck k dom a.toNat .write = some c → s.hw.bus.outst = [] →
        s.hw.bus.stalled = [] → s.hw.portClosed k a.toNat = false →
        Runs (.transaction store .answered) s (violationScope s.hw)
          (Violates a.toNat ⟨.host k, BitVec.ofNat 8 dom⟩ 2 .write c s.hw)))) ∧
  (∀ (l q : Line), s.hw.linesAt la = [(k.val, l)] → s.hw.l2Line la = some q → s.hw.denied l.core q.dom la .write = none →
    l.under ≠ [] → Runs (.cacheWriteback k line true) s (own [] [.cores, .l2, .banks]) gone) ∧
  (∀ (q : Line) (x : Nat) (b : Byte), s.hw.linesAt la = [] → s.hw.l2Line la = some q → q.under = [(x, b)] →
    (∀ c, s.hw.denied q.core q.dom la .write = some (.check c) →
      RunsMem (.cacheWriteback k line true) s (ownEvents (violationFields n) [.l2]) (Bytes x 1) fun u =>
        memGet u.mem x = b ∧ gone u.hw ∧ u.hw.fld (ACT_VREC_ADDR n) = la % 2 ^ 40 ∧ u.hw.fld (ACT_VREC_MASTER n) = q.core % 2 ^ 7 ∧
          u.hw.fld (ACT_VREC_DOMAIN n) = q.dom % 2 ^ 8 ∧ u.hw.fld (ACT_VREC_CAUSE n) = c.code ∧ Signals 208 s.hw u.hw) ∧
    (s.hw.denied q.core q.dom la .write = none →
      RunsMem (.cacheWriteback k line false) s (ownEvents [] [.l2, .bus, .log, .free]) (Bytes x 1) fun u =>
        (memGet u.mem x = memGet s.mem x ∨ memGet u.mem x = b) ∧ gone u.hw ∧ s.hw.islandAt la ∈ u.hw.bus.isolated ∧
          Signals 6 s.hw u.hw) ∧
    (∀ st, RunsMem (.cacheError k (.double true) line st) s
      (ownEvents [MEM_UEADDR_ADDR, MEM_UEADDR_SRC, MEM_UEADDR_VALID, MEM_L2UE_COUNT, MEM_L2UE_SAT] [.cores, .l2]) (Bytes x 1) fun u =>
        memGet u.mem x = b ∧ gone u.hw ∧ (u.hw.core k).exc = some (if st then .storeFault else .loadFault) ∧
          u.hw.fld MEM_UEADDR_ADDR = line.toNat ∧ u.hw.fld MEM_UEADDR_SRC = 2 ∧ u.hw.flag MEM_UEADDR_VALID = true ∧
          Signals 220 s.hw u.hw)) ∧
  (∀ (l : Line) (x : Nat) (b : Byte) (st : Bool), s.hw.dLine k la = some l → l.under = [(x, b)] →
    RunsMem (.cacheError k (.double false) line st) s
      (ownEvents [MEM_UEADDR_ADDR, MEM_UEADDR_SRC, MEM_UEADDR_VALID, MEM_L2UE_COUNT, MEM_L2UE_SAT] [.cores]) (Bytes x 1) fun u =>
        memGet u.mem x = b ∧ u.hw.dLine k la = none ∧ (u.hw.core k).exc = some (if st then .storeFault else .loadFault) ∧
          u.hw.fld MEM_UEADDR_ADDR = line.toNat ∧ u.hw.fld MEM_UEADDR_SRC = 3 ∧ u.hw.flag MEM_UEADDR_VALID = true ∧
          Signals 220 s.hw u.hw) ∧
  (∀ (st l2 : Bool), Runs (.cacheError k (.single l2) line st) s
    (ownEvents [MEM_L2CE_COUNT, MEM_L2CE_SAT, MEM_L1CE_COUNT, MEM_L1CE_SAT] [])
    fun h => s.hw.flag (if l2 then MEM_L2CE_SAT else MEM_L1CE_SAT) = false →
      h.fld (if l2 then MEM_L2CE_COUNT else MEM_L1CE_COUNT) =
        min (s.hw.fld (if l2 then MEM_L2CE_COUNT else MEM_L1CE_COUNT) + 1) (2 ^ 31 - 1))

/-- R362, R365, R367, R368: training of DDR4 and the patrols. INIT with a size starts training and unmaps DDR4; success sets
READY with the fitted size and raises E218; a patrol pass counts what it corrected, latches the address of an uncorrectable
error and raises E219 and E222. -/
def Obligations.MemoriesAndPatrol : Prop := ∀ (s : State) (src : Src),
  (s.hw.fld MEM_DDRCFG_SIZE ≠ 0 → Runs (.ddrInit src) s (own [MEM_DDRSTAT_READY, MEM_DDRSTAT_TFAIL] [.ddrTraining])
    fun h => h.flag MEM_DDRSTAT_READY = false ∧ h.ddrTraining = true ∧ ∀ a, 0x1000000000 ≤ a → h.region a = .unmapped) ∧
  (s.hw.ddrTraining = true → Runs (.ddrTrainingDone true) s (ownEvents [MEM_DDRSTAT_READY] [.ddrTraining, .ddrFit])
    fun h => h.flag MEM_DDRSTAT_READY = true ∧ h.ddrTraining = false ∧ h.ddrFit = s.hw.fld MEM_DDRCFG_SIZE ∧
      Signals 218 s.hw h) ∧
  (s.hw.ddrTraining = true → Runs (.ddrTrainingDone false) s (ownEvents [MEM_DDRSTAT_TFAIL] [.ddrTraining, .ddrFit])
    fun h => h.flag MEM_DDRSTAT_TFAIL = true ∧ h.flag MEM_DDRSTAT_READY = s.hw.flag MEM_DDRSTAT_READY ∧
      Signals 218 s.hw h) ∧
  (s.hw.flag MEM_SCRUB_SRAMEN = true → ∀ (n : BitVec 31) (a : BitVec 40),
    Runs (.scrubPass false n [a]) s (ownEvents [MEM_SRAMCE_COUNT, MEM_SRAMCE_SAT, MEM_UEADDR_ADDR, MEM_UEADDR_SRC,
        MEM_UEADDR_VALID, MEM_SRAMUE_COUNT, MEM_SRAMUE_SAT] [])
      fun h => h.fld MEM_UEADDR_ADDR = a.toNat ∧ h.fld MEM_UEADDR_SRC = 0 ∧ h.flag MEM_UEADDR_VALID = true ∧
        (s.hw.flag MEM_SRAMCE_SAT = false →
          h.fld MEM_SRAMCE_COUNT = min (s.hw.fld MEM_SRAMCE_COUNT + n.toNat) (2 ^ 31 - 1)) ∧
        Signals 219 s.hw h ∧ Signals 222 s.hw h) ∧
  (s.hw.flag MEM_SCRUB_SRAMEN = false → ∀ n a, exec (.scrubPass false n a) s = .next s)

/-- R370, R374-R376, R398: the access tables are written through ACT by the Keeper, and by the hosts in D0 while HOSTWR is
set and LOCK clear. RD loads the selected window, WR replaces it whole and no other; row M4 cannot be written. -/
def Obligations.AccessTables : Prop := ∀ (s : State) (src : Src),
  let may := src.master.val = 4 ∨ (src.master.val < 4 ∧ src.dom = 0#8 ∧ s.hw.flag ACT_CTRL_HOSTWR = true ∧
    s.hw.flag ACT_CTRL_LOCK = false)
  let w := s.hw.window (s.hw.fld ACT_SEL_TGT) (s.hw.fld ACT_SEL_ROW) (s.hw.fld ACT_SEL_WIN)
  (may → s.hw.fld ACT_SEL_TGT < 10 →
    Runs (.actRd src) s (own [ACT_WLO_R, ACT_WLO_W, ACT_WLO_X, ACT_WLO_DMODE, ACT_WLO_DOM, ACT_WLO_BASE, ACT_WHI_VALID,
        ACT_WHI_LIMIT] [])
      fun h => h.fld ACT_WLO_R = bits w.wlo 0 1 ∧ h.fld ACT_WLO_W = bits w.wlo 1 1 ∧ h.fld ACT_WLO_X = bits w.wlo 2 1 ∧
        h.fld ACT_WLO_DMODE = bits w.wlo 3 1 ∧ h.fld ACT_WLO_DOM = bits w.wlo 4 8 ∧ h.fld ACT_WLO_BASE = bits w.wlo 12 28 ∧
        h.fld ACT_WHI_VALID = bits w.whi 0 1 ∧ h.fld ACT_WHI_LIMIT = bits w.whi 12 28) ∧
  (may → s.hw.fld ACT_SEL_TGT < 10 → s.hw.fld ACT_SEL_ROW ≠ 4 → s.hw.fld ACT_SEL_ROW < 128 → s.hw.fld ACT_SEL_WIN < 16 →
    Runs (.actWr src) s (own [] [.windows])
      fun h => h.window (s.hw.fld ACT_SEL_TGT) (s.hw.fld ACT_SEL_ROW) (s.hw.fld ACT_SEL_WIN) = ⟨s.hw.wlo, s.hw.whi⟩ ∧
        ∀ t r i, r < 128 → i < 16 →
          (t, r, i) ≠ (s.hw.fld ACT_SEL_TGT, s.hw.fld ACT_SEL_ROW, s.hw.fld ACT_SEL_WIN) →
          h.window t r i = s.hw.window t r i) ∧
  (may → s.hw.fld ACT_SEL_ROW = 4 →
    Runs (.actWr src) s (ownEvents [ACT_STAT_WREF] []) fun h => h.flag ACT_STAT_WREF = true ∧ Signals 209 s.hw h) ∧
  (src.master.val < 4 → (src.dom ≠ 0#8 ∨ s.hw.flag ACT_CTRL_HOSTWR = false ∨ s.hw.flag ACT_CTRL_LOCK = true) →
    ∀ c, c = .actRd src ∨ c = .actWr src →
    Runs c s (ownEvents [ACT_STAT_WREF] []) fun h => h.flag ACT_STAT_WREF = true ∧ Signals 209 s.hw h) ∧
  (src.master.val = 4 → ∀ b, Runs (.hostwr src b) s (own [ACT_CTRL_HOSTWR] []) fun h => h.flag ACT_CTRL_HOSTWR = b) ∧
  (src.master.val = 4 ∨ (src.master.val < 4 ∧ src.dom = 0#8) →
    Runs (.actLock src) s (own [ACT_CTRL_LOCK] []) fun h => h.flag ACT_CTRL_LOCK = true)

/-- R381-R384: pins, bindings and invalidation by D0. A pin write changes its entry and no other unless R383 refuses it
(PINREF with the entry, E205); a binding is closed while its channel is enabled (BINDREF, E206); an invalidation removes
exactly the entries it names, and its end raises E204. -/
def Obligations.TranslationCommands : Prop := ∀ (s : State) (src : Src), src.dom = 0#8 →
  (∀ (n : Fin 256) (pa : Bool) (v : BitVec 64), s.hw.pinRefused n ((s.hw.pin n).with_ pa v.toNat) = false →
    Runs (.pinWrite src n pa v) s (own [XLT_PIN_VA_VPN n, XLT_PIN_VA_AS n, XLT_PIN_VA_SIZE n, XLT_PIN_VA_R n, XLT_PIN_VA_W n,
        XLT_PIN_VA_VALID n, XLT_PIN_PA_PPN n] [])
      fun h => h.pin n = (s.hw.pin n).with_ pa v.toNat ∧ ∀ m < 256, m ≠ n.val → h.pin m = s.hw.pin m) ∧
  (∀ (n : Fin 256) (pa : Bool) (v : BitVec 64), s.hw.pinRefused n ((s.hw.pin n).with_ pa v.toNat) = true →
    Runs (.pinWrite src n pa v) s (ownEvents [XLT_STAT_PINREF, XLT_STAT_PINENT] [])
      fun h => h.flag XLT_STAT_PINREF = true ∧ h.fld XLT_STAT_PINENT = n.val ∧ Signals 205 s.hw h) ∧
  (∀ (n : Fin 64) (v : BitVec 32), s.hw.flag (TND_CH_CFG_EN n) = false →
    Runs (.bindWrite src n v) s (own [XLT_CH_BIND_AS n, XLT_CH_BIND_DOM n] [])
      fun h => h.chanAs n = bits v.toNat 0 6 ∧ h.chanDom n = bits v.toNat 8 8) ∧
  (∀ (n : Fin 64) (v : BitVec 32), s.hw.flag (TND_CH_CFG_EN n) = true → s.hw.flag XLT_STAT_BINDREF = false →
    Runs (.bindWrite src n v) s (ownEvents [XLT_STAT_BINDREF] [])
      fun h => h.flag XLT_STAT_BINDREF = true ∧ Signals 206 s.hw h) ∧
  (∀ (vpn : BitVec 27) (as : BitVec 6) (allva allas : Bool),
    Runs (.xltInv src vpn as allva allas) s (own [XLT_STAT_INVBUSY] [.iotlb, .inv])
      fun h => h.flag XLT_STAT_INVBUSY = true ∧ ∀ e, e ∈ h.iotlb ↔ e ∈ s.hw.iotlb ∧
        ¬((allas = true ∨ e.asid = as.toNat) ∧ (allas = true ∨ allva = true ∨ e.vpn = vpn.toNat))) ∧
  (s.hw.flag XLT_STAT_INVBUSY = true → Runs .invDone s (ownEvents [XLT_STAT_INVBUSY] [.inv])
    fun h => h.flag XLT_STAT_INVBUSY = false ∧ Signals 204 s.hw h)

/-- R390, R393: enabling, starting, resuming and aborting a Tender channel that no other block uses. A command that the
channel's state does not take sets CMDREF and changes nothing else. -/
def Obligations.ChannelCommands : Prop := ∀ (s : State) (src : Src) (n : Fin 64), src.dom = 0#8 →
  ((∀ k < 64, s.hw.flag (TND_CH_CFG_EN k) = true → Unshared s.hw k) →
    (∀ k < 64, s.hw.flag (TND_CH_CFG_EN k) = false → s.hw.chanState k = 0) →
    Runs (.tenderEn src true) s (own (TND_CTRL_EN :: (List.range 64).map TND_CH_STAT_STATE) [])
      fun h => h.flag TND_CTRL_EN = true ∧
        ∀ k < 64, h.chanState k =
          (if s.hw.flag (TND_CH_CFG_EN k) = true ∧ s.hw.chanState k = 0 then 1 else s.hw.chanState k)) ∧
  ((∀ k < 64, s.hw.chanState k ≠ 0 → Unshared s.hw k) →
    Runs (.tenderEn src false) s (own (TND_CTRL_EN :: (List.range 64).map TND_CH_STAT_STATE ++
        (List.range 64).map TND_CH_STAT_PEND) [.tch])
      fun h => h.flag TND_CTRL_EN = false ∧ ∀ k < 64, h.chanState k = 0) ∧
  (∀ cfg : BitVec 32, cfg.getLsbD 0 = true → s.hw.flag TND_CTRL_EN = true → s.hw.chanState n = 0 → Unshared s.hw n →
    Runs (.channelEn src n cfg) s (own [TND_CH_CFG_EN n, TND_CH_CFG_CLASS n, TND_CH_CFG_TRIGEN n, TND_CH_CFG_EVT n,
        TND_CH_CFG_REQ n, TND_CH_STAT_STATE n] [])
      fun h => h.chanState n = 1 ∧ h.fld (TND_CH_CFG_CLASS n) = bits cfg.toNat 1 2 ∧
        h.flag (TND_CH_CFG_TRIGEN n) = cfg.getLsbD 3 ∧ h.fld (TND_CH_CFG_EVT n) = bits cfg.toNat 4 8 ∧
        h.flag (TND_CH_CFG_REQ n) = cfg.getLsbD 12) ∧
  (s.hw.chanState n = 1 → Runs (.tndStart n (.cmd src)) s (own [TND_CH_STAT_STATE n] [.tch])
    fun h => h.chanState n = 2 ∧ h.chan n = ⟨s.hw.fld (TND_CH_DESC n) / 32 * 32, none, 0, none, [], []⟩ ∧
      ∀ k, k ≠ n.val → h.chan k = s.hw.chan k) ∧
  (s.hw.chanState n = 2 → s.hw.flag (TND_CH_STAT_PEND n) = false →
    Runs (.tndStart n (.cmd src)) s (own [TND_CH_STAT_PEND n] []) fun h => h.flag (TND_CH_STAT_PEND n) = true) ∧
  (s.hw.chanState n = 2 → s.hw.flag (TND_CH_STAT_PEND n) = true →
    Runs (.tndStart n (.cmd src)) s (ownEvents [] []) fun h => Signals 203 s.hw h ∧
      (s.hw.flag TND_TRIGLOST_SAT = false → s.hw.fld TND_TRIGLOST_COUNT < 2 ^ 31 - 1 → s.hw.flag (EVT_ROUTE_TND 203) = false →
        h.fld TND_TRIGLOST_COUNT = s.hw.fld TND_TRIGLOST_COUNT + 1)) ∧
  (s.hw.chanState n = 3 → Runs (.tndResume src n) s (own [TND_CH_STAT_STATE n] [.tch])
    fun h => h.chanState n = 2 ∧ h.chan n = { s.hw.chan n with fail := none }) ∧
  (s.hw.chanState n ≠ 3 → Runs (.tndResume src n) s (own [TND_CH_STAT_CMDREF n] [])
    fun h => h.flag (TND_CH_STAT_CMDREF n) = true) ∧
  (2 ≤ s.hw.chanState n → Unshared s.hw n →
    Runs (.tndAbort src n) s (own [TND_CH_STAT_STATE n, TND_CH_STAT_PEND n] [.tch])
      fun h => h.chanState n = 1 ∧ h.flag (TND_CH_STAT_PEND n) = false ∧ h.chan n = TChan.reset) ∧
  (s.hw.chanState n < 2 → Runs (.tndAbort src n) s (own [TND_CH_STAT_CMDREF n] [])
    fun h => h.flag (TND_CH_STAT_CMDREF n) = true)

/-- R379, R386-R389, R391, R392, R395: what a Tender channel of class 1-3 with an untranslated address space does at its turns:
it fetches its descriptor, copies one granule from SRAM to SRAM, counts the descriptor done and goes on with the next one,
pauses on a translation fault (E201) and ends in ERROR on an error (E202), with the fault registers saying where. -/
def Obligations.ChannelMoves : Prop := ∀ (s : State) (n : Fin 64), Memory.wf s.mem →
  (s.hw.fetching n = true → s.hw.pinFor (s.hw.chanAs n) (s.hw.chan n).daddr = none → s.hw.fld (TND_CH_CFG_CLASS n) ≠ 0 →
    s.hw.fld (XLT_AS_MODE (s.hw.chanAs n)) = 0 → (∀ i < 32, s.hw.region ((s.hw.chan n).daddr + i) = .sram) →
    s.hw.portClosed (64 + n) (s.hw.chan n).daddr = false →
    s.hw.accessCheck (64 + n) (s.hw.chanDom n) (s.hw.chan n).daddr 32 .read = none →
    Runs (.descriptorFetch n) s (own [] [.bus, .tch, .banks])
      fun h => (h.chan n).desc = some (TDesc.ofBytes (memRead s.mem (s.hw.chan n).daddr 32)) ∧
        (h.chan n).off = (s.hw.chan n).off ∧ ∀ k, k ≠ n.val → h.chan k = s.hw.chan k) ∧
  (∀ (d : TDesc) (len : Nat), s.hw.nextMover = some n.val → (s.hw.chan n).desc = some d → len = (s.hw.chan n).granule d →
    d.sq = false → d.dq = false → d.sfix = false → d.dfix = false → 0 < len →
    s.hw.pinFor (s.hw.chanAs n) ((s.hw.chan n).srcVa d) = none → s.hw.pinFor (s.hw.chanAs n) ((s.hw.chan n).dstVa d) = none →
    s.hw.fld (TND_CH_CFG_CLASS n) ≠ 0 → s.hw.fld (XLT_AS_MODE (s.hw.chanAs n)) = 0 → NoLines s.hw →
    s.hw.portClosed (64 + n) ((s.hw.chan n).srcVa d) = false → s.hw.portClosed (64 + n) ((s.hw.chan n).dstVa d) = false →
    (∀ i < len, s.hw.region ((s.hw.chan n).srcVa d + i) = .sram) → s.hw.region ((s.hw.chan n).dstVa d) = .sram →
    s.hw.accessCheck (64 + n) (s.hw.chanDom n) ((s.hw.chan n).srcVa d) len .read = none →
    s.hw.accessCheck (64 + n) (s.hw.chanDom n) ((s.hw.chan n).dstVa d) len .write = none →
    RunsMem (.granuleIssue .none) s (own [] [.bus, .tch, .tlast, .banks]) (Bytes ((s.hw.chan n).dstVa d) len)
      fun u => (u.hw.chan n).off = (s.hw.chan n).off + len ∧ (u.hw.chan n).desc = some d ∧
        ∀ i < len, memGet u.mem ((s.hw.chan n).dstVa d + i) = memGet s.mem ((s.hw.chan n).srcVa d + i)) ∧
  (∀ f, (s.hw.chan n).fail = some f → s.hw.chanState n = 2 → s.hw.fld (TND_CH_CFG_CLASS n) ≠ 0 → f.kind.isTranslation = true →
    Runs (.translationFault n) s (ownEvents [] []) fun h => h.chanState n = 3 ∧ h.fld (TND_CH_FDESC n) = (s.hw.chan n).daddr % 2 ^ 64 ∧
      h.fld (TND_CH_FVA n) = f.va % 2 ^ 64 ∧ h.fld (TND_CH_FKIND_KIND n) = f.kind.code ∧ Signals 201 s.hw h) ∧
  (∀ f e d, (s.hw.chan n).fail = some f → s.hw.chanState n = 2 → s.hw.fld (TND_CH_CFG_CLASS n) ≠ 0 →
    f.kind.isTranslation = false →
    Runs (.tndError n e d) s (ownEvents [] []) fun h => h.chanState n = 4 ∧ h.fld (TND_CH_FKIND_KIND n) = f.kind.code ∧
      Signals 202 s.hw h) ∧
  (∀ d : TDesc, (s.hw.chan n).desc = some d → s.hw.chanState n = 2 → (s.hw.chan n).fail = none → d.len ≤ (s.hw.chan n).off →
    d.next ≠ 0 → d.doneev = false → Unshared s.hw n →
    Runs (.descriptorComplete n) s (own [TND_CH_DONECNT n] [.tch])
      fun h => h.fld (TND_CH_DONECNT n) = (s.hw.fld (TND_CH_DONECNT n) + 1) % 2 ^ 32 ∧ h.chan n = ⟨d.next, none, 0, none, [], []⟩) ∧
  (∀ d : TDesc, (s.hw.chan n).desc = some d → s.hw.chanState n = 2 → (s.hw.chan n).fail = none → d.len ≤ (s.hw.chan n).off →
    d.next = 0 → d.doneev = false → s.hw.flag (TND_CH_STAT_PEND n) = false → Unshared s.hw n →
    Runs (.descriptorComplete n) s (own [TND_CH_DONECNT n, TND_CH_STAT_STATE n] [.tch])
      fun h => h.fld (TND_CH_DONECNT n) = (s.hw.fld (TND_CH_DONECNT n) + 1) % 2 ^ 32 ∧ h.chanState n = 1 ∧
        h.chan n = TChan.reset)


/-- R422-R429, R431: producers and consumers of a Mooring queue. A packet is built word by word and joins the queue at END with
its length word; a pop takes the head packet's next word, or the idle item; words and packets that find no room or no open
packet are dropped and counted; a domain that does not own the queue is refused. R432-R435: the pool's upkeep. FLUSH empties
its queue and ends BROKEN; a bank withdrawn goes OFF at once when no packet holds a cell of it and drains otherwise; the
Keeper quarantines a cell and returns it. -/
def Obligations.MooringQueues : Prop :=
  (∀ (s : State) (src : Src) (q : Fin 64),
    let x := s.hw.morQ q
    let p := src.master.val
    let show_ := [MOR_Q_PKTS q, MOR_Q_WORDS q, MOR_Q_CELLS q, MOR_STAT_FREE, MOR_STAT_OPEN]
    let bank := [MOR_BANKST_DRAIN, MOR_BANKST_OFF]
    let others (h : Hw) : Prop := ∀ k, k ≠ q.val → h.morQ k = s.hw.morQ k
    let counted (cnt sat : Fld) (h : Hw) : Prop := s.hw.flag sat = false → s.hw.fld cnt < 2 ^ 31 - 2 → h.fld cnt = s.hw.fld cnt + 1
    (s.hw.morDom q src.dom.toNat = true → s.hw.morOff q = false →
      (Tab.get? x.building p = none → s.hw.morOpen < 256 →
        (∀ c, x.held.length + x.unreached.length < s.hw.fld (MOR_Q_CFG_QUOTA q) → s.hw.freshCell = some c →
          Runs (.morBegin src q) s (own show_ [.mor, .free]) fun h => others h ∧
            h.morQ q = { x with building := Tab.put x.building p ⟨[c], 1, 0, false⟩ }) ∧
        (s.hw.fld (MOR_Q_CFG_QUOTA q) ≤ x.held.length + x.unreached.length →
          Runs (.morBegin src q) s (own show_ [.mor]) fun h => others h ∧
            h.morQ q = { x with building := Tab.put x.building p ⟨[], 1, 0, true⟩ })) ∧
      (∀ k w, Tab.get? x.building p = some k → k.dropped = false → k.words % 8 ≠ 0 →
        Runs (.morPush src q w) s (own show_ [.mor]) fun h => others h ∧
          h.morQ q = { x with building := Tab.put x.building p { k with words := k.words + 1 } } ∧ h.morWord k k.words = w) ∧
      (∀ w, Tab.get? x.building p = none → Runs (.morPush src q w) s (ownEvents [MOR_Q_DROPW_COUNT q, MOR_Q_DROPW_SAT q] [])
        (counted (MOR_Q_DROPW_COUNT q) (MOR_Q_DROPW_SAT q))) ∧
      (∀ k (flags : BitVec 8) (last : BitVec 3), Tab.get? x.building p = some k → k.dropped = false → 1 < k.words →
        Runs (.packetEnd src q flags last) s (own show_ [.mor]) fun h => others h ∧
          h.morQ q = { x with building := Tab.del x.building p, pkts := x.pkts ++ [k] } ∧
          h.morWord k 0 = BitVec.ofNat 64 (2 ^ 63 + flags.toNat * 2 ^ 32 +
            (if last = 0#3 then 8 * (k.words - 1) else 8 * (k.words - 1) - (8 - last.toNat)))) ∧
      (∀ k (flags : BitVec 8) (last : BitVec 3), Tab.get? x.building p = some k → k.dropped = true →
        Runs (.packetEnd src q flags last) s (ownEvents ([MOR_Q_DROPP_COUNT q, MOR_Q_DROPP_SAT q] ++ bank ++ show_) [.mor])
          fun h => others h ∧ h.morQ q = { x with building := Tab.del x.building p } ∧
            counted (MOR_Q_DROPP_COUNT q) (MOR_Q_DROPP_SAT q) h) ∧
      (∀ (flags : BitVec 8) (last : BitVec 3), Tab.get? x.building p = none →
        Runs (.packetEnd src q flags last) s (own [MOR_Q_STAT_SEQERR q] []) fun h => h.flag (MOR_Q_STAT_SEQERR q) = true) ∧
      (∀ k ks, x.pkts = k :: ks → Runs (.morPop src q .none) s (ownEvents (bank ++ show_) [.mor, .bus]) fun h => others h ∧
        h.bus.resp = ⟨false, toBytes 8 (s.hw.morWord k k.read).toNat⟩ ∧
        h.morQ q = { x with pkts := if k.words ≤ k.read + 1 then ks else { k with read := k.read + 1 } :: ks }) ∧
      (∀ err, x.pkts = [] → Runs (.morPop src q err) s (own [] [.bus]) fun h =>
        h.bus.resp = ⟨false, toBytes 8 idleItem.toNat⟩)) ∧
    (s.hw.morDom q src.dom.toNat = true → s.hw.morOff q = true →
      ∀ (w : BitVec 64) (flags : BitVec 8) (last : BitVec 3), ∀ c ∈ [Instr.morBegin src q, .morPush src q w, .packetEnd src q flags last],
        Runs c s (ownEvents [MOR_Q_DROPW_COUNT q, MOR_Q_DROPW_SAT q] []) (counted (MOR_Q_DROPW_COUNT q) (MOR_Q_DROPW_SAT q))) ∧
    (s.hw.morDom q src.dom.toNat = false → ∀ (w : BitVec 64) (flags : BitVec 8) (last : BitVec 3) (err : PoolErr),
      ∀ c ∈ [(Instr.morBegin src q, 8, TKind.write), (.morPush src q w, 0x10, .write), (.packetEnd src q flags last, 0xC, .write),
          (.morPop src q err, 0x18, .read)],
        Runs c.1 s (violationScope s.hw)
          (Violates (morAddr q c.2.1) src 8 c.2.2 .targetRule s.hw))) ∧
  (∀ (s : State) (src : Src) (q : Fin 64),
    Runs (.morFlush q) s (ownEvents [MOR_Q_PKTS q, MOR_Q_WORDS q, MOR_Q_CELLS q, MOR_STAT_FREE, MOR_STAT_OPEN, MOR_LOSTCELLS_COUNT,
        MOR_Q_STAT_BROKEN q, MOR_BANKST_DRAIN, MOR_BANKST_OFF] [.mor]) (fun h =>
      h.morQ q = MorQueue.empty ∧ (∀ k, k ≠ q.val → h.morQ k = s.hw.morQ k) ∧ h.flag (MOR_Q_STAT_BROKEN q) = false ∧
        h.mor.lost = s.hw.mor.lost ++ (s.hw.morQ q).unreached ∧ h.fld (MOR_Q_PKTS q) = 0 ∧ h.fld (MOR_Q_CELLS q) = 0) ∧
    (∀ v : BitVec 16, Runs (.banken v) s (ownEvents [MOR_BANKEN_EN, MOR_BANKST_DRAIN, MOR_BANKST_OFF, MOR_STAT_FREE] []) fun h =>
      h.fld MOR_BANKEN_EN = v.toNat ∧ ∀ b : Fin 16,
        (v.getLsbD b = true → h.fldBit MOR_BANKST_OFF b = false ∧ h.fldBit MOR_BANKST_DRAIN b = false) ∧
        (v.getLsbD b = false → s.hw.fldBit MOR_BANKEN_EN b = true →
          ((∀ c ∈ s.hw.cellsUsed, bankOf c ≠ b.val) → h.fldBit MOR_BANKST_OFF b = true ∧ Signals 115 s.hw h) ∧
          (∀ c ∈ s.hw.cellsUsed, bankOf c = b.val → h.fldBit MOR_BANKST_DRAIN b = true))) ∧
    (∀ cell : BitVec 16, src.master.val = 4 →
      let quar := s.hw.mor.quar
      Runs (.quarantine src cell) s (own [MOR_QCELL_CELL, MOR_QCELL_OP, MOR_QCNT_COUNT, MOR_STAT_FREE] [.mor]) (fun h =>
        h.mor = { s.hw.mor with quar := if cell.toNat ∈ quar then quar else cell.toNat :: quar } ∧ h.cellFree cell.toNat = false ∧
          h.fld MOR_QCELL_CELL = cell.toNat) ∧
      Runs (.quarantineReturn src cell) s (own [MOR_QCELL_CELL, MOR_QCELL_OP, MOR_QCNT_COUNT, MOR_STAT_FREE] [.mor]) (fun h =>
        h.mor = { s.hw.mor with quar := quar.filter fun c => c != cell.toNat } ∧ h.fld MOR_QCELL_CELL = cell.toNat)))

/-- R402-R407, R419, R437, R470: frames of the packet engine. A frame with a bad FCS or length is counted and goes nowhere; one that no
rule takes and a DROP rule's go nowhere else; an output datagram leaves ahead of every class, padded and with its FCS; a
change of a link raises E96 + port, and its loss at the clock's source port takes a LOCKED clock to HOLDOVER (R470). -/
def Obligations.PacketFrames : Prop := ∀ (s : State) (port : Fin 6) (f : List Byte),
  let d := frameHead (s.hw.fld (PKT_P_CFG_PVID port)) f
  let on := s.hw.flag PKT_CTRL_EN && s.hw.flag (PKT_P_CFG_EN port)
  let counted (cnt sat : Fld) (h : Hw) : Prop := s.hw.flag sat = false → s.hw.fld cnt < 2 ^ 31 - 2 → h.fld cnt = s.hw.fld cnt + 1
  let received (h : Hw) : Prop := h.fld (PKT_P_RXFRM port) = (s.hw.fld (PKT_P_RXFRM port) + 1) % 2 ^ 32
  let drop := [PKT_P_RXFRM port, PKT_P_RXDROP_COUNT port, PKT_P_RXDROP_SAT port]
  (on = false → ∀ ok, exec (.frameReceived port ok f) s = .next s) ∧
  (on = true → ∀ ok, ok = false ∨ f.length < 60 ∨ 9212 < f.length →
    Runs (.frameReceived port ok f) s (ownEvents [PKT_P_RXERR_COUNT port, PKT_P_RXERR_SAT port] [])
      (counted (PKT_P_RXERR_COUNT port) (PKT_P_RXERR_SAT port))) ∧
  (on = true → 60 ≤ f.length → f.length ≤ 9212 →
    (d.etype = 0x8808 ∧ be f d.up 2 = 1 → Runs (.frameReceived port true f) s (ownEvents drop []) fun h =>
      received h ∧ counted (PKT_P_RXDROP_COUNT port) (PKT_P_RXDROP_SAT port) h) ∧
    (d.etype ≠ 0x8808 → (∀ n < 256, s.hw.ruleHits port d f n = false) → s.hw.flag (PKT_P_CFG_DEFDROP port) = true →
      Runs (.frameReceived port true f) s (ownEvents drop []) fun h =>
        received h ∧ counted (PKT_P_RXDROP_COUNT port) (PKT_P_RXDROP_SAT port) h) ∧
    (∀ n : Fin 256, d.etype ≠ 0x8808 → s.hw.ruleHits port d f n = true → (∀ k < n.val, s.hw.ruleHits port d f k = false) →
      s.hw.fld (PKT_CR_ACT_ACTION n) = 0 → Runs (.frameReceived port true f) s (own [PKT_P_RXFRM port, PKT_CR_HITS n] []) fun h =>
        received h ∧ h.fld (PKT_CR_HITS n) = (s.hw.fld (PKT_CR_HITS n) + 1) % 2 ^ 32)) ∧
  (∀ fs err, on = true → s.hw.outqOf port = f :: fs → Runs (.pktTransmit port err) s (own [PKT_P_TXFRM port] [.pkt]) fun h =>
    let g := f ++ List.replicate (60 - f.length) 0#8
    h.outqOf port = fs ∧ Tab.get? h.pkt.wire port = some (g ++ toBytes 4 (crc32 g)) ∧
      h.fld (PKT_P_TXFRM port) = (s.hw.fld (PKT_P_TXFRM port) + 1) % 2 ^ 32) ∧
  (∀ up, s.hw.flag (PKT_P_STAT_LINK port) ≠ up → up = true ∨ s.hw.fld TIM_CTRL_SRCPORT ≠ port ∨ s.hw.fld TIM_STAT_STATE = 0 ∨
      s.hw.fld TIM_STAT_STATE = 3 → Runs (.linkChange port up) s (ownEvents [PKT_P_STAT_LINK port] []) fun h =>
    h.flag (PKT_P_STAT_LINK port) = up ∧ Signals (96 + port.val) s.hw h) ∧
  (s.hw.flag (PKT_P_STAT_LINK port) = true → s.hw.fld TIM_CTRL_SRCPORT = port → s.hw.fld TIM_STAT_STATE = 2 →
    Runs (.linkChange port false) s (ownEvents (PKT_P_STAT_LINK port :: TIM_STAT_STATE :: TIM_STAT_TOUT :: TIM_STAT_SLEWING ::
        TIM_SLEWMOV :: TIM_OFFSET :: TIM_RE :: TIM_HOLDCNT_COUNT :: TIM_HOLDCNT_SAT :: (List.range 16).map TIM_TP_STAT_HELD)
        [.clk, .log, .free]) fun h =>
      h.flag (PKT_P_STAT_LINK port) = false ∧ Signals (96 + port.val) s.hw h ∧ h.fld TIM_STAT_STATE = 3 ∧ Signals 164 s.hw h)

/-- R441, R446-R450, R455, R461, R463: register commands of a CAN FD channel by D0 or by the channel's domain. An object that
waits or stands in arbitration is closed to writes, and a write never alters what the frame on the bus finds; a cancel takes effect at once unless the object stands in arbitration;
the FIFO takes 32 frames; timing words change only while the channel is off and within bounds. -/
def Obligations.CanRegisterCommands : Prop := ∀ (s : State) (src : Src) (n : Fin 8) (m : Fin 128) (v : BitVec 32),
  let c := s.hw.ch n
  let kept (h : Hw) : Prop := c.before.isSome = true → h.rxObj n m = s.hw.rxObj n m
  (src.dom = 0#8 ∨ s.hw.fld (CAN_CTRL_DOM n) = src.dom.toNat →
    Runs (.canTxrq src n m) s (own [CAN_OBJ_CTL_TXRQ n m] []) (fun h => h.flag (CAN_OBJ_CTL_TXRQ n m) = true) ∧
    (s.hw.flag (CAN_OBJ_CTL_TXRQ n m) = false → exec (.canCancel src n m) s = .next s) ∧
    (s.hw.flag (CAN_OBJ_CTL_TXRQ n m) = true → s.hw.flag (CAN_OBJ_STAT_ARB n m) = true →
      Runs (.canCancel src n m) s (own [CAN_OBJ_CTL_CANCEL n m] []) fun h => h.flag (CAN_OBJ_CTL_CANCEL n m) = true) ∧
    (s.hw.flag (CAN_OBJ_CTL_TXRQ n m) = true → s.hw.flag (CAN_OBJ_STAT_ARB n m) = false →
      Runs (.canCancel src n m) s (own [CAN_OBJ_CTL_TXRQ n m, CAN_OBJ_STAT_CANCELLED n m] []) fun h =>
        h.flag (CAN_OBJ_CTL_TXRQ n m) = false ∧ h.flag (CAN_OBJ_STAT_CANCELLED n m) = true) ∧
    (c.fifo.length < 32 → Runs (.fifoPush src n) s (own [CAN_TXF_STAT_COUNT n] [.can]) fun h =>
      ∃ e : FifoEntry, h.can = Tab.put s.hw.can n { c with fifo := c.fifo ++ [e] } ∧
        h.fld (CAN_TXF_STAT_COUNT n) = c.fifo.length + 1 ∧ e.frame.id = s.hw.fld (CAN_TXF_ID n) ∧
        e.frame.ide = s.hw.flag (CAN_TXF_ID_IDE n) ∧ e.ie = s.hw.flag (CAN_TXF_CTL_IE n)) ∧
    (32 ≤ c.fifo.length → Runs (.fifoPush src n) s (ownEvents [CAN_STAT_FIFOREF n] []) fun h =>
      h.flag (CAN_STAT_FIFOREF n) = true ∧ Signals (131 + 4 * n.val) s.hw h) ∧
    (c.arb ≠ some .fifo → c.fifo.length ≤ 32 →
      Runs (.fifoFlush src n) s (own [CAN_TXF_STAT_COUNT n, CAN_TXF_STAT_FLUSHED n] [.can]) fun h =>
        (h.ch n).fifo = [] ∧ h.fld (CAN_TXF_STAT_COUNT n) = 0 ∧ h.fld (CAN_TXF_STAT_FLUSHED n) = c.fifo.length) ∧
    (s.hw.objClosed n m = false →
      Runs (.objectWrite src n m 0 v) s (own [CAN_OBJ_ID n m, CAN_OBJ_ID_IDE n m] [.can]) (fun h => kept h ∧
        h.fld (CAN_OBJ_ID n m) = bits v.toNat 0 29 ∧ h.flag (CAN_OBJ_ID_IDE n m) = v.getLsbD 29) ∧
      Runs (.objectWrite src n m 1 v) s (own [CAN_OBJ_MASK n m] [.can]) (fun h => kept h ∧
        h.fld (CAN_OBJ_MASK n m) = bits v.toNat 0 29) ∧
      ∀ i : Fin 16, Runs (.objectWrite src n m ⟨16 + i.val, by omega⟩ v) s (own [CAN_OBJ_DATA n m i] [.can]) fun h =>
        h.fld (CAN_OBJ_DATA n m i) = v.toNat) ∧
    (s.hw.objClosed n m = true → ∀ w : Fin 32, w.val ≤ 1 ∨ 16 ≤ w.val →
      Runs (.objectWrite src n m w v) s (own [CAN_STAT_OBJREF n] []) fun h => h.flag (CAN_STAT_OBJREF n) = true)) ∧
  (src.dom = 0#8 →
    (∀ data, s.hw.flag (CAN_CTRL_EN n) = false →
      (if data then timingOk (s.hw.nbt n) v.toNat else timingOk v.toNat (s.hw.dbt n)) = true →
      Runs (.timingWrite src n data v) s (own [CAN_NBT_NBRP n, CAN_NBT_NTSEG1 n, CAN_NBT_NTSEG2 n, CAN_NBT_NSJW n, CAN_DBT_DBRP n,
          CAN_DBT_DTSEG1 n, CAN_DBT_DTSEG2 n, CAN_DBT_DSJW n] []) fun h =>
        if data then h.dbt n = v.toNat % 2 ^ 18 ∧ h.nbt n = s.hw.nbt n else h.nbt n = v.toNat % 2 ^ 27 ∧ h.dbt n = s.hw.dbt n) ∧
    (∀ data, s.hw.flag (CAN_CTRL_EN n) = true ∨
        (if data then timingOk (s.hw.nbt n) v.toNat else timingOk v.toNat (s.hw.dbt n)) = false →
      Runs (.timingWrite src n data v) s (own [CAN_STAT_CMDREF n] []) fun h => h.flag (CAN_STAT_CMDREF n) = true) ∧
    (∀ mode : BitVec 2, c.arb = none → Runs (.canMode src n mode) s
      (own [CAN_CTRL_MODE n, CAN_ABDSTAT_NOK n, CAN_ABDSTAT_DOK n] [.can]) fun h => h.fld (CAN_CTRL_MODE n) = mode.toNat ∧
        h.flag (CAN_ABDSTAT_NOK n) = false ∧ h.flag (CAN_ABDSTAT_DOK n) = false ∧
        h.can = Tab.put s.hw.can n { c with abdK := 0, abdOk := 0 }))

/-- R443-R446, R451, R452, R462: what happens on a channel's bus. The candidate with the lowest arbitration field stands for the
bus; a frame that completes sets TXOK and its time; a stored frame fills its object; errors move TEC, REC and the state of
fault confinement; recovery raises CAN_BUS. -/
def Obligations.CanBusEvents : Prop := ∀ (s : State) (n : Fin 8) (m : Fin 128),
  let c := s.hw.ch n
  let block : Scope := inBlocks [0x3020 + n.val] [.can]
  let errc := [CAN_ERRC_TEC n, CAN_ERRC_REC n, CAN_STAT_BSTATE n, CAN_BOFFCNT_COUNT n, CAN_BOFFCNT_SAT n]
  let up := s.hw.flag (CAN_CTRL_EN n) = true ∧ s.hw.fld (CAN_STAT_BSTATE n) ≠ 2
  (s.hw.flag (CAN_CTRL_EN n) = true → c.arb = none → s.hw.canSends n = true → s.hw.candidate n (s.hw.cands n) = some (.obj m) →
    Runs (.startOfFrame n) s (own [CAN_OBJ_STAT_ARB n m] [.can]) fun h => h.flag (CAN_OBJ_STAT_ARB n m) = true ∧
      h.can = Tab.put (Tab.put s.hw.can n { c with sof := s.hw.nt, before := some [] }) n { c with sof := s.hw.nt, before := some [], arb := some (.obj m) }) ∧
  (c.arb = some (.obj m) → s.hw.fld (CAN_CTRL_MODE n) = mNormal → Tab.get? c.hold m = none →
    Runs (.canFrameSent n) s block fun h => h.flag (CAN_OBJ_CTL_TXRQ n m) = false ∧ h.flag (CAN_OBJ_STAT_TXOK n m) = true ∧
      h.flag (CAN_OBJ_STAT_ARB n m) = false ∧ h.fld (CAN_OBJ_TIME n m) = c.sof % 2 ^ 64 ∧ (h.ch n).arb = none ∧ (h.ch n).before = none ∧
      (h.ch n).wire = some (s.hw.objFrame n m) ∧
      (s.hw.flag (CAN_OBJ_CTL_IE n m) = true → h.fldBit (CAN_IPEND_PEND n (m.val / 32)) (m.val % 32) = true ∧
        Signals (128 + 4 * n.val) s.hw h)) ∧
  (c.arb = some (.obj m) → s.hw.flag (CAN_OBJ_CTL_CANCEL n m) = false → Tab.get? c.hold m = none →
    Runs (.arbitrationLost n) s (own [CAN_OBJ_STAT_ARB n m] [.can]) fun h => h.flag (CAN_OBJ_STAT_ARB n m) = false ∧
      h.can = Tab.put s.hw.can n { c with arb := none }) ∧
  (∀ f : CanFrame, up → s.hw.fld (CAN_CTRL_MODE n) = mNormal → f.fdf = false → s.hw.fld (CAN_ERRC_REC n) ≤ 127 →
    (s.hw.matchObj n f = none → Runs (.canFrameStored n f) s (ownEvents (CAN_RXNOMATCH_COUNT n :: errc) [.can]) fun h =>
      (h.ch n).before = none ∧
      h.fld (CAN_RXNOMATCH_COUNT n) = (s.hw.fld (CAN_RXNOMATCH_COUNT n) + 1) % 2 ^ 32) ∧
    (s.hw.matchObj n f = some m.val → (s.hw.rxObj n m).rio = false → f.rtr = false → f.data.length = dlcBytes false f.dlc →
      Runs (.canFrameStored n f) s block fun h => h.fld (CAN_OBJ_RXID n m) = f.id % 2 ^ 29 ∧
        h.flag (CAN_OBJ_STAT_NEWDAT n m) = true ∧ h.fld (CAN_OBJ_STAT_RXDLC n m) = f.dlc ∧
        h.flag (CAN_OBJ_STAT_MSGLST n m) = (s.hw.flag (CAN_OBJ_STAT_MSGLST n m) || s.hw.flag (CAN_OBJ_STAT_NEWDAT n m)) ∧
        h.fld (CAN_OBJ_TIME n m) = c.sof % 2 ^ 64 ∧
        ∀ i : Fin 16, h.fld (CAN_OBJ_DATA n m i) = ofBytes (((f.data ++ List.replicate (64 - f.data.length) 0#8).drop (4 * i)).take 4))) ∧
  (up → s.hw.fld (CAN_CTRL_MODE n) ≠ mAbd → Runs (.canError n .receive) s (ownEvents errc [.can]) fun h =>
    h.fld (CAN_ERRC_REC n) = min (s.hw.fld (CAN_ERRC_REC n) + 1) 255 ∧ h.fld (CAN_ERRC_TEC n) = min (s.hw.fld (CAN_ERRC_TEC n)) 511) ∧
  (up → s.hw.fld (CAN_CTRL_MODE n) ≠ mAbd → s.hw.fld (CAN_ERRC_TEC n) ≤ 255 → 248 ≤ s.hw.fld (CAN_ERRC_TEC n) →
    Runs (.canError n .flag8) s (ownEvents errc [.can]) fun h => h.fld (CAN_STAT_BSTATE n) = 2 ∧ Signals (129 + 4 * n.val) s.hw h) ∧
  (s.hw.fld (CAN_STAT_BSTATE n) = 2 → Runs (.busOffRecovery n) s (ownEvents [CAN_STAT_BSTATE n, CAN_ERRC_TEC n, CAN_ERRC_REC n] [])
    fun h => h.fld (CAN_STAT_BSTATE n) = 0 ∧ h.fld (CAN_ERRC_TEC n) = 0 ∧ h.fld (CAN_ERRC_REC n) = 0 ∧
      Signals (129 + 4 * n.val) s.hw h)
/-- R470: the clock commands of TIM.CMD written by D0, each in the states that R470 gives it. A change of state raises E160 and
presents TIME_STATE (R470); LOCK opens a lock session, whose one STEP LOCKED ends (R471). R470, R471: a clock command in a
state that R470 does not give it sets CMDREF and changes nothing else; a STEP with no step left sets STEPREF, raises E163 and
leaves the time. -/
def Obligations.ClockStates : Prop :=
  (∀ (s : State) (src : Src), src.dom = 0#8 →
    ((s.hw.fld TIM_STAT_STATE = 0 ∨ s.hw.fld TIM_STAT_STATE = 3) →
      Runs (.timLock src) s (ownEvents (TIM_STAT_STATE :: TIM_STAT_STEPOK :: (List.range 16).map TIM_TP_STAT_HELD) [.log, .free])
        fun h => h.fld TIM_STAT_STATE = 1 ∧ h.flag TIM_STAT_STEPOK = true ∧ Signals 160 s.hw h ∧ Records 0x060 none s.hw h) ∧
    (s.hw.fld TIM_STAT_STATE = 1 →
      Runs (.timLocked src) s (ownEvents (TIM_STAT_STATE :: TIM_STAT_STEPOK :: (List.range 16).map TIM_TP_STAT_HELD) [.log, .free])
        fun h => h.fld TIM_STAT_STATE = 2 ∧ h.flag TIM_STAT_STEPOK = false ∧ Signals 160 s.hw h ∧ Records 0x060 none s.hw h) ∧
    (s.hw.fld TIM_STAT_STATE = 2 →
      Runs (.timHold src) s (ownEvents (TIM_STAT_STATE :: TIM_STAT_SLEWING :: TIM_SLEWMOV :: TIM_OFFSET :: TIM_RE ::
          TIM_HOLDCNT_COUNT :: TIM_HOLDCNT_SAT :: (List.range 16).map TIM_TP_STAT_HELD) [.clk, .log, .free])
        fun h => h.fld TIM_STAT_STATE = 3 ∧ h.flag TIM_STAT_SLEWING = false ∧ Signals 160 s.hw h ∧ Records 0x060 none s.hw h ∧
          (s.hw.flag TIM_HOLDCNT_SAT = false → h.fld TIM_HOLDCNT_COUNT = min (s.hw.fld TIM_HOLDCNT_COUNT + 1) (2 ^ 31 - 1))) ∧
    (s.hw.fld TIM_STAT_STATE = 3 →
      Runs (.timRelock src) s (ownEvents (TIM_STAT_STATE :: (List.range 16).map TIM_TP_STAT_HELD) [.log, .free])
        fun h => h.fld TIM_STAT_STATE = 2 ∧ Signals 160 s.hw h ∧ Records 0x060 none s.hw h) ∧
    (s.hw.fld TIM_STAT_STATE ≠ 0 →
      Runs (.timFree src) s (ownEvents (TIM_STAT_STATE :: TIM_STAT_STEPOK :: TIM_STAT_SLEWING :: TIM_SLEWMOV :: TIM_OFFSET ::
          TIM_RE :: (List.range 16).map TIM_TP_STAT_HELD) [.clk, .log, .free])
        fun h => h.fld TIM_STAT_STATE = 0 ∧ h.flag TIM_STAT_STEPOK = false ∧ h.flag TIM_STAT_SLEWING = false ∧
          Signals 160 s.hw h ∧ Records 0x060 none s.hw h) ∧
    (s.hw.flag TIM_STAT_STEPOK = true →
      Runs (.timStep src) s (ownEvents [TIM_STAT_STEPOK, TIM_OFFSET, TIM_RE] [.clk, .log])
        fun h => h.flag TIM_STAT_STEPOK = false ∧ h.nt = ((s.hw.nt : Int) + s.hw.sfld TIM_STEPVAL) % 2 ^ 64 ∧
          Signals 161 s.hw h ∧ Records 0x061 (some (s.hw.fld TIM_STEPVAL)) s.hw h)) ∧
  (∀ (s : State) (src : Src), src.dom = 0#8 →
    (∀ c, (c = .timLock src ∧ s.hw.fld TIM_STAT_STATE ≠ 0 ∧ s.hw.fld TIM_STAT_STATE ≠ 3) ∨
        (c = .timLocked src ∧ s.hw.fld TIM_STAT_STATE ≠ 1) ∨ (c = .timHold src ∧ s.hw.fld TIM_STAT_STATE ≠ 2) ∨
        (c = .timRelock src ∧ s.hw.fld TIM_STAT_STATE ≠ 3) ∨ (c = .timFree src ∧ s.hw.fld TIM_STAT_STATE = 0) →
      Runs c s (own [TIM_STAT_CMDREF] []) fun h => h.flag TIM_STAT_CMDREF = true) ∧
    (s.hw.flag TIM_STAT_STEPOK = false →
      Runs (.timStep src) s (ownEvents [TIM_STAT_STEPREF] []) fun h => h.flag TIM_STAT_STEPREF = true ∧ h.nt = s.hw.nt ∧
        Signals 163 s.hw h))

/-- R467, R468, R470, R472: what moves or rates network time. A new RATE or slew leaves NT where it was, since the clock is folded
first (R467); the end of a slew, not before its time, moves NT by the residual phase (R472); a refused RATE leaves the time (R468). The servo timeout,
where SERVOTO is not 0 and no servo write came for so long, takes LOCKED to HOLDOVER with TOUT and LOCKING to FREE; E164 and the change of state are raised (R470). -/
def Obligations.RateSlewAndServo : Prop := (∀ (s : State) (src : Src), src.dom = 0#8 →
  let slewed : Nat := s.hw.elapsed s.hw.clk.slewStart
  (∀ rate : BitVec 32, (rate.toInt + s.hw.clk.slew).natAbs ≤ 549755813 →
    Runs (.rateWrite src rate) s (own [TIM_RATE, TIM_OFFSET, TIM_RE] [.clk])
      fun h => h.fld TIM_RATE = rate.toNat ∧ h.nt = s.hw.nt ∧ h.clk.servoAt = s.hw.tfree ∧
        (s.hw.flag TIM_CTRL_EN = true → h.sfld TIM_RE = rate.toInt + s.hw.clk.slew)) ∧
  (∀ rate : BitVec 32, (rate.toInt + s.hw.clk.slew).natAbs > 549755813 →
    Runs (.rateWrite src rate) s (ownEvents [TIM_STAT_RATEREF] [.clk])
      fun h => h.flag TIM_STAT_RATEREF = true ∧ Signals 163 s.hw h ∧ h.nt = s.hw.nt) ∧
  (∀ ms : BitVec 24, s.hw.fld TIM_STAT_STATE ≠ 0 → ms ≠ 0#24 →
    (s.hw.sfld TIM_RATE + roundDiv (s.hw.sfld TIM_SLEWPH * 2 ^ 40) (ms.toNat * 1000000)).natAbs ≤ 549755813 →
    Runs (.slewGo src ms) s (own [TIM_SLEWCTL_MS, TIM_STAT_SLEWING, TIM_SLEWMOV, TIM_OFFSET, TIM_RE] [.clk])
      fun h => h.flag TIM_STAT_SLEWING = true ∧ h.fld TIM_SLEWMOV = 0 ∧ h.fld TIM_SLEWCTL_MS = ms.toNat ∧ h.nt = s.hw.nt ∧
        h.clk.slew = roundDiv (s.hw.sfld TIM_SLEWPH * 2 ^ 40) (ms.toNat * 1000000) ∧ h.clk.slewPh = s.hw.sfld TIM_SLEWPH) ∧
  (∀ ms : BitVec 24, (s.hw.fld TIM_STAT_STATE = 0 ∨ ms = 0#24) →
    Runs (.slewGo src ms) s (ownEvents [TIM_SLEWCTL_MS, TIM_STAT_SLEWREF] [.clk])
      fun h => h.flag TIM_STAT_SLEWREF = true ∧ Signals 163 s.hw h ∧ h.nt = s.hw.nt) ∧
  (s.hw.flag TIM_STAT_SLEWING = true → s.hw.clk.slewMs * 1000000 ≤ slewed →
    Runs .slewEnd s (ownEvents [TIM_STAT_SLEWING, TIM_SLEWMOV, TIM_OFFSET, TIM_RE] [.clk])
      fun h => h.flag TIM_STAT_SLEWING = false ∧ h.clk.slew = 0 ∧ h.fld TIM_SLEWMOV = ofSigned 32 s.hw.clk.slewPh ∧
        Signals 162 s.hw h ∧ h.ntFine =
          (s.hw.ntFine + (s.hw.clk.slewPh * 2 ^ 40 - s.hw.clk.slew * slewed)) % 2 ^ 104) ∧
  (slewed < s.hw.clk.slewMs * 1000000 → exec .slewEnd s = .next s) ∧
  Runs .clockFold s (own [TIM_OFFSET, TIM_RE] [.clk])
    (fun h => h.ntFine = s.hw.ntFine % 2 ^ 104 ∧ h.nt = s.hw.nt ∧ h.clk.tbase = s.hw.tfree) ∧
  Runs (.timKeep src) s (own [] [.clk]) (fun h => h.clk = { s.hw.clk with servoAt := s.hw.tfree }) ∧
  Runs (.timCapt src) s (own [TIM_CAPTF, TIM_CAPNT] [])
    (fun h => h.fld TIM_CAPTF = s.hw.tfree % 2 ^ 64 ∧ h.fld TIM_CAPNT = s.hw.nt)) ∧
  (∀ s : State, s.hw.fld TIM_SERVOTO_MS = 0 ∨ s.hw.elapsed s.hw.clk.servoAt < s.hw.fld TIM_SERVOTO_MS * 1000000 →
    exec .servoTimeout s = .next s) ∧
  (∀ s : State, s.hw.fld TIM_SERVOTO_MS ≠ 0 → s.hw.fld TIM_SERVOTO_MS * 1000000 ≤ s.hw.elapsed s.hw.clk.servoAt →
  (s.hw.fld TIM_STAT_STATE = 2 →
    Runs .servoTimeout s (ownEvents (TIM_STAT_STATE :: TIM_STAT_TOUT :: TIM_STAT_SLEWING :: TIM_SLEWMOV :: TIM_OFFSET ::
        TIM_RE :: TIM_HOLDCNT_COUNT :: TIM_HOLDCNT_SAT :: (List.range 16).map TIM_TP_STAT_HELD) [.clk, .log, .free])
      fun h => h.fld TIM_STAT_STATE = 3 ∧ h.flag TIM_STAT_TOUT = true ∧ h.flag TIM_STAT_SLEWING = false ∧
        Signals 164 s.hw h ∧ Signals 160 s.hw h ∧ Records 0x060 none s.hw h) ∧
  (s.hw.fld TIM_STAT_STATE = 1 →
    Runs .servoTimeout s (ownEvents (TIM_STAT_STATE :: TIM_STAT_STEPOK :: TIM_STAT_SLEWING :: TIM_SLEWMOV :: TIM_OFFSET ::
        TIM_RE :: (List.range 16).map TIM_TP_STAT_HELD) [.clk, .log, .free])
      fun h => h.fld TIM_STAT_STATE = 0 ∧ h.flag TIM_STAT_STEPOK = false ∧ Signals 164 s.hw h ∧ Signals 160 s.hw h ∧
        Records 0x060 none s.hw h))

/-- The registers of light character `n`. -/
def tpFields (n : Nat) : List Fld :=
  [TIM_TP_CTRL_ARM n, TIM_TP_CTRL_MODE n, TIM_TP_CTRL_POL n, TIM_TP_CTRL_LOCKONLY n, TIM_TP_CTRL_BURST n, TIM_TP_NEXT n,
    TIM_TP_STAT_ACTIVE n, TIM_TP_STAT_DONE n, TIM_TP_STAT_SKIPPED n, TIM_TP_DONECNT_DONE n]

/-- R476, R478, R479: arming, ending and pulsing a light character. Refused while it runs or where its widths do not fit
(CFGREF, E167); armed before its first edge it runs with the mode the write gave; STOP and the last pulse end it. -/
def Obligations.LightCharacters : Prop := ∀ (s : State) (src : Src) (n : Fin 16) (cfg : BitVec 32), src.dom = 0#8 →
  (s.hw.flag (TIM_TP_STAT_ACTIVE n) = false → 4 ≤ s.hw.fld (TIM_TP_WIDTH n) →
    (bits cfg.toNat 5 4 ≠ 0 → s.hw.fld (TIM_TP_WIDTH n) < s.hw.fld (TIM_TP_SPACING n)) →
    (bitOf cfg.toNat 2 = true →
      bits cfg.toNat 5 4 * s.hw.fld (TIM_TP_SPACING n) + s.hw.fld (TIM_TP_WIDTH n) < s.hw.fld (TIM_TP_PERIOD n)) →
    Runs (.tpArm src n cfg) s (ownEvents (TIM_TPSKIPCNT_COUNT :: TIM_TPSKIPCNT_SAT :: tpFields n ++
        (List.range 16).map TIM_TP_STAT_HELD) [.tp])
      fun h => h.flag (TIM_TP_CTRL_MODE n) = bitOf cfg.toNat 2 ∧ h.flag (TIM_TP_CTRL_POL n) = bitOf cfg.toNat 3 ∧
        h.flag (TIM_TP_CTRL_LOCKONLY n) = bitOf cfg.toNat 4 ∧ h.fld (TIM_TP_CTRL_BURST n) = bits cfg.toNat 5 4 ∧
        (toSigned 64 (s.hw.nt + 2 ^ 64 - s.hw.fld (TIM_TP_START n)) < s.hw.fld (TIM_TP_WIDTH n) →
          h.flag (TIM_TP_STAT_ACTIVE n) = true ∧ h.flag (TIM_TP_CTRL_ARM n) = true)) ∧
  (s.hw.flag (TIM_TP_STAT_ACTIVE n) = true ∨ s.hw.fld (TIM_TP_WIDTH n) < 4 →
    Runs (.tpArm src n cfg) s (ownEvents [TIM_TP_STAT_CFGREF n] [])
      fun h => h.flag (TIM_TP_STAT_CFGREF n) = true ∧ Signals 167 s.hw h) ∧
  (s.hw.flag (TIM_TP_STAT_ACTIVE n) = true →
    Runs (.tpStop src n) s (ownEvents [TIM_TP_STAT_ACTIVE n, TIM_TP_CTRL_ARM n, TIM_TP_STAT_HELD n, TIM_TP_STAT_DONE n] [.tp])
      fun h => h.flag (TIM_TP_STAT_ACTIVE n) = false ∧ h.flag (TIM_TP_STAT_DONE n) = true ∧ (h.lchar n).on = false ∧
        Signals 165 s.hw h) ∧
  (s.hw.flag (TIM_TP_STAT_ACTIVE n) = true → s.hw.flag (TIM_TP_STAT_HELD n) = false → (s.hw.lchar n).on = false →
    s.hw.tpLive n ≤ (s.hw.lchar n).period * s.hw.tpBurst n + (s.hw.lchar n).pulse →
    atOrAfter s.hw.nt (s.hw.tpRise n (s.hw.lchar n).period (s.hw.lchar n).pulse) = true →
    Runs (.tpEdge n) s (own [] [.tp])
      fun h => h.lchar n = { s.hw.lchar n with on := true, rose := s.hw.tfree } ∧ ∀ k, k ≠ n.val → h.lchar k = s.hw.lchar k) ∧
  (s.hw.flag (TIM_TP_STAT_ACTIVE n) = true → (s.hw.lchar n).on = true →
    s.hw.fld (TIM_TP_WIDTH n) ≤ (s.hw.tfree + 2 ^ 64 - (s.hw.lchar n).rose) % 2 ^ 64 →
    Runs (.tpEdge n) s (ownEvents (TIM_TP_STAT_HELD n :: tpFields n) [.tp])
      fun h => (h.lchar n).on = false ∧ ∀ k, k ≠ n.val → h.lchar k = s.hw.lchar k)


/-- R503-R506, R515, R520: requests of software to the record store. A push takes a ticket and its request waits, joins the open
transaction or ends at once with its reason; a read ends with the live version at RADDR or with its result code; a counter
counts once. -/
def Obligations.RecordStoreRequests : Prop := ∀ (s : State) (src : Src) (len : BitVec 13) (txn ie : Bool), src.dom = 0#8 →
  s.hw.sys.down = none →
  let typ := s.hw.fld NVM_WTYPE
  let key := s.hw.fld NVM_WKEY
  let ticket := (s.hw.fld NVM_WSUB + 1) % 2 ^ 32
  let cmd := [NVM_WCMD_LEN, NVM_WCMD_TXN, NVM_WCMD_IE]
  (16 ≤ s.hw.hostPending → Runs (.nvmWrite src len txn ie) s (ownEvents (NVM_STAT_QREF :: cmd) [])
    fun h => h.flag NVM_STAT_QREF = true ∧ Signals 175 s.hw h) ∧
  (∀ b, s.hw.hostPending < 16 → s.hw.readAs s.mem 24 0 (s.hw.fld NVM_WADDR) (min len.toNat 4048) = .ok b →
    let r : NvmReq := ⟨typ, key, b, 0, false, .host ticket ie⟩
    (s.hw.reqReason typ key len.toNat (some b) = 0 → txn = true →
      Runs (.nvmWrite src len txn ie) s (own (NVM_WSUB :: cmd) [.nvm, .banks]) fun h => h.fld NVM_WSUB = ticket ∧
        h.nvm = { s.hw.nvm with txOpen := s.hw.nvm.txOpen ++ [r] }) ∧
    (s.hw.reqReason typ key len.toNat (some b) = 0 → txn = false → s.hw.nvm.txOpen = [] →
      Runs (.nvmWrite src len txn ie) s (ownEvents (NVM_WSUB :: NVM_STAT_KEYWAIT :: NVM_STAT_FULLWAIT :: cmd) [.nvm, .banks])
        fun h => h.fld NVM_WSUB = ticket ∧ (r ∈ h.nvm.reqs ∨ ∃ p g, (p, g) ∈ h.nvm.open_ ∧ r ∈ g) ∧
          h.nvm.sectors = s.hw.nvm.sectors) ∧
    (∀ reason, s.hw.reqReason typ key len.toNat (some b) = reason → reason ≠ 0 → s.hw.nvm.txOpen = [] →
      Runs (.nvmWrite src len txn ie) s (ownEvents ([NVM_WSUB, NVM_WFAILCNT_COUNT, NVM_WFAILCNT_SAT, NVM_WSTAT_TICKET,
          NVM_WSTAT_REASON, NVM_WSTAT_VALID, NVM_WCOMMIT] ++ cmd) [.nvm, .banks])
        fun h => h.fld NVM_WSUB = ticket ∧ h.fld NVM_WSTAT_TICKET = ticket ∧ h.fld NVM_WSTAT_REASON = reason ∧
          h.flag NVM_WSTAT_VALID = true ∧ Signals 169 s.hw h ∧ h.nvm.sectors = s.hw.nvm.sectors)) ∧
  (s.hw.flag NVM_RSTAT_BUSY = false → partOf (s.hw.fld NVM_RTYPE) = 5 ∨ partOf (s.hw.fld NVM_RTYPE) = 8 →
    Runs (.nvmRead src) s (own [NVM_RSTAT_BUSY] [.nvm]) fun h => h.flag NVM_RSTAT_BUSY = true ∧
      h.nvm = { s.hw.nvm with read := some ⟨s.hw.fld NVM_RADDR, s.hw.fld NVM_RTYPE, s.hw.fld NVM_RKEY⟩ }) ∧
  (s.hw.flag NVM_RSTAT_BUSY = false → partOf (s.hw.fld NVM_RTYPE) ≠ 5 → partOf (s.hw.fld NVM_RTYPE) ≠ 8 →
    Runs (.nvmRead src) s (own [NVM_RSTAT_RESULT] []) fun h => h.fld NVM_RSTAT_RESULT = 3) ∧
  (∀ q r r', Memory.wf s.mem → s.hw.nvm.read = some q → s.hw.nvm.live q.typ q.key = some r' →
    s.hw.nvm.readable q.typ q.key = some r → r.payload ≠ [] → r.payload.length ≤ 4048 →
    s.hw.writeAs 24 0 q.addr r.payload.length = none → NoLines s.hw →
    RunsMem (.nvmReadDone false) s (own [NVM_RSTAT_BUSY, NVM_RSTAT_RESULT, NVM_RSTAT_RLEN, NVM_RSEQ] [.nvm, .banks])
      (Bytes q.addr r.payload.length)
      fun t => memRead t.mem q.addr r.payload.length = r.payload ∧ t.hw.fld NVM_RSTAT_RESULT = 0 ∧
        t.hw.flag NVM_RSTAT_BUSY = false ∧ t.hw.fld NVM_RSTAT_RLEN = r.payload.length ∧
        t.hw.fld NVM_RSEQ = r.seq % 2 ^ 32 ∧ t.hw.nvm = { s.hw.nvm with read := none }) ∧
  (∀ q, s.hw.nvm.read = some q → s.hw.nvm.live q.typ q.key = none →
    Runs (.nvmReadDone false) s (own [NVM_RSTAT_BUSY, NVM_RSTAT_RESULT] [.nvm])
      fun h => h.fld NVM_RSTAT_RESULT = 1 ∧ h.flag NVM_RSTAT_BUSY = false ∧ h.nvm = { s.hw.nvm with read := none }) ∧
  (∀ c : BitVec 4, 8 ≤ c.toNat → c.toNat ≤ 11 → Tab.getD s.hw.nvm.cells c.toNat 0 < 512 →
    Runs (.cntinc src c) s (own [NVM_CNT_VALUE c.toNat] [.nvm])
      fun h => h.fld (NVM_CNT_VALUE c.toNat) = (s.hw.fld (NVM_CNT_VALUE c.toNat) + 1) % 2 ^ 64 ∧
        Tab.getD h.nvm.cells c.toNat 0 = Tab.getD s.hw.nvm.cells c.toNat 0 + 1 ∧ h.nvm.sectors = s.hw.nvm.sectors) ∧
  (∀ (w : Src) (r : BitVec 8) (refresh : Bool), w.master.val = 4 →
    Runs (.compactRequest w r refresh) s (own [NVM_CCMD_SECTOR, NVM_CCMD_REFRESH] [.nvm])
      fun h => h.nvm = { s.hw.nvm with want := s.hw.nvm.want ++ [(r.toNat, b2n refresh)] })

/-- R496, R509, R511, R512, R517, R518: the record store's own work. A group commits whole into one sector, or its sector is
retired with E172 once nothing live is in it; a compaction copies page by page, marks COPIED and OBSOLETE and erases its source, or
retires it where its verify had failed; an erased sector takes
the next EC; a code refresh copies, erases and programs back, and ends with E174. -/
def Obligations.RecordStoreSteps : Prop := ∀ (s : State), s.hw.sys.down = none →
  let n := s.hw.nvm
  let show_ := [NVM_SPACE_ERASED, NVM_SPACE_RETIRED, NVM_ECMAX, NVM_ECMIN]
  (∀ (p : Fin 4) (q : NvmReq) (g : List NvmReq), n.reqs = [] → Tab.rising n.open_ = true → Tab.get? n.open_ p = some (q :: g) →
    (∀ r, n.sectorFor p (((q :: g).map NvmReq.lines).sum + 1) = some r →
      Runs (.groupCommit p true) s (inBlocks [0x3001, 0x3003, 0x3029] [.nvm, .log, .free, .keep, .forceSaved, .bil])
        fun h => Tab.get? h.nvm.open_ p = none ∧ ∃ c ∈ (h.nvm.sector r).groups,
          c.recs.map (fun x => (x.typ, x.key, x.payload)) = (q :: g).map fun x => (x.typ, x.key, x.payload)) ∧
    (∀ r, n.sectorFor p (((q :: g).map NvmReq.lines).sum + 1) = some r → n.liveOf r ≠ [] →
      Runs (.groupCommit p false) s (own [NVM_STAT_KEYWAIT, NVM_STAT_FULLWAIT] [.nvm])
        fun h => h.nvm.retired = n.retired ∧ h.nvm.open_ = n.open_ ∧ h.nvm.bad = r :: n.bad ∧ (h.nvm.sector r).full = true ∧
          h.nvm.want.head? = some (r, 0)) ∧
    (∀ r, n.sectorFor p (((q :: g).map NvmReq.lines).sum + 1) = some r → n.liveOf r = [] →
      Runs (.groupCommit p false) s (ownEvents (NVM_STAT_KEYWAIT :: NVM_STAT_FULLWAIT :: NVM_STAT_DEGRADED :: show_) [.nvm])
        fun h => h.nvm.retired = r :: n.retired ∧ h.nvm.open_ = n.open_ ∧ Signals 172 s.hw h ∧
          h.fld NVM_SPACE_RETIRED = (n.retired.length + 1) % 512 ∧
          (24 ≤ n.retired.length → h.flag NVM_STAT_DEGRADED = true))) ∧
  (∀ a reason d, n.comp = none → s.hw.compactNext = some (a, reason) → n.compactDest a = some d →
    Runs .compactionStart s (own (NVM_STAT_COMPACT :: show_) [.nvm])
      fun h => h.flag NVM_STAT_COMPACT = true ∧ h.nvm.comp = some ⟨a, d, reason, 0⟩ ∧
        (h.nvm.sector d).dest = some ⟨a, reason, (n.sector a).ec⟩ ∧
        (∀ r, r ≠ d → h.nvm.sector r = n.sector r)) ∧
  (∀ c, n.comp = some c → n.erase = none → c.src ≠ c.dst →
    (c.page < 31 → Runs .compactionPage s (own [] [.nvm])
      fun h => h.nvm.comp = some { c with page := c.page + 1 } ∧ h.nvm.erase = none ∧
        (∀ r, r ≠ c.dst → h.nvm.sector r = n.sector r)) ∧
    (31 ≤ c.page → n.bad.contains c.src = false → Runs .compactionPage s (own (NVM_CNT_VALUE 2 :: show_) [.nvm])
      fun h => h.nvm.erase = some (.store c.src) ∧ (h.nvm.sector c.dst).copied = true ∧
        (h.nvm.sector c.src).obsolete = true ∧ h.fld (NVM_CNT_VALUE 2) = (s.hw.fld (NVM_CNT_VALUE 2) + 1) % 2 ^ 64 ∧
        (∀ r, r ≠ c.dst → r ≠ c.src → h.nvm.sector r = n.sector r)) ∧
    (31 ≤ c.page → n.bad.contains c.src = true →
      Runs .compactionPage s (ownEvents (NVM_STAT_COMPACT :: NVM_STAT_DEGRADED :: show_) [.nvm])
        fun h => h.nvm.retired = c.src :: n.retired ∧ h.nvm.comp = none ∧ h.flag NVM_STAT_COMPACT = false ∧
          (h.nvm.sector c.dst).copied = true ∧ Signals 172 s.hw h)) ∧
  (∀ r, n.erase = some (.store r) → Runs (.sectorEraseDone true) s (ownEvents (NVM_STAT_COMPACT :: show_) [.nvm])
    fun h => h.nvm.erase = none ∧ h.nvm.sector r = Sector.erased ((n.sector r).ec + 1) (s.hw.fld (NVM_CNT_VALUE 2)) ∧
      (∀ k, k ≠ r → h.nvm.sector k = n.sector k) ∧
      (∀ c, n.comp = some c → c.src = r → h.nvm.comp = none ∧ h.flag NVM_STAT_COMPACT = false)) ∧
  (∀ k, n.erase = some (.code k) → Runs (.sectorEraseDone true) s (own [] [.nvm])
    fun h => h.nvm = { n with erase := none, refresh := some (k, .programming) }) ∧
  (∀ (w : Src) (k : BitVec 10), w.master.val = 4 → k.toNat < 768 → n.refresh = none →
    Runs (.codeRefresh w k false) s (inBlocks [0x3001, 0x3029] [.nvm, .log, .free, .bil])
      (fun h => h.fld NVM_CREF_CSECTOR = k.toNat ∧ h.flag NVM_STAT_CREFRESH = true ∧
        h.nvm.refresh = some (k.toNat, .copying) ∧ h.nvm.code = n.code) ∧
    Runs (.codeRefresh w k true) s (ownEvents [NVM_CREF_CSECTOR, NVM_STAT_CREFRESH] [])
      (fun h => h.fld NVM_CREF_CSECTOR = k.toNat ∧ h.flag NVM_STAT_CREFRESH = false ∧ Signals 174 s.hw h)) ∧
  (∀ k, n.refresh = some (k, .programming) →
    Runs .codeSectorProgrammed s (inBlocks [0x3001, 0x3029] [.nvm, .log, .free, .bil])
      fun h => h.nvm.refresh = none ∧ h.flag NVM_STAT_CREFRESH = false ∧ Signals 174 s.hw h ∧ h.nvm.code = n.code)

/-- R528, R533, R536-R541, R553: ledger commands. A command that passes its checks changes key RAM at once when it concerns EXPR
nodes alone, and otherwise is in progress until its update commits; the commit advances LEDGERU and raises E177; a failed
update and a command that a check refuses give their reason and E182. R541, R553: the end of a ledger command. With its
records committed, and not before, the update takes effect: LEDGERU counts, E177 is raised, an INVALIDATE counts GEN and orphans every
descendant; without them it ends with STORE and changes no node. ANCHOR ends by writing the 32 bytes at CADDR. -/
def Obligations.LedgerCommands : Prop :=
  (∀ (s : State) (src : Src) (n p : Fin 1024), src.dom = 0#8 →
    s.hw.flag KEY_STAT_BUSY = false → s.hw.flag KEY_STAT_TAMPER = false →
    let key : Scope := ⟨[], [0x302A], [.key]⟩
    let update := inBlocks [0x302A, 0x3029, 0x3001] [.key, .nvm, .log, .free, .bil]
    let refusal := ownEvents [KEY_STAT_REFUSED, KEY_CRES_VERDICT, KEY_CRES_REASON, KEY_REFCNT_COUNT, KEY_REFCNT_SAT] []
    let refused (r : Nat) (h : Hw) : Prop := h.flag KEY_STAT_REFUSED = true ∧ h.fld KEY_CRES_VERDICT = 2 ∧
      h.fld KEY_CRES_REASON = r ∧ Signals 182 s.hw h
    let inProgress (op parent : Nat) (h : Hw) : Prop := h.flag KEY_STAT_BUSY = true ∧ h.fld KEY_CRES_VERDICT = 0 ∧
      h.key = { s.hw.key with cmd := some { s.hw.cargCmd op n parent with tx := s.hw.nvm.txNext } }
    let ended (h : Hw) : Prop := h.flag KEY_STAT_BUSY = false ∧ h.fld KEY_CRES_VERDICT = 1 ∧ h.fld KEY_CRES_REASON = 0 ∧ h.key.cmd = none
    (s.hw.keyMode ≠ keyRecovery →
      (528 ≤ n.val → s.hw.fld KEY_CARG_KIND = kindDerived → s.hw.fld KEY_CARG_DOM = 0 → s.hw.fld KEY_CARG_USE = 0 →
        s.hw.fld KEY_CARG_EXP ≤ 1 → s.hw.fld (KEY_K_W0_DEPTH p) < 6 → s.hw.nodeState n = nodeFree → s.hw.nodeState p = nodeValid →
        s.hw.nodeMask p 6 = true →
        (s.hw.fld KEY_CARG_EXPR = 1 → Runs (.keyCreate src n p) s key fun h => ended h ∧ h.nodeState n = nodeValid ∧
          h.nodeParent n = p ∧ h.fld (KEY_K_W0_KIND n) = kindDerived ∧ h.fld (KEY_K_W0_DOM n) = 0 ∧
          h.fld (KEY_K_W0_DEPTH n) = s.hw.fld (KEY_K_W0_DEPTH p) + 1 ∧ h.fld (KEY_K_W1_GEN n) = s.hw.fld (KEY_K_W1_GEN n)) ∧
        (s.hw.fld KEY_CARG_EXPR = 0 → s.hw.quotaOk 0x1004 n (nodeLen kindDerived) = true →
          Runs (.keyCreate src n p) s update (inProgress 1 p))) ∧
      (s.hw.nodeState n ≠ nodeFree → 272 ≤ n.val →
        (s.hw.nodeFlag n 0 = false → Runs (.keyInvalidate src n) s update (inProgress 2 0) ∧
          Runs (.keyDelete src n) s update (inProgress 4 0) ∧
          (s.hw.nodeFlag n 1 = true → s.hw.fld KEY_CARG_COUNT ≠ 0 → Runs (.keyUpdate src n) s update (inProgress 3 0))) ∧
        (s.hw.nodeFlag n 0 = true → s.hw.descendants n = [] →
          Runs (.keyInvalidate src n) s key (fun h => ended h ∧ h.nodeState n = s.hw.nodeState n ∧
            h.fld (KEY_K_W1_GEN n) = (s.hw.fld (KEY_K_W1_GEN n) + 1) % 2 ^ 32) ∧
          Runs (.keyDelete src n) s key (fun h => ended h ∧ h.nodeState n = nodeFree ∧
            h.fld (KEY_K_W1_GEN n) = (s.hw.fld (KEY_K_W1_GEN n) + 1) % 2 ^ 32))) ∧
      (s.hw.nodeState n ≠ nodeFree → n.val < 272 → Runs (.keyDelete src n) s refusal (refused 8)) ∧
      (s.hw.nodeState n = nodeFree → Runs (.keyInvalidate src n) s refusal (refused 6)) ∧
      Runs (.keyRecover src false) s refusal (refused 2) ∧
      (∀ k : Src, k.master.val = 4 → Runs (.keyReenrol k) s key fun h => ended h ∧
        h.key = { s.hw.key with reenrol := true, cmd := none }) ∧
      (s.hw.keyMode ≠ keyStart → Runs (.keyAnchor src) s refusal (refused 2))) ∧
    (s.hw.keyMode = keyStart → s.hw.debug = true → (∀ i < 8, s.hw.fld (KEY_ANCHOR_HASH i) = 0) →
      Runs (.keyAnchor src) s (own [KEY_CRES_VERDICT, KEY_CRES_REASON, KEY_STAT_BUSY] [.key]) fun h =>
        h.flag KEY_STAT_BUSY = true ∧ h.key = { s.hw.key with cmd := some (s.hw.cargCmd 7 0 0) }) ∧
    (s.hw.keyMode = keyRecovery →
      Runs (.keyRecover src false) s (own [KEY_CRES_VERDICT, KEY_CRES_REASON, KEY_STAT_BUSY] [.key]) (fun h =>
        h.flag KEY_STAT_BUSY = true ∧ h.key = { s.hw.key with cmd := some (s.hw.cargCmd 6 0 0) }) ∧
      Runs (.keyInvalidate src n) s refusal (refused 2) ∧ Runs (.keyDelete src n) s refusal (refused 2))) ∧
  (∀ (s : State) (c : KeyCmd), s.hw.key.cmd = some c →
    (c.op = 2 → c.node < 1024 → s.hw.sys.down = none → s.hw.pendWaits = false → s.hw.nvm.txDead.contains c.tx = false →
      (s.hw.commitOk 0x1003 0 (toBytes 4 ((s.hw.fld KEY_LEDGERU_U + 1) % 2 ^ 32))).2 = true →
      Runs (.ledgerCommit true) s (inBlocks [0x302A, 0x3029, 0x3001] [.key, .nvm, .log, .free, .bil]) fun h =>
        h.fld KEY_LEDGERU_U = (s.hw.fld KEY_LEDGERU_U + 1) % 2 ^ 32 ∧ h.key.cmd = none ∧ h.flag KEY_STAT_BUSY = false ∧
          h.fld KEY_CRES_VERDICT = 1 ∧ Signals 177 s.hw h ∧
          h.fld (KEY_K_W1_GEN c.node) = (s.hw.fld (KEY_K_W1_GEN c.node) + 1) % 2 ^ 32 ∧
          ∀ m < 1024, h.nodeState m = if m ∈ s.hw.descendants c.node then nodeOrphan else s.hw.nodeState m) ∧
    (c.op ≠ 6 → c.op ≠ 7 → Runs (.ledgerCommit false) s (inBlocks [0x302A] [.key, .nvm]) fun h =>
      h.fld KEY_CRES_VERDICT = 2 ∧ h.fld KEY_CRES_REASON = 11 ∧ h.flag KEY_STAT_BUSY = false ∧ h.key.cmd = none ∧
        Signals 182 s.hw h ∧ h.fld KEY_LEDGERU_U = s.hw.fld KEY_LEDGERU_U ∧
        ∀ m < 1024, h.nodeState m = s.hw.nodeState m) ∧
    (c.op ≠ 6 → c.op ≠ 7 → s.hw.sys.down = none → s.hw.pendWaits = true → s.hw.nvm.txDead.contains c.tx = false →
      exec (.ledgerCommit true) s = .next s) ∧
    (∀ b, c.op = 7 → s.hw.readAs s.mem 23 0 c.addr 32 = .ok b →
      Runs .keyCommandEnd s ⟨[], [0x302A], [.key, .banks]⟩ fun h => h.key = { s.hw.key with cmd := none } ∧
        h.flag KEY_STAT_BUSY = false ∧ h.fld KEY_CRES_VERDICT = 1 ∧
        ∀ i : Fin 8, h.fld (KEY_ANCHOR_HASH i) = ofBytes ((b.drop (4 * i)).take 4)))

/-- R544-R550: key registers and jobs. SEL copies the node's value and GEN or is refused with E182; a job that passes its checks
runs; an orphaned key ends it with E178; a CMAC job ends by writing its tag and nothing else; a job that waits for the use
counter goes on when the new FLOOR commits. -/
def Obligations.KeyRegistersAndJobs : Prop := ∀ (s : State) (src : Src) (e : Fin 8) (n : Fin 1024),
  let endFields := [KEY_ENG_STAT_RESULT e, KEY_ENG_STAT_RUN e, KEY_ENG_DONECNT_DONE e]
  (src.dom = 0#8 → s.hw.keyMode = keyStart ∨ s.hw.keyMode = keyRun → s.hw.nodeState n = nodeValid → s.hw.nodeMask n e = true →
    e.val ∈ [0, 2, 3, 7] → Runs (.engSel src e n) s (own [KEY_ENG_SEL_NODE e, KEY_ENG_STAT_LOADED e] [.key]) fun h =>
      h.fld (KEY_ENG_SEL_NODE e) = n ∧ h.flag (KEY_ENG_STAT_LOADED e) = true ∧
        h.key = { s.hw.key with reg := (Tab.put s.hw.key.reg e
          ⟨n, s.hw.fld (KEY_K_W1_GEN n), s.hw.fld (KEY_K_W0_DOM n), s.hw.nodeVal n⟩) }) ∧
  (s.hw.nodeState n ≠ nodeValid ∨ s.hw.nodeMask n e = false ∨ e.val ∉ [0, 2, 3, 7] →
    Runs (.engSel src e n) s (ownEvents [] []) fun h => Signals 182 s.hw h) ∧
  (s.hw.flag (KEY_ENG_STAT_RUN e) = true →
    Runs (.jobSubmit src e) s (own [KEY_ENG_STAT_RESULT e] []) fun h => h.fld (KEY_ENG_STAT_RESULT e) = 8) ∧
  (∀ b d, s.hw.flag (KEY_ENG_STAT_RUN e) = false →
    s.hw.rangeOk src.master.val src.dom.toNat (s.hw.fld (KEY_ENG_JOB e) / 64 * 64, 64, false) = true →
    s.hw.readAs s.mem 23 0 (s.hw.fld (KEY_ENG_JOB e) / 64 * 64) 64 = .ok b → keyDesc b e = some d → opOk e d.op = true →
    (∀ key node, s.hw.jobKey src.dom.toNat e d = .ok (key, node) → (∀ k, node = some k → s.hw.nodeFlag k 1 = false) →
      s.hw.jobNodeOk d = true → (d.ranges.all fun r => s.hw.rangeOk src.master.val src.dom.toNat r) = true →
      Runs (.jobSubmit src e) s (own [KEY_ENG_STAT_RUN e] [.key, .banks]) fun h => h.flag (KEY_ENG_STAT_RUN e) = true ∧
        h.key = { s.hw.key with job := Tab.put s.hw.key.job e ⟨d, key, none⟩ }) ∧
    (s.hw.jobKey src.dom.toNat e d = .error 1 → d.slot = none →
      Runs (.jobSubmit src e) s (ownEvents ([KEY_ENG_STAT_LOADED e, KEY_ORPHCNT_COUNT, KEY_ORPHCNT_SAT] ++ endFields) [.key, .banks])
        fun h => h.fld (KEY_ENG_STAT_RESULT e) = 1 ∧ h.flag (KEY_ENG_STAT_LOADED e) = false ∧ Signals 178 s.hw h)) ∧
  (∀ j text, Memory.wf s.mem → NoLines s.hw → Tab.rising s.hw.key.job = true → Tab.get? s.hw.key.job e = some j → j.waits = none →
    j.desc.op = 3 → j.desc.slot = none →
    (∀ r ∈ j.desc.ranges, s.hw.rangeOk 23 0 r = true ∧
      s.hw.rangeCheck 23 0 r.1 r.2.1 (if r.2.2 then .write else .read) = none) →
    s.hw.readAs s.mem 23 0 j.desc.src j.desc.len = .ok text →
    RunsMem (.jobDone e) s (own endFields [.key, .free, .banks]) (Bytes j.desc.tag j.desc.tagLen) fun t =>
      t.mem = memWrite s.mem j.desc.tag ((Config.cmac (j.key.take 16) text).take j.desc.tagLen) ∧
        t.hw.fld (KEY_ENG_STAT_RESULT e) = 0 ∧ t.hw.flag (KEY_ENG_STAT_RUN e) = false ∧
        t.hw.fld (KEY_ENG_DONECNT_DONE e) = (s.hw.fld (KEY_ENG_DONECNT_DONE e) + 1) % 2 ^ 32 ∧
        Tab.get? t.hw.key.job e = none) ∧
  (∀ j c, s.hw.key.job = [(e.val, j)] → j.waits = some n.val → s.hw.sys.down = none → s.hw.nodeFlag n 1 = true →
    s.hw.fld (KEY_K_W1_COUNT n) = c + 1 → c + 1 < 2 ^ 32 → (∀ r ∈ s.hw.nvm.waiting, r.typ = 0x1004 → r.key ≠ n.val) →
    Runs (.floorCommit n) s (ownEvents [KEY_K_W1_COUNT n, KEY_K_W0_STATE n] [.key]) fun h =>
      h.fld (KEY_K_W1_COUNT n) = c ∧ Tab.get? h.key.job e = some { j with waits := none } ∧
        Tab.get? h.key.floor n = some (c + 1 - 65536) ∧ (c = 0 → h.nodeState n = nodeExhausted ∧ Signals 179 s.hw h))

/-- R528, R551, R552, R554: slots, modes, tamper and key RAM. A slot takes SVAL, which clears; RUN zeroises every slot; a tamper
zeroises every key, makes every node FREE, enters RECOVERY and raises E180; an uncorrectable node is an orphan with E183. -/
def Obligations.SlotsModesTamper : Prop := ∀ (s : State) (src : Src) (k : Fin 64) (n : Fin 1024), src.dom = 0#8 →
  (s.hw.keyMode ≠ keyRun → Runs (.slotWrite src k) s (own ((List.range 8).map KEY_SVAL) [.key]) fun h =>
    (∀ i < 8, h.fld (KEY_SVAL i) = 0) ∧ h.key = { s.hw.key with slot := (Tab.put s.hw.key.slot k
      ((List.range 8).map fun i => toBytes 4 (s.hw.fld (KEY_SVAL i))).flatten) }) ∧
  (s.hw.keyMode = keyRun → Runs (.slotWrite src k) s (ownEvents [] []) fun h => Signals 182 s.hw h) ∧
  (s.hw.keyMode = keyStart → Tab.rising s.hw.flds = true → Runs (.modeWrite src 1#2) s ⟨[], [0x302A], [.key]⟩ fun h => h.keyMode = keyRun ∧
    h.key = { s.hw.key with slot := [] } ∧ (∀ i < 64, h.flag (KEY_S_ATTR_VALID i) = false) ∧
    ∀ m < 1024, h.nodeState m = s.hw.nodeState m) ∧
  (s.hw.keyMode ≠ keyStart → ∀ m, Runs (.modeWrite src m) s
    (ownEvents [KEY_STAT_REFUSED, KEY_CRES_VERDICT, KEY_CRES_REASON, KEY_REFCNT_COUNT, KEY_REFCNT_SAT] []) fun h =>
      h.fld KEY_CRES_REASON = 2 ∧ h.flag KEY_STAT_REFUSED = true ∧ h.keyMode = s.hw.keyMode ∧ Signals 182 s.hw h) ∧
  (Tab.rising s.hw.flds = true → (∀ x ∈ s.hw.key.job, x.1 < 8 ∧ ∀ k, x.2.desc.slot = some k → k < 64) →
    Runs .tamper s (inBlocks [0x302A, 0x3029, 0x3000] [.key, .nvm, .log, .free, .sys]) fun h =>
    h.keyMode = keyRecovery ∧ h.flag KEY_STAT_TAMPER = true ∧ h.flag NVM_STAT_TAMPER = true ∧ h.key.val = [] ∧
      h.key.slot = [] ∧ h.key.cmd = none ∧ (∀ m < 1024, h.nodeState m = nodeFree) ∧
      (∀ e < 8, h.flag (KEY_ENG_STAT_LOADED e) = false) ∧ Signals 180 s.hw h ∧ h.nvm.sectors = s.hw.nvm.sectors) ∧
  (s.hw.nodeState n ≠ nodeFree → Runs (.keyRamError n) s (ownEvents [KEY_K_W0_STATE n] [.key]) fun h =>
    h.nodeState n = nodeOrphan ∧ h.key = { s.hw.key with val := Tab.del s.hw.key.val n } ∧ Signals 183 s.hw h)
/-- R557-R559, R566: events raised by software and claimed, and host records. A claim returns and clears the lowest pending
event of its context and no other bit; a host record carries the code, WPARAM and the writer's master and domain. -/
def Obligations.EventsAndHostRecords : Prop := ∀ (s : State) (src : Src),
  (∀ n : Fin 32, src.dom = 0#8 ∨ src.dom.toNat = s.hw.fld (EVT_SWDOM_DOM n) →
    Runs (.swraise src n) s (ownEvents [] []) fun h => Signals (224 + n.val) s.hw h) ∧
  (∀ n : Fin 32, src.dom ≠ 0#8 → src.dom.toNat ≠ s.hw.fld (EVT_SWDOM_DOM n) →
    Runs (.swraise src n) s (own [EVT_STAT_SWREF] []) fun h => h.flag EVT_STAT_SWREF = true) ∧
  (∀ (c : Fin 9) (e : Fin 256), c.val ≠ 8 ∨ src.master.val = 4 → s.hw.fldBit (EVT_PEND c (e.val / 64)) (e.val % 64) = true →
    (∀ k < e.val, s.hw.fldBit (EVT_PEND c (k / 64)) (k % 64) = false) →
    Runs (.claim src c) s (own [EVT_PEND c (e.val / 64)] [.bus])
      fun h => h.bus.resp = ⟨false, toBytes 4 (e.val + 256)⟩ ∧
        ∀ k : Fin 256, h.fldBit (EVT_PEND c (k.val / 64)) (k.val % 64) =
          (if k = e then false else s.hw.fldBit (EVT_PEND c (k.val / 64)) (k.val % 64))) ∧
  (∀ c : Fin 9, c.val ≠ 8 ∨ src.master.val = 4 → (∀ k : Fin 256, s.hw.fldBit (EVT_PEND c (k.val / 64)) (k.val % 64) = false) →
    Runs (.claim src c) s (own [] [.bus]) fun h => h.bus.resp = ⟨false, toBytes 4 0⟩) ∧
  (∀ (code : BitVec 10) (sev : BitVec 3), 512 ≤ code.toNat → sev.toNat ≤ 4 →
    Runs (.logWrite src code sev) s (own [] [.log])
      fun h => ∃ r : LogRec, r.code = code.toNat ∧ r.sev = sev.toNat ∧ r.master = src.master.val ∧ r.dom = src.dom.toNat ∧
        r.param = s.hw.fld LOG_WPARAM % 2 ^ 64 ∧
        h.log = { s.hw.log with arriving := LogRec.insert r s.hw.log.arriving }) ∧
  (∀ (code : BitVec 10) (sev : BitVec 3), code.toNat < 512 ∨ 4 < sev.toNat →
    Runs (.logWrite src code sev) s (own [LOG_STAT_WREF] []) fun h => h.flag LOG_STAT_WREF = true)

/-- R563, R567, R569-R571: the next record at the Logbook's input takes the next SEQ and stands last in the ring when its severity
is 5 or its rate window has room; past the limit it is only counted; while the tail is full it is lost (E189). A window that
closes, not before its time, with suppressed records leaves one summary. R572-R575: reading and clearing. A search returns the first record at or
after CUR that the asking domain may see and moves CUR past it; a clear whose blob is accepted leaves LOG_CLEARED alone in the
ring, sets EPOCH and raises E186 once its transaction can commit, and one that is not leaves the ring, sets CLRREF and raises E187. -/
def Obligations.LogbookPaths : Prop :=
  (∀ (s : State) (r : LogRec) (rs : List LogRec), s.hw.log.arriving = r :: rs →
    (r.sev = 5 ∨ (∃ w, Tab.get? s.hw.log.wins r.code = some w ∧ w.count < w.n ∧ atOrAfter s.hw.tfree w.close = false) →
      s.hw.fld LOG_TAIL < 768 →
      Runs .logRecord s (ownEvents [LOG_SEQ, LOG_TAIL, LOG_STAT_TAILFULL] [.log, .nvm])
        fun h => h.fld LOG_SEQ = (s.hw.fld LOG_SEQ + 1) % 2 ^ 32 ∧ h.fld LOG_TAIL = s.hw.fld LOG_TAIL + 1 ∧
          h.log.arriving = rs ∧ h.log.ring.length ≤ 16384 ∧
          ∃ q, h.log.ring.getLast? = some q ∧ q.seq = h.fld LOG_SEQ ∧ q.code = r.code ∧ q.param = r.param ∧
            q.master = r.master ∧ q.dom = r.dom) ∧
    (∀ w, r.sev ≠ 5 → Tab.get? s.hw.log.wins r.code = some w → w.n ≤ w.count → atOrAfter s.hw.tfree w.close = false →
      Runs .logRecord s (ownEvents [LOG_SUPCNT_COUNT, LOG_SUPCNT_SAT] [.log])
        fun h => h.log.arriving = rs ∧ h.log.ring = s.hw.log.ring ∧
          Tab.get? h.log.wins r.code = some { w with count := w.count + 1, supp := w.supp + 1, master := r.master } ∧
          (s.hw.flag LOG_SUPCNT_SAT = false →
            h.fld LOG_SUPCNT_COUNT = min (s.hw.fld LOG_SUPCNT_COUNT + 1) (2 ^ 31 - 1))) ∧
    (r.sev = 5 → s.hw.fld LOG_TAIL = 768 →
      Runs .logRecord s (ownEvents [LOG_LOSTCNT_COUNT, LOG_LOSTCNT_SAT] [.log])
        fun h => h.log.arriving = rs ∧ h.log.ring = s.hw.log.ring ∧ h.log.lost = s.hw.log.lost + 1 ∧ Signals 189 s.hw h) ∧
    (∀ (c : Fin 1024) w, Tab.rising s.hw.log.wins = true → Tab.get? s.hw.log.wins c = some w → w.supp ≠ 0 →
      atOrAfter s.hw.tfree w.close = true →
      Runs (.rateWindowClose c) s (own [] [.log])
        fun h => Tab.get? h.log.wins c = none ∧ h.log.ring = s.hw.log.ring ∧
          ∃ q : LogRec, q.code = 1 ∧ q.sum = true ∧ q.param = c.val + min w.supp (2 ^ 32 - 1) * 2 ^ 16 ∧
            h.log.arriving = LogRec.insert q s.hw.log.arriving) ∧
    (∀ (c : Fin 1024) w, Tab.get? s.hw.log.wins c = some w → atOrAfter s.hw.tfree w.close = false →
      exec (.rateWindowClose c) s = .next s)) ∧
  (∀ (s : State) (src : Src),
    (∀ p : Fin 8, Runs (.logNext src p) s (own [LOG_RD_STAT_BUSY p] [.log])
      fun h => h.flag (LOG_RD_STAT_BUSY p) = true ∧ Tab.get? h.log.search p = some ⟨src.dom.toNat⟩ ∧ h.log.ring = s.hw.log.ring) ∧
    (∀ (p : Fin 8) (q : LogSearch) (pre post : List LogRec) (r : LogRec), Tab.get? s.hw.log.search p = some q →
      s.hw.log.ring = pre ++ r :: post →
      (∀ x ∈ pre, seqNewer (s.hw.fld (LOG_RD_CUR p)) x.seq = true ∨ (q.dom ≠ 0 ∧ x.dom ≠ q.dom)) →
      seqNewer (s.hw.fld (LOG_RD_CUR p)) r.seq = false → q.dom = 0 ∨ r.dom = q.dom →
      Runs (.readerDone p) s (ownEvents [LOG_RD_STAT_BUSY p, LOG_RD_STAT_VALID p, LOG_RD_STAT_VER p, LOG_RD_STAT_GAP p,
          LOG_RD_CUR p, LOG_RD_DATA p 0, LOG_RD_DATA p 1, LOG_RD_DATA p 2, LOG_RD_DATA p 3, LOG_INTCNT_COUNT,
          LOG_INTCNT_SAT] [.log])
        fun h => h.flag (LOG_RD_STAT_VALID p) = true ∧ h.flag (LOG_RD_STAT_BUSY p) = false ∧
          h.fld (LOG_RD_CUR p) = (r.seq + 1) % 2 ^ 32 ∧ h.log.ring = s.hw.log.ring ∧
          ∀ i : Fin 4, h.fld (LOG_RD_DATA p i) = ofBytes ((r.all.drop (8 * i)).take 8)) ∧
    (∀ (p : Fin 8) (q : LogSearch), Tab.get? s.hw.log.search p = some q →
      (∀ x ∈ s.hw.log.ring, seqNewer (s.hw.fld (LOG_RD_CUR p)) x.seq = true ∨ (q.dom ≠ 0 ∧ x.dom ≠ q.dom)) →
      Runs (.readerDone p) s (own [LOG_RD_STAT_BUSY p, LOG_RD_STAT_VALID p] [.log])
        fun h => h.flag (LOG_RD_STAT_VALID p) = false ∧ h.flag (LOG_RD_STAT_BUSY p) = false) ∧
    (∀ a : BitVec 40, s.hw.flag LOG_STAT_CLRBUSY = false →
      Runs (.logClear src a) s (own [LOG_CLRADDR, LOG_STAT_CLRBUSY] [.log])
        fun h => h.flag LOG_STAT_CLRBUSY = true ∧ h.fld LOG_CLRADDR = a.toNat ∧
          h.log = { s.hw.log with clear := some ⟨src.master.val, src.dom.toNat, a.toNat⟩ }) ∧
    (∀ (q : LogClearReq) (blob : List Byte), s.hw.log.clear = some q → s.hw.sys.down = none →
      s.hw.readAs s.mem 4 0 q.addr 208 = .ok blob → s.hw.clearBlobOk blob = true →
      let h0 := s.hw.noteRefused 4 0 q.addr 208 .read
      let h1 := ((h0.setFld LOG_NONCE (h0.freeVal 64)).useFree).setFlag LOG_STAT_CLRBUSY false
      let commits := (({ h1 with log := { h1.log with clear := none } } : Hw).clearAll q (ofBytes ((blob.drop 8).take 2))).2
      (commits = true → s.hw.cipherReady = true → Runs .clearVerdict s (inBlocks [0x3003, 0x3029] [.log, .nvm, .free, .banks])
        fun h => h.flag LOG_STAT_CLRBUSY = false ∧ h.log.clear = none ∧ h.fld LOG_EPOCH = h.fld LOG_SEQ ∧ h.fld LOG_TAIL = 0 ∧
          Signals 186 s.hw h ∧ ∃ r, h.log.ring = [r] ∧ r.code = 0 ∧ r.sev = 5 ∧ r.master = q.master ∧ r.dom = q.dom ∧
            r.seq = h.fld LOG_SEQ) ∧
      (commits = false ∨ s.hw.cipherReady = false → Runs .clearVerdict s (own [] [.banks]) fun h => h.log.clear = some q)) ∧
    (∀ (q : LogClearReq) (blob : List Byte), s.hw.log.clear = some q → s.hw.sys.down = none →
      s.hw.readAs s.mem 4 0 q.addr 208 = .ok blob → s.hw.clearBlobOk blob = false →
      Runs .clearVerdict s (ownEvents [LOG_NONCE, LOG_STAT_CLRBUSY, LOG_STAT_CLRREF] [.log, .free, .banks])
        fun h => h.flag LOG_STAT_CLRREF = true ∧ h.flag LOG_STAT_CLRBUSY = false ∧ h.log.ring = s.hw.log.ring ∧
          h.log.clear = none ∧ Signals 187 s.hw h))


/-- R90, R95: commands to the admission checker. One that finds none in progress is taken with its operands and the address in
FRM.ADM_SRC; another ends at once refused, BUSY, with E20. -/
def Obligations.AdmissionCommands : Prop := ∀ (s : State) (src : Src) (n : Fin 32) (l : Fin 8) (m : Fin 2),
  ∀ x ∈ [(Instr.admitProg src n l, 1, n.val, l.val, 0), (.check src n l, 2, n.val, l.val, 0), (.revoke src n l, 3, n.val, l.val, 0),
      (.retireLnt src l, 4, 0, l.val, 0), (.loopEnable src m, 5, 0, 0, m.val), (.loopDisable src m, 6, 0, 0, m.val),
      (.retireLoop src m, 7, 0, 0, m.val), (.planNm1 src, 8, 0, 0, 0)],
    (s.hw.admBusy = false → Runs x.1 s (own [FRM_ADM_STAT_BUSY] [.adm]) fun h => h.flag FRM_ADM_STAT_BUSY = true ∧
      h.adm = { s.hw.adm with cmd := some ⟨x.2.1, x.2.2.1, x.2.2.2.1, x.2.2.2.2, src.dom.toNat, s.hw.fld FRM_ADM_SRC_ADDR⟩ }) ∧
    (s.hw.admBusy = true →
      Runs x.1 s (ownEvents [FRM_ADM_STAT_DETAIL, FRM_ADM_STAT_VERDICT, FRM_ADM_STAT_REASON] [.free]) fun h =>
        h.fld FRM_ADM_STAT_VERDICT = 2 ∧ h.fld FRM_ADM_STAT_REASON = 19 ∧ Signals 20 s.hw h)

/-- R84, R89-R91, R94-R97, R104, R165, R172: verdicts and retirements. An admitted change waits for a frame start; a refused one
changes nothing and gives its reason; a retirement that finds room begins, for the host or the Keeper, and cancels a pending on-line
change of its destinations; the shadow load makes the next frame the handover frame. -/
def Obligations.VerdictsAndRetirements : Prop := ∀ (s : State) (fate : ReadFate),
  let stat := [FRM_ADM_STAT_BUSY, FRM_ADM_STAT_DETAIL, FRM_ADM_STAT_VERDICT, FRM_ADM_STAT_REASON]
  let admitted (h : Hw) : Prop := h.fld FRM_ADM_STAT_VERDICT = 1 ∧ h.fld FRM_ADM_STAT_REASON = 0 ∧ h.adm.cmd = none ∧ Signals 20 s.hw h
  let refused (r : Reason) (h : Hw) : Prop := h.fld FRM_ADM_STAT_VERDICT = 2 ∧ h.fld FRM_ADM_STAT_REASON = r.code ∧ Signals 20 s.hw h ∧
    h.adm = { s.hw.adm with cmd := none }
  let hit (moves : List (Nat × Placed)) (ch : Change) : Bool := match ch with
    | .place n p _ => (moves.map fun m => m.2.lnt).contains p.lnt && (Tab.get? s.hw.progs n).isSome
    | _ => false
  let begins (byHost : Bool) (l : Nat) (moves : List (Nat × Placed)) (h : Hw) : Prop :=
    h.adm.retire = some ⟨byHost, false, l, moves, [], .loading⟩ ∧ h.adm.changes = s.hw.adm.changes.filter (fun ch => !hit moves ch) ∧ h.flag FRM_ADM_STAT_BUSY = true ∧
      h.lntState l = s.hw.lntState l ∧ h.progs = s.hw.progs
  (∀ c, s.hw.adm.cmd = some c →
    (∀ q, c.op = 3 → Tab.get? s.hw.progsThen c.prog = some q → q.lnt = c.lnt →
      Runs (.admitVerdict fate) s (ownEvents (FRM_ADM_STAT_PENDING :: stat) [.adm, .free]) fun h => admitted h ∧
        h.flag FRM_ADM_STAT_PENDING = true ∧ h.adm.changes = s.hw.adm.changes ++ [.revoke c.prog]) ∧
    (c.op = 3 → Tab.get? s.hw.progsThen c.prog = none →
      Runs (.admitVerdict fate) s (ownEvents stat [.adm, .free]) (refused .format)) ∧
    (∀ p, c.op = 1 → s.hw.imageOf s.mem fate c.src c.prog c.lnt = .ok (p, []) →
      Runs (.admitVerdict fate) s (ownEvents (FRM_ADM_STAT_PENDING :: FRM_ADM_WCET :: stat) [.adm, .free, .banks]) fun h => admitted h ∧
        h.flag FRM_ADM_STAT_PENDING = true ∧
        ∃ base < 2 ^ 15, h.adm.changes = s.hw.adm.changes ++ [.place c.prog ⟨c.lnt, base, p⟩ false]) ∧
    (∀ p, c.op = 2 → s.hw.imageOf s.mem fate c.src c.prog c.lnt = .ok (p, []) →
      Runs (.admitVerdict fate) s (ownEvents (FRM_ADM_WCET :: stat) [.adm, .free, .banks]) fun h => admitted h ∧
        h.adm.changes = s.hw.adm.changes) ∧
    (∀ p fs f, c.op = 1 ∨ c.op = 2 → s.hw.imageOf s.mem fate c.src c.prog c.lnt = .ok (p, fs) →
      s.hw.flag FRM_CTRL_COMMISSION = false → firstFinding fs = some f →
      Runs (.admitVerdict fate) s (ownEvents (FRM_ADM_WCET :: stat) [.adm, .free, .banks]) (refused f.why)) ∧
    (∀ f, c.op = 1 ∨ c.op = 2 → s.hw.imageOf s.mem fate c.src c.prog c.lnt = .error f → f.at_ = none →
      Runs (.admitVerdict fate) s (ownEvents stat [.adm, .free, .banks]) (refused f.why)) ∧
    (∀ moves, c.op = 4 → s.hw.lntState c.lnt ≠ esRetired → s.hw.movesOf c.lnt = .ok moves →
      Runs (.admitVerdict fate) s (ownEvents (FRM_ADM_STAT_PENDING :: stat) [.adm, .free]) fun h => begins true c.lnt moves h ∧
        h.adm.cmd = none ∧ Signals 20 s.hw h ∧ h.fld FRM_ADM_STAT_VERDICT = (if s.hw.adm.changes.any (hit moves) then 3 else 1) ∧
          h.fld FRM_ADM_STAT_REASON = if s.hw.adm.changes.any (hit moves) then 21 else 0)) ∧
  (∀ (k : Src) (l : Fin 8) (m : Fin 2),
    let krq := [FRM_KRQ_REQ, FRM_KRQ_LNT, FRM_KRQ_LOOP, FRM_KRQ_ENG]
    (k.master.val = 4 → s.hw.adm.cmd.isSome = true → Runs (.retirementRequest k false l m) s (own krq []) fun h =>
      h.flag FRM_KRQ_REQ = true ∧ h.fld FRM_KRQ_LNT = l ∧ h.flag FRM_KRQ_LOOP = false ∧ h.fld FRM_KRQ_ENG = m) ∧
    (∀ moves, s.hw.adm.cmd = none → s.hw.adm.retire = none → s.hw.lntState l ≠ esRetired → s.hw.movesOf l = .ok moves →
      (k.master.val = 4 → Runs (.retirementRequest k false l m) s (ownEvents (FRM_ADM_STAT_PENDING :: stat ++ krq) [.adm, .free])
        fun h => begins false l moves h ∧ h.flag FRM_KRQ_REQ = true) ∧
      (s.hw.flag FRM_KRQ_REQ = true → s.hw.flag FRM_KRQ_LOOP = false → s.hw.fld FRM_KRQ_LNT = l →
        Runs .keeperRequestRun s (ownEvents (FRM_ADM_STAT_PENDING :: stat) [.adm, .free]) (begins false l moves)))) ∧
  (∀ r, s.hw.adm.retire = some r → r.stage = .loading →
    Runs .shadowLoadDone s (own [FRM_ESTATE_LNT r.unit, LNT_STAT_STATE r.unit] [.adm]) fun h =>
      h.lntState r.unit = esHandover ∧ h.adm = { s.hw.adm with retire := some { r with stage := .fixed } })

/-- R599-R602, R605-R609, R613, R615-R617, R621, R623: the Keeper's readings, its supply steps and its commands. -/
def Obligations.KeeperCommands : Prop := ∀ (s : State) (src : Src),
  (∀ (d : List (BitVec 32 × BitVec 32)) (mv : BitVec 12) (sup : List (BitVec 32)), s.hw.hourDue = false →
    exec (.hourlyReading d mv sup) s = .next s) ∧
  (∀ (d : List (BitVec 32 × BitVec 32)) (mv : BitVec 12) (sup : List (BitVec 32)), s.hw.hourDue = true →
    Runs (.hourlyReading d mv sup) s (inBlocks [0x3000, 0x3001, 0x3004, 0x3008, 0x3009, 0x300A, 0x300B, 0x300C, 0x300D, 0x300E,
        0x300F, 0x3010, 0x3011, 0x3029, 0x302A, 0x302B] [.keep, .nvm, .log, .free, .adm, .key, .bil]) fun h =>
      (∀ i < 20, let fs := (d.getD i (0#32, 0#32)).1.toNat
        let fr := (d.getD i (0#32, 0#32)).2.toNat
        0 < fr → fs ≤ fr → h.fld (KEEP_ISL_D i) * fr < (fr - fs) * 1000000 + fr ∧ (fr - fs) * 1000000 < (h.fld (KEEP_ISL_D i) + 1) * fr) ∧
        h.fld KEEP_VDD_MV = mv.toNat ∧ h.fld KEEP_CMD_OP = 0 ∧ Signals 8 s.hw h) ∧
  (∀ t : List (BitVec 16), s.hw.elapsed s.hw.keep.tempAt < 1000000000 → exec (.temperatureReading t) s = .next s) ∧
  (∀ t : List (BitVec 16), t.length = 16 → 1000000000 ≤ s.hw.elapsed s.hw.keep.tempAt → Runs (.temperatureReading t) s (inBlocks [0x3001] [.keep, .log, .free]) fun h =>
    (∀ k < 16, h.fld (KEEP_TSENS_TEMP k) = (t.getD k 0#16).toNat) ∧ h.keep.cum.secs = s.hw.keep.cum.secs + 1 ∧
      h.keep.tempAt = s.hw.tfree) ∧
  (∀ (code : Bool) (k : BitVec 10), exec (.marginRead code k false) s = .next s) ∧
  (∀ k : BitVec 10, Runs (.marginRead false k true) s (own [NVM_CCMD_SECTOR, NVM_CCMD_REFRESH] [.nvm]) fun h =>
    h.nvm = { s.hw.nvm with want := s.hw.nvm.want ++ [(k.toNat, 1)] }) ∧
  (∀ target plan (mv : BitVec 12), s.hw.keep.raise = some (target, plan) → s.hw.fld KEEP_VDD_CODE < target → target ≤ 20 →
    mvOf (s.hw.fld KEEP_VDD_CODE) ≤ mv.toNat + 10 → mv.toNat ≤ mvOf (s.hw.fld KEEP_VDD_CODE) + 10 →
    Runs (.vddConfirmed mv) s (inBlocks [0x3001, 0x3029] [.keep, .nvm, .log, .free, .bil]) fun h =>
      h.fld KEEP_VDD_CODE = s.hw.fld KEEP_VDD_CODE + 1 ∧ h.fld KEEP_VDD_MV = mv.toNat ∧ Signals 10 s.hw h ∧
        ∃ e ∈ h.log.arriving, e.code = 0x0A1) ∧
  (∀ r, s.hw.keep.raise = some r → s.hw.elapsed s.hw.keep.raiseAt < 1000000 → exec .supplyConfirmTimeout s = .next s) ∧
  (∀ r, s.hw.keep.raise = some r → 1000000 ≤ s.hw.elapsed s.hw.keep.raiseAt → Runs .supplyConfirmTimeout s (ownEvents [KEEP_STAT_PLANBUSY, KEEP_STAT_SUPFAIL]
      [.keep, .log, .free]) fun h => h.keep = { s.hw.keep with raise := none, planDue := s.hw.keep.planDue || r.2 } ∧
        h.flag KEEP_STAT_SUPFAIL = true ∧ h.flag KEEP_STAT_PLANBUSY = false ∧ Signals 15 s.hw h ∧ Records 0x0A6 none s.hw h) ∧
  (src.dom = 0#8 →
    (s.hw.flag KEEP_STAT_PLANBUSY = true → Runs (.keepPlan src) s (own [KEEP_STAT_CMDREF] []) fun h =>
      h.flag KEEP_STAT_CMDREF = true) ∧
    (s.hw.flag KEEP_STAT_PLANBUSY = false → s.hw.keep.raise.isSome = true →
      Runs (.keepPlan src) s (own [KEEP_STAT_PLANBUSY] [.keep]) fun h => h.flag KEEP_STAT_PLANBUSY = true ∧
        h.keep = { s.hw.keep with planDue := true }) ∧
    Runs (.keepRead src) s (own [KEEP_CMD_OP] []) (fun h => h.fld KEEP_CMD_OP = 2) ∧
    (∀ p i, bestProposal s.hw.keep.props = some p → s.hw.keep.outst = some i → Runs (.keepAccept src) s (own [] [.keep]) fun h =>
      h.keep = { s.hw.keep with
        props := s.hw.keep.props.map fun q => if q = p then { q with accepted := true, refused := false } else q }) ∧
    (∀ i : BitVec 5, (i.toNat, 4) ∈ s.hw.keep.retired →
      Runs (.keepUnretire src i) s (inBlocks [0x3001, 0x3029] [.keep, .nvm, .log, .free, .bil]) fun h =>
        h.fldBit KEEP_HOSTRET i.toNat = false ∧ h.keep = { s.hw.keep with retired := s.hw.keep.retired.erase (i.toNat, 4) }) ∧
    (∀ i : BitVec 5, (i.toNat, 4) ∉ s.hw.keep.retired →
      Runs (.keepUnretire src i) s (own [KEEP_STAT_CMDREF] []) fun h => h.flag KEEP_STAT_CMDREF = true))

/-- R580-R586, R589, R592-R594, R596: messages of the Watch. One that fails its checks is counted and raises E198; an accepted one
from the peer brings its health word, its path and the EPOCH it knows; segments fill the receive buffer in order; grants and
denials move the unit's state; a witness grants, renews, denies and holds queries. -/
def Obligations.WatchMessages : Prop := ∀ (s : State) (path : WPath) (m : WatchMsg),
  let w := s.hw.wch
  let st := s.hw.fld WCH_STAT_STATE
  let wakes := inBlocks [0x3000, 0x3019, 0x302B] [.wch, .mor, .log, .free, .banks]
  let epoch := s.hw.fld WCH_EPOCH
  let unit := m.unit.toNat
  let peer := s.hw.isDuplex = true ∧ s.hw.isPeer m = true
  let known (h : Hw) : Prop := h.fld WCH_EPOCH = m.epoch.toNat
  let wrong (c : Instr) : Prop := Runs c s watchScope fun h => h.wch = w ∧ h.fld WCH_STAT_STATE = st ∧ Signals 198 s.hw h
  let lease (h : Hw) : Prop := h.wch.lease = (w.reqAt + 100000000) % 2 ^ 64 ∧ h.wch.reqOpen = false
  let granted (u at_ : Nat) (h : Hw) : Prop := h.wch.holder = some u ∧ h.wch.expiry = (at_ + 102000000) % 2 ^ 64 ∧
    h.fld WCH_HOLDER = u % 2 ^ 16 ∧ h.flag WCH_HOLDER_HELD = true ∧
    h.fld WCH_WEPOCH = if w.holder = some u then s.hw.fld WCH_WEPOCH else (s.hw.fld WCH_WEPOCH + 1) % 2 ^ 32
  (¬peer → exec (.heartbeat path m) s = .next s ∧ exec (.ckSeg path m) s = .next s ∧ exec (.ckAck path m) s = .next s) ∧
  (∀ c ∈ [(Instr.heartbeat path m, 1), (.ckSeg path m, 2), (.ckAck path m, 3), (.release path m, 0x14)],
    peer → ¬s.hw.passes path c.2 (c.2 == 1) m → wrong c.1) ∧
  (∀ c ∈ [(Instr.leaseGrant m, 0x11), (.leaseDeny m, 0x12), (.wait m, 0x15)], s.hw.isDuplex = true → ¬s.hw.passes .b c.2 true m → wrong c.1) ∧
  (∀ c ∈ [(Instr.leaseReq m, 0x10), (.confirmQ m, 0x13), (.release path m, 0x14)], s.hw.isWitness = true → ¬s.hw.passes .b c.2 true m → wrong c.1) ∧
  (peer → s.hw.passes path 1 true m → Runs (.heartbeat path m) s watchScope fun h =>
    h.flag (pathFld path) = true ∧ (s.hw.flag (pathFld path) = false → Signals 193 s.hw h) ∧ h.fld WCH_PHEALTH = m.health.toNat ∧
      h.wch.seen = Tab.put w.seen unit ⟨m.pcyc.toNat, m.value.toNat % 2 ^ 24, m.seq.toNat⟩ ∧
      (epoch < m.epoch.toNat → st = 4 → MovesTo 5 s.hw h ∧ known h) ∧
      (epoch < m.epoch.toNat → st ≠ 4 → st ≠ 2 → known h) ∧
      ((m.epoch.toNat ≤ epoch ∨ st ≠ 4) → h.fld WCH_STAT_STATE = st) ∧
      ((m.epoch.toNat ≤ epoch ∨ st = 2) → h.fld WCH_EPOCH = epoch)) ∧
  (peer → s.hw.passes path 2 false m → st = 3 →
    (∀ i, m.value ≠ 0#32 → w.inn = some i → (m.value.toNat ≠ i.next ∨ m.ckseq.toNat ≠ i.seq) →
      Runs (.ckSeg path m) s watchScope fun h => h.wch.inn = none ∧ h.wch.ck = w.ck ∧ Signals 196 s.hw h) ∧
    (∀ i, (m.value = 0#32 ∧ w.inn = none ∧ Config.ckTotal (m.payload.take 256) ≤ 2 ^ 21 ∧
          i = ⟨m.ckseq.toNat, s.hw.rxBuf, 0, Config.ckTotal (m.payload.take 256), 0xFFFFFFFF, []⟩) ∨
        (m.value ≠ 0#32 ∧ w.inn = some i ∧ m.value.toNat = i.next ∧ m.ckseq.toNat = i.seq) →
      let data := m.payload.take (i.len - i.next)
      let addr := s.hw.rxAddr i.buf + m.value.toNat
      let crc := data.foldl crcByte i.crc
      let tail := i.tail ++ m.payload.drop data.length
      s.hw.writeAs 22 0 addr data.length = none → Memory.wf s.mem → NoLines s.hw →
      (i.next + m.payload.length < i.len + 4 → RunsMem (.ckSeg path m) s wakes (Bytes addr data.length) fun t =>
        memRead t.mem addr data.length = data ∧ t.hw.wch.ck = w.ck ∧
          t.hw.wch.inn = some { i with next := i.next + m.payload.length, crc := crc, tail := tail }) ∧
      (i.len + 4 ≤ i.next + m.payload.length → tail = toBytes 4 (crc ^^^ 0xFFFFFFFF) →
        s.hw.rangeCheck 22 0 (s.hw.rxAddr i.buf) i.len .read = none →
        RunsMem (.ckSeg path m) s wakes (Bytes addr data.length) fun t => memRead t.mem addr data.length = data ∧
          t.hw.wch.inn = none ∧ t.hw.wch.ck = some ⟨i.buf, i.seq, i.len, s.hw.tfree⟩ ∧ t.hw.fld WCH_CKSEQ = i.seq % 2 ^ 32 ∧
          Signals 195 s.hw t.hw))) ∧
  (peer → s.hw.passes path 3 false m → Runs (.ckAck path m) s watchScope fun h =>
    h.wch.sw = if (w.sw = .waiting ∨ w.sw = .sending) ∧ m.ckseq.toNat = s.hw.fld WCH_CKSEQ then .acked else w.sw) ∧
  (peer → s.hw.passes path 0x14 false m → st = 3 → w.stop = false → w.ck.isSome = true → Runs (.release path m) s watchScope fun h =>
    h.wch.query = .release ∧ h.wch.reqAt = s.hw.tfree ∧ h.wch.reqOpen = true) ∧
  (s.hw.isDuplex = true → s.hw.passes .b 0x11 true m →
    (st = 1 → Runs (.leaseGrant m) s watchScope fun h => MovesTo 2 s.hw h ∧ known h ∧ lease h) ∧
    (st = 2 → atOrAfter s.hw.tfree w.lease = false → Runs (.leaseGrant m) s watchScope fun h =>
      h.fld WCH_STAT_STATE = 2 ∧ known h ∧ lease h) ∧
    (st = 4 → m.epoch.toNat = epoch → Runs (.leaseGrant m) s watchScope fun h => MovesTo 2 s.hw h ∧ lease h) ∧
    (st = 4 → epoch < m.epoch.toNat → Runs (.leaseGrant m) s watchScope fun h => MovesTo 5 s.hw h ∧ known h) ∧
    (st = 3 → w.query ≠ .none → s.hw.fld ACT_VHEAD_NEXT < 16 → Runs (.leaseGrant m) s takeoverScope fun h =>
      MovesTo 2 s.hw h ∧ known h ∧ lease h ∧ h.wch.inn = none ∧ h.wch.took ≠ none ∧
        h.sys.restored = true ∧ h.wch.fresh = true)) ∧
  (s.hw.isDuplex = true → s.hw.passes .b 0x12 true m →
    (st = 1 → Runs (.leaseDeny m) s watchScope fun h => MovesTo 3 s.hw h ∧ known h) ∧
    (st = 4 → Runs (.leaseDeny m) s watchScope fun h => MovesTo 5 s.hw h ∧ known h) ∧
    (st = 3 → Runs (.leaseDeny m) s watchScope fun h => h.fld WCH_STAT_STATE = 3 ∧ known h ∧ h.wch.query = .none)) ∧
  (s.hw.isDuplex = true → s.hw.passes .b 0x15 true m → Runs (.wait m) s watchScope fun h =>
    h.wch = { w with reqOpen := false, seen := h.wch.seen } ∧ h.fld WCH_STAT_STATE = st) ∧
  (s.hw.isWitness = true → s.hw.passes .b 0x10 true m →
    (w.grants = false → Runs (.leaseReq m) s watchScope fun h => h.wch = { w with seen := h.wch.seen } ∧
      h.fld WCH_WEPOCH = max (s.hw.fld WCH_WEPOCH) m.epoch.toNat % 2 ^ 32) ∧
    (w.grants = true → s.hw.witHeld = false ∨ w.holder = some unit ∧ m.epoch.toNat = s.hw.fld WCH_WEPOCH →
      Runs (.leaseReq m) s watchScope (granted unit s.hw.tfree)) ∧
    (w.grants = true → s.hw.witHeld = true → w.holder ≠ some unit ∨ m.epoch.toNat ≠ s.hw.fld WCH_WEPOCH →
      Runs (.leaseReq m) s watchScope fun h => h.wch.holder = w.holder ∧ h.wch.expiry = w.expiry ∧
        h.fld WCH_WEPOCH = s.hw.fld WCH_WEPOCH)) ∧
  (s.hw.isWitness = true → s.hw.passes .b 0x13 true m → w.grants = true →
    (s.hw.witHeld = false → Runs (.confirmQ m) s watchScope (granted unit s.hw.tfree)) ∧
    (s.hw.witHeld = true → Runs (.confirmQ m) s watchScope fun h => h.wch.held = some ⟨unit, m.ip.toNat, m.epoch.toNat, s.hw.tfree⟩ ∧
      h.wch.holder = w.holder ∧ h.wch.expiry = w.expiry)) ∧
  (s.hw.isWitness = true → s.hw.passes .b 0x14 true m → w.holder = some unit → w.held = none →
    Runs (.release path m) s watchScope fun h => h.flag WCH_HOLDER_HELD = false ∧ h.wch.held = none)

/-- R583-R586, R589-R592, R594-R598: timers and commands of the Watch. Heartbeats and requests leave while the unit runs and no
power failure has stopped them; the lease's end isolates the unit; silence starts queries; checkpoints fall due and leave in
segments; a command in a state that does not allow it sets CMDREF and raises E199. -/
def Obligations.WatchTimersAndCommands : Prop := ∀ (s : State) (src : Src) (path : WPath) (pass : BitVec 5),
  let w := s.hw.wch
  let st := s.hw.fld WCH_STAT_STATE
  let duplex := s.hw.isDuplex = true
  let requests := duplex ∧ (st = 1 ∨ st = 4 ∨ st = 2)
  let asked (h : Hw) : Prop := h.wch.reqAt = s.hw.tfree ∧ h.wch.reqOpen = true ∧ h.fld WCH_STAT_STATE = st
  let refused (c : Instr) : Prop := Runs c s (ownEvents [WCH_STAT_CMDREF] []) fun h => h.flag WCH_STAT_CMDREF = true ∧ Signals 199 s.hw h
  let wants (c : Instr) (at_ : Nat) : Prop :=
    (w.out = none → Runs c s (own [] [.wch]) fun h => h.wch = { w with ckDue := true, ckAt := at_ }) ∧
    (w.out ≠ none → Runs c s (ownEvents [WCH_CKSKIPCNT_COUNT, WCH_CKSKIPCNT_SAT] [.wch]) fun h => Signals 196 s.hw h ∧
      h.wch = { w with ckAt := at_ })
  (duplex → w.stop = false → s.hw.waited w.hbAt 5 = true → Runs .heartbeatPeriod s watchScope fun h =>
    let body := watchHeader 1 (s.hw.fld WCH_UNITID_UNIT) (s.hw.fld WCH_EPOCH) w.seq (s.hw.fld FRM_FNUM % 2 ^ 32) s.hw.healthWord
      (s.hw.fld WCH_CKSEQ) w.seqhi 0
    h.wch.link = body ++ toBytes 4 (crc32 body) ∧ h.fld WCH_STAT_STATE = st ∧ h.wch.hbAt = s.hw.tfree) ∧
  (¬duplex ∨ w.stop = true ∨ s.hw.waited w.hbAt 5 = false → exec .heartbeatPeriod s = .next s) ∧
  (duplex → st = 2 → (s.hw.waited w.ckAt (s.hw.fld WCH_CKCFG_PERIOD) = true → wants .checkpointDue s.hw.tfree) ∧
    (src.dom = 0#8 → wants (.cknow src) w.ckAt)) ∧
  (s.hw.waited w.ckAt (s.hw.fld WCH_CKCFG_PERIOD) = false → exec .checkpointDue s = .next s) ∧
  (¬duplex ∨ st ≠ 2 → exec .checkpointDue s = .next s ∧ (src.dom = 0#8 → refused (.cknow src) ∧ refused (.switch src))) ∧
  (w.out = none ∨ s.hw.ckSources = false → exec .ckSegSend s = .next s) ∧
  (∀ o, w.out = some o → s.hw.ckSources = true → s.hw.fld ACT_VHEAD_NEXT < 16 →
    let total := o.gap + o.warm + o.host
    let data := (s.hw.ckRead s.mem o o.off (min 1024 (total - o.off))).2
    let last := total + 4 ≤ o.off + 1024
    Runs .ckSegSend s (inBlocks [0x3019, 0x302B, 0x302E] [.wch, .mor, .log, .free, .bus, .banks]) fun h => h.wch.segAt = s.hw.tfree ∧
      (last → h.wch.out = none ∧ (w.sw = .sending → h.wch.sw = .waiting)) ∧
      (¬last → h.wch.out = some { o with off := o.off + 1024, crc := data.foldl crcByte o.crc } ∧ h.wch.sw = w.sw) ∧
      (s.hw.flag WCH_STAT_PATHA = true → o.off + 1024 < total →
        let body := watchHeader 2 (s.hw.fld WCH_UNITID_UNIT) (s.hw.fld WCH_EPOCH) w.seq (s.hw.fld FRM_FNUM % 2 ^ 32) s.hw.healthWord
          (s.hw.fld WCH_CKSEQ) o.off data.length ++ data
        h.wch.link = body ++ toBytes 4 (crc32 body))) ∧
  (requests → w.stop = false → s.hw.waited w.reqAt 25 = true → Runs .leaseReqPeriod s watchScope asked) ∧
  (¬requests ∨ w.stop = true ∨ s.hw.waited w.reqAt 25 = false → exec .leaseReqPeriod s = .next s) ∧
  (requests → w.reqOpen = true → s.hw.waited w.reqAt 5 = true → Runs .requestUnanswered s (own [] [.wch]) fun h => h.wch = { w with wit := !w.wit, reqOpen := false }) ∧
  (¬requests ∨ w.reqOpen = false ∨ s.hw.waited w.reqAt 5 = false → exec .requestUnanswered s = .next s) ∧
  (duplex → (st = 1 ∨ st = 4) → w.unreach = false → s.hw.waited w.since 1000 = true → Runs .witnessUnreachable s (ownEvents [] [.wch, .log, .free]) fun h =>
    h.wch = { w with unreach := true } ∧ Signals 199 s.hw h ∧ Records 0x096 (some st) s.hw h) ∧
  (s.hw.waited w.since 1000 = false → exec .witnessUnreachable s = .next s) ∧
  (duplex → st = 2 → atOrAfter s.hw.tfree w.lease = true → Runs .leaseEnd s watchScope fun h => MovesTo 4 s.hw h ∧ ∃ r ∈ h.log.arriving, r.code = 0x093) ∧
  (¬duplex ∨ st ≠ 2 ∨ atOrAfter s.hw.tfree w.lease = false → exec .leaseEnd s = .next s) ∧
  (duplex → st = 3 → w.stop = false →
    ((w.ck.isSome = true ∨ s.hw.flag WCH_CTRL_COLDTAKE = true) → (∀ p, s.hw.pathSilent p = true) → w.query = .none → Runs .silence s watchScope fun h => asked h ∧ h.wch.query = .silence) ∧
    (w.query ≠ .none → s.hw.waited w.reqAt 10 = true → Runs .confirmQRepeat s watchScope fun h => asked h ∧ h.wch.query = w.query)) ∧
  (¬duplex ∨ st ≠ 3 ∨ w.stop = true → exec .silence s = .next s ∧ exec .confirmQRepeat s = .next s) ∧
  ((∃ p, s.hw.pathSilent p = false) → exec .silence s = .next s) ∧
  (s.hw.waited w.reqAt 10 = false → exec .confirmQRepeat s = .next s) ∧
  (duplex → s.hw.flag (pathFld path) = true → s.hw.pathSilent path = true → s.hw.pathSilent (otherPath path) = false →
    Runs (.pathSilence path) s (ownEvents [pathFld path, WCH_PATHFCNT_COUNT, WCH_PATHFCNT_SAT] [.log, .free]) fun h =>
      h.flag (pathFld path) = false ∧ Signals 193 s.hw h ∧ Records 0x092 none s.hw h) ∧
  (¬duplex ∨ s.hw.flag (pathFld path) = false ∨ s.hw.pathSilent path = false ∨ s.hw.pathSilent (otherPath path) = true → exec (.pathSilence path) s = .next s) ∧
  (s.hw.isWitness = true → (s.hw.waited w.since 102 = true → Runs .witnessStart s (own [] [.wch]) fun h => h.wch = { w with grants := true }) ∧
    (s.hw.flag WCH_HOLDER_HELD = true → s.hw.witHeld = false →
      (w.held = none → Runs .witnessExpiry s (own [WCH_HOLDER_HELD] []) fun h => h.flag WCH_HOLDER_HELD = false) ∧
      ∀ q, w.held = some q → Runs .witnessExpiry s watchScope fun h => h.wch.held = none ∧ h.wch.holder = some q.unit ∧
        h.wch.expiry = (q.at_ + 102000000) % 2 ^ 64 ∧ h.flag WCH_HOLDER_HELD = true)) ∧
  (s.hw.waited w.since 102 = false → exec .witnessStart s = .next s) ∧ (s.hw.witHeld = true → exec .witnessExpiry s = .next s) ∧
  (s.hw.isWitness = false → exec .witnessStart s = .next s ∧ exec .witnessExpiry s = .next s) ∧
  (src.dom = 0#8 → duplex → st = 2 →
    (s.hw.fldBit WCH_PHEALTH 0 = true ∧ w.sw = .none → Runs (.switch src) s (own [] [.wch]) fun h => h.wch = { w with sw := .capture }) ∧
    (s.hw.fldBit WCH_PHEALTH 0 = false ∨ w.sw ≠ .none → refused (.switch src))) ∧
  (w.sw = .waiting → s.hw.waited w.segAt 100 = true → Runs .switchAckTimeout s (ownEvents [WCH_STAT_CMDREF] [.wch]) fun h => h.wch = { w with sw := .none } ∧
    h.flag WCH_STAT_CMDREF = true ∧ Signals 199 s.hw h) ∧
  (w.sw ≠ .waiting ∨ s.hw.waited w.segAt 100 = false → exec .switchAckTimeout s = .next s) ∧
  (src.dom = 0#8 → duplex → st = 5 → Runs (.join src) s takeoverScope fun h => MovesTo 3 s.hw h ∧
    (∀ p, s.hw.isInput p = true → h.inPoint p = Point.initial (s.hw.initVal p)) ∧
    h.dpe.staged = none ∧ h.dpe.landed = none ∧ h.flag DPE_STAT_WARMOK = false) ∧
  (src.dom = 0#8 → ¬duplex ∨ st ≠ 5 → refused (.join src)) ∧
  (duplex → st = 3 → ∀ fails : List TestFail, Runs (.selfTestCycle pass fails) s (withFault [0x3019, 0x302B] [.mor]) fun h =>
    bits (h.fld WCH_HEALTH) 2 5 = pass.toNat ∧ bits (h.fld WCH_HEALTH) 24 8 = (bits (s.hw.fld WCH_HEALTH) 24 8 + 1) % 256 ∧
      (∀ i, fails.getLast? = some i → bits (h.fld WCH_HEALTH) 16 8 = i.island.val) ∧
      (s.hw.sys.down = none → ∀ f ∈ fails, ∀ c, f.cell = some c → c.toNat ∈ h.mor.quar) ∧
      h.fldBit WCH_HEALTH 0 = (w.ck.isSome && pass.toNat == 31)) ∧
  (¬duplex ∨ st ≠ 3 → ∀ fails, exec (.selfTestCycle pass fails) s = .next s)

/-- R46, R51, R54, R56, R64, R77, R89, R93, R104, R632, R638: the commands of a frame. Pre-wake starts the clocks of the islands not
retired and powers no bank; a frame start with RUN counts FNUM, empties the landings into the snapshot and starts the Lanterns, and
one that comes before the publish of the frame before counts a missed publish; an idle one with nothing admitted changes only
PENDING, the phase against network time and the event bits that the Lanterns read; the publish puts the merged points into OUT
and ends the frame; RUN and COMMISSION follow their conditions. -/
def Obligations.FrameCommands : Prop := ∀ (s : State) (src : Src) (on : Bool) (stall0 stall1 : Option (Fin 8192)),
  let h0 := s.hw
  let ph : Int := (((h0.nt + 500000) % 1000000 : Nat) : Int) - 500000
  let timed := h0.fld TIM_STAT_STATE = 2 ∨ h0.fld TIM_STAT_STATE = 3
  let slews := timed ∧ 50 < ph.natAbs ∧ h0.flag FRM_CTRL_ALIGN = true
  let aligned (h : Hw) : Prop := toSigned 32 (h.fld FRM_PHASE) = ph ∧
    (h.flag FRM_STAT_ALIGNED = true ↔ timed ∧ ph.natAbs ≤ 50) ∧
    (h.flag FRM_STAT_ALIGNED ≠ h0.flag FRM_STAT_ALIGNED → Signals 19 h0 h) ∧ (h.flag FRM_STAT_SLEWING = true ↔ slews) ∧
    (¬slews → h.frame.len = 1000000) ∧ (slews → 0 < ph → h.frame.len = 1000000 - min 500 ph.natAbs) ∧
    (slews → ph < 0 → h.frame.len = 1000000 + min 500 ph.natAbs)
  Runs .preWake s (own [] [.awake]) (fun h => ∀ i, i ∈ h.awake ↔ (i = 18 ∨ 2 ≤ i ∧ i ≤ 11) ∧ i ∉ h0.bus.retired) ∧
  Runs .preWake s (own [] [.awake]) (fun h => (∀ i, i = 18 ∨ 2 ≤ i ∧ i ≤ 11 → (h.clockRuns i = true ↔ i ∉ h0.bus.retired)) ∧
    ∀ b, h.powered b = h0.powered b) ∧
  (h0.sys.down.isSome = true → exec (.frameStart stall0 stall1) s = .next s) ∧
  (h0.sys.down = none → h0.starts = false → h0.adm.changes = [] → h0.img.load = none →
    Runs (.frameStart stall0 stall1) s (ownEvents [FRM_ADM_STAT_PENDING, FRM_PHASE, FRM_STAT_ALIGNED, FRM_STAT_SLEWING]
      [.lnt, .frame]) fun h => h.flag FRM_ADM_STAT_PENDING = false ∧ aligned h ∧
        ∀ l < 8, h.lan l = { h0.lan l with ev := h0.latch l }) ∧
  (h0.sys.down = none → h0.starts = true → ∃ t, exec (.frameStart stall0 stall1) s = .next t ∧ t.pending = s.pending ∧
    t.mem = s.mem ∧ (∀ p ∈ [Part.cores, .l2, .windows, .iotlb, .inv, .ddrTraining, .ddrFit, .clk, .tp, .debug, .pkt, .mor],
      Part.same h0 t.hw p) ∧ t.hw.phase = .started ∧ t.hw.img.land = [] ∧ t.hw.sys.restored = true ∧
    t.hw.frame.missed = (if h0.phase = .idle then h0.frame.missed else h0.frame.missed + 1) ∧ ∀ l < 8, (t.hw.lan l).doing = .waiting) ∧
  (h0.sys.down = none → h0.starts = true → h0.adm.changes = [] → h0.img.load = none → h0.adm.retire = none → h0.img.stWrites = [] →
    h0.sys.restored = true → (∀ n < 1536, h0.fld (RIO_SCFG_NOTIFY n) < 8) → h0.fld ACT_VHEAD_NEXT < 16 →
    Runs (.frameStart stall0 stall1) s (inBlocks ([0x3001, 0x3004, 0x3005, 0x3006, 0x3007, 0x3008, 0x3009, 0x300A, 0x300B, 0x300C, 0x300D,
      0x300E, 0x300F, 0x3010, 0x3011, 0x3012, 0x3015, 0x3016, 0x3018, 0x3029, 0x302E] ++ (List.range 8).map (0x3020 + ·))
      [.img, .lnt, .lpe, .dpe, .can, .bil, .nvm, .log, .free, .phase, .frame, .wch, .bus, .banks]) fun h => aligned h ∧
        h.flag FRM_STAT_RUNNING = true ∧ h.fld FRM_FNUM = (h0.fld FRM_FNUM + 1) % 2 ^ 64 ∧
        h.fld IMG_SNAPSEQ_SEQ = (h0.fld FRM_FNUM + 1) % 2 ^ 64 ∧ Signals 16 h0 h) ∧
  (∀ late failed, h0.phase ≠ .closed → exec (.publish late failed) s = .next s) ∧
  (∀ (late : Option (BitVec 17)) failed, h0.phase = .closed →
    (h0.flag PKT_CTRL_EN = false ∧ ∀ n < 8, h0.fillList n = []) ∨ h0.outputsHeld = true →
    h0.adm.retire = none → h0.wch.took = none → h0.wch.sw = .none → h0.wch.ckDue = false → h0.sys.down = none →
    Runs (.publish late failed) s (inBlocks [0x3000, 0x3004, 0x3005, 0x3018] [.img, .phase, .frame, .awake, .sys, .pkt, .log, .free])
        fun h => h.frame = { h0.frame with missed := 0 } ∧
      h.img = { h0.img with
        out := h0.img.merged.map fun e => (e.1, h0.publishPoint (late.map fun p => p.toNat) e.1 e.2), merged := [], entered := [] } ∧
      h.phase = .idle ∧ h.awake = [] ∧ h.sys = { h0.sys with ran := true } ∧
      h.fld IMG_PUBSEQ_SEQ = h0.fld FRM_FNUM % 2 ^ 64 ∧ h.flag SYS_STAT_BOOTDONE = true ∧
      h.flag FRM_STAT_RUNNING = (h0.flag FRM_STAT_RUNNING && h0.flag FRM_CTRL_RUN) ∧ Signals 17 h0 h ∧
      (late.isSome = true → h.fld FRM_FFCAUSE_CAUSE = 3 ∧ h.flag FRM_STAT_FFAULT = true ∧ Signals 18 h0 h)) ∧
  Runs (.run false) s (own [FRM_CTRL_RUN] []) (fun h => h.flag FRM_CTRL_RUN = false) ∧
  (h0.keyMode = keyRun → Runs (.run true) s (own [FRM_CTRL_RUN] [.sys]) fun h =>
    h.flag FRM_CTRL_RUN = true ∧ h.sys = { h0.sys with runSeen := true }) ∧
  (h0.keyMode ≠ keyRun → Runs (.run true) s (own [SYS_STAT_RUNREF] []) fun h => h.flag SYS_STAT_RUNREF = true) ∧
  Runs (.commission src on) s (own [FRM_CTRL_COMMISSION] []) fun h => h.flag FRM_CTRL_COMMISSION =
    if on then h0.flag FRM_CTRL_COMMISSION || (isD0 src && h0.debug)
    else h0.flag FRM_CTRL_COMMISSION && h0.flag FRM_STAT_UNPROVEN

/-- R56, R552, R628-R630, R644: the resets. A source that resets at once leaves the part as R629 and R630 say, with its cause in SYS.RSTCAUSE;
a frame start that finds two publish times missed in a row is the third; a source that saves first resets 13 ms later or when the
commit has ended; PFI_N high for 100 ms ends POWERDOWN; TAMPER_RESET follows the latch, or comes 30 us after the assertion. -/
def Obligations.Resets : Prop := ∀ (s : State),
  let sy := s.hw.sys
  let restarts (c : Instr) (cause : Nat) : Prop := ∃ t, exec c s = .next t ∧ Restarts cause s t
  (restarts .por 0 ∧ restarts .lossOfSupply 0 ∧ restarts .pinReset 1 ∧ restarts .keeperWatchdog 8) ∧
  (s.hw.phase ≠ .idle → 2 ≤ s.hw.frame.missed → restarts .frameWatchdog 3) ∧
  (s.hw.phase = .idle ∨ s.hw.frame.missed < 2 → exec .frameWatchdog s = .next s) ∧
  (∀ d < 9, sy.down = some d → d ≠ 7 → 13000000 ≤ s.hw.elapsed sy.downAt → restarts .saveTimeout d) ∧
  (sy.down = none ∨ sy.down = some 7 ∨ s.hw.elapsed sy.downAt < 13000000 → exec .saveTimeout s = .next s) ∧
  (sy.down = some 7 → sy.captured = true → sy.pfHigh = true → 100000000 ≤ s.hw.elapsed sy.pfAt → restarts .pfret 7) ∧
  (sy.down ≠ some 7 ∨ sy.captured = false ∨ sy.pfHigh = false ∨ s.hw.elapsed sy.pfAt < 100000000 → exec .pfret s = .next s) ∧
  (sy.tamperAt = none → exec .tamperReset s = .next s) ∧
  (∀ at_, sy.tamperAt = some at_ → s.hw.latched = false → s.hw.elapsed at_ < 30000 → exec .tamperReset s = .next s) ∧
  (∀ at_ r, sy.tamperAt = some at_ → s.hw.nvm.live 0x0002 0 = some r → r.payload ≠ [] → restarts .tamperReset 6) ∧
  (∀ at_, sy.tamperAt = some at_ → 30000 ≤ s.hw.elapsed at_ → ∃ t, exec .tamperReset s = .next t ∧ t.pending = s.pending ∧
    t.mem = [] ∧ t.hw.fld SYS_RSTCAUSE_CAUSE = 6 ∧
      t.hw.sys = { Sys.reset with bootRec := sy.bootRec, pdc := sy.pdc, startAt := s.hw.tfree })

/-- R628, R638, R642-R644, R646, R647, R650: power failure, the sources that save first, and the commit. A source begins the
sequence of R638 where none is under way; PFI_N turns a save into the power-down commit; the first expiry of the system watchdog
warns and the second resets; the commit ends with PDDONE after PFI_N and with the reset after any other source, where all of it has
been written. -/
def Obligations.SavesAndPowerDown : Prop := ∀ (s : State) (src : Src),
  let sy := s.hw.sys
  let due := s.hw.fld SYS_WDCFG_PERIOD * 1000000 ≤ s.hw.elapsed sy.wdAt
  let isolatedLong (i : Fin 20) : Prop := 10000000 ≤ s.hw.elapsed (Tab.getD s.hw.bus.isoAt i.val 0)
  (SaveReady s.hw →
    SaveBegins .powerFail s 7 ∧
    (s.hw.flag SYS_WDCFG_EN = true → sy.warned = true → (due → SaveBegins .systemWatchdogExpiry s 2) ∧
      ∀ k : BitVec 16, src.dom = 0#8 → k ≠ 0xA5C3#16 → SaveBegins (.wdkick src k) s 2) ∧
    (∀ i : Fin 20, i.val = 1 ∨ 12 ≤ i.val → i.val ∈ s.hw.bus.isolated → isolatedLong i → SaveBegins (.portIsolationTimeout i) s 4) ∧
    (∀ cold, src.dom = 0#8 → SaveBegins (.reset src cold) s (if src.master.val = 4 then 4 else 5))) ∧
  (∀ d, sy.down = some d → d ≠ 7 → Runs .powerFail s (own [SYS_STAT_PFI] [.sys]) fun h =>
    h.sys = { sy with down := some 7, pfHigh := false } ∧ h.flag SYS_STAT_PFI = true) ∧
  (∀ i : Fin 20, ¬(i.val = 1 ∨ 12 ≤ i.val) ∨ i.val ∉ s.hw.bus.isolated ∨ ¬isolatedLong i ∨ sy.down.isSome = true →
    exec (.portIsolationTimeout i) s = .next s) ∧
  (s.hw.flag SYS_WDCFG_EN = false ∨ ¬due → exec .systemWatchdogExpiry s = .next s) ∧
  (s.hw.flag SYS_WDCFG_EN = true → sy.warned = false → due →
    Runs .systemWatchdogExpiry s (ownEvents [SYS_WDWARN_COUNT, SYS_WDWARN_SAT] [.sys, .log, .free]) fun h =>
      h.sys = { sy with warned := true, wdAt := s.hw.tfree } ∧ Signals 3 s.hw h ∧ Records 0x0B1 none s.hw h ∧
        (s.hw.flag SYS_WDWARN_SAT = false → s.hw.fld SYS_WDWARN_COUNT < 2 ^ 31 - 2 →
          h.fld SYS_WDWARN_COUNT = s.hw.fld SYS_WDWARN_COUNT + 1)) ∧
  (src.dom = 0#8 → Runs (.wdkick src 0xA5C3#16) s (own [] [.sys]) fun h => h.sys = { sy with warned := false, wdAt := s.hw.tfree }) ∧
  (src.dom = 0#8 → s.hw.flag SYS_WDCFG_EN = false → ∀ p : BitVec 16,
    Runs (.watchdogEn src p) s (own [SYS_WDCFG_PERIOD, SYS_WDCFG_EN] [.sys]) fun h =>
      (p ≠ 0#16 → h.fld SYS_WDCFG_PERIOD = p.toNat) ∧ h.flag SYS_WDCFG_EN = true ∧
        h.sys = { sy with warned := false, wdAt := s.hw.tfree }) ∧
  (src.dom = 0#8 → s.hw.flag SYS_WDCFG_EN = true → ∀ p, exec (.watchdogEn src p) s = .next s) ∧
  Runs .pfiNReturnsHigh s (own [] [.sys]) (fun h => h.sys = if sy.down = some 7 then { sy with pfHigh := true, pfAt := s.hw.tfree } else sy) ∧
  (∀ d, sy.down = some d → sy.captured = true → s.hw.flag SYS_STAT_PDDONE = false → s.hw.cipherReady = true →
      2000000 ≤ s.hw.elapsed sy.downAt →
    let whole := s.hw.saveCommit.flag SYS_STAT_PDDONE
    (d = 7 → Runs .powerDownComplete s (inBlocks [0x3000, 0x3003, 0x3029] [.sys, .nvm, .log, .bil, .free]) fun h =>
      h.flag SYS_STAT_PDDONE = whole ∧ h.sys = (if whole then { sy with pdc := true } else sy) ∧
        ((sy.ran || s.hw.fld SYS_BOOTSTAT_MODE != 1) = true → ∃ v, h.nvm.save = some v ∧
          ∀ w, s.hw.nvm.saving = some w → v.app = w.app)) ∧
    (d ≠ 7 → d < 9 → whole = true → ∃ t, exec .powerDownComplete s = .next t ∧ t.pending = s.pending ∧ t.mem = [] ∧
      t.hw.fld SYS_RSTCAUSE_CAUSE = d ∧ t.hw.flag SYS_RSTCAUSE_SAVED = true ∧
        t.hw.sys = { Sys.reset with bootRec := sy.bootRec, pdc := true, startAt := if d = 0 then 0 else s.hw.tfree }) ∧
    (d ≠ 7 → whole = false → Runs .powerDownComplete s (inBlocks [0x3000, 0x3003, 0x3029] [.nvm, .log, .bil, .free]) fun h =>
      h.flag SYS_STAT_PDDONE = false ∧ h.sys = sy)) ∧
  (sy.down = none ∨ s.hw.elapsed sy.downAt < 2000000 ∨ sy.captured = false ∨ s.hw.flag SYS_STAT_PDDONE = true ∨ s.hw.cipherReady = false →
    exec .powerDownComplete s = .next s)

/-- R625-R627, R631-R637: supplies and the boot. Supplies in range let the islands leave reset and a supply that stays out stops
the start; VDD_KEEP out of its range is a power-on reset, another one a FOGHORN condition; the boot checks the preferred slot, then
the other, and starts the cores from the first that passes. -/
def Obligations.SuppliesAndBoot : Prop := ∀ (s : State) (n : Fin 8) (b : BootIn),
  let sy := s.hw.sys
  let held := sy.boot = .held
  let fog := [SYS_FOGSTAT_COND]
  (held → Runs .suppliesInRange s (own [SYS_SUPSTAT_INRANGE] [.sys]) fun h => h.fld SYS_SUPSTAT_INRANGE = 255 ∧
    h.sys = { sy with boot := .supplied }) ∧
  (¬held → exec .suppliesInRange s = .next s ∧ exec .supplyTimeout s = .next s) ∧
  (s.hw.elapsed sy.startAt < 100000000 → exec .supplyTimeout s = .next s) ∧
  (held → 100000000 ≤ s.hw.elapsed sy.startAt → Runs .supplyTimeout s (ownEvents (SYS_BOOTSTAT_FAIL :: fog) [.sys, .log, .free]) fun h =>
    h.fld SYS_BOOTSTAT_FAIL = 1 ∧ h.fldBit SYS_FOGSTAT_COND 1 = true ∧ h.sys = { sy with boot := .stopped }) ∧
  (n.val = 1 → ∃ t, exec (.supplyOutOfRange n) s = .next t ∧ Restarts 0 s t) ∧
  (n.val ≠ 1 → held → Runs (.supplyOutOfRange n) s (own [SYS_SUPSTAT_INRANGE] []) fun h => h.fldBit SYS_SUPSTAT_INRANGE n = false) ∧
  (held → Runs (.supplyBackInRange n) s (own [SYS_SUPSTAT_INRANGE] []) fun h => h.fldBit SYS_SUPSTAT_INRANGE n = true) ∧
  (n.val ≠ 1 → ¬held → Runs (.supplyOutOfRange n) s (ownEvents (SYS_SUPSTAT_INRANGE :: fog) [.log, .free]) fun h =>
    h.fldBit SYS_SUPSTAT_INRANGE n = false ∧ h.fldBit SYS_FOGSTAT_COND 4 = true ∧ Signals 7 s.hw h) ∧
  (¬held → s.hw.fld SYS_SUPSTAT_INRANGE < 256 →
    Runs (.supplyBackInRange n) s (ownEvents (SYS_SUPSTAT_INRANGE :: fog) [.log, .free]) fun h =>
      h.fldBit SYS_SUPSTAT_INRANGE n = true ∧ (h.fld SYS_SUPSTAT_INRANGE = 255 → h.fldBit SYS_FOGSTAT_COND 4 = false)) ∧
  (sy.boot ≠ .supplied → exec (.boot b) s = .next s) ∧
  (sy.boot = .supplied →
    let root := ((s.hw.mount b.cut).planStage b.planLost).rootStage b
    let tail := if root.cipherReady then root.tailCommit else root
    let m := tail.billResume (if tail.cipherReady then b.savesBad.val else tail.bil.saves.length)
      (tail.flag NVM_STAT_PDCOK && tail.cipherReady)
    let anchored := (List.range 8).any fun i => m.fld (KEY_ANCHOR_HASH i) != 0
    let r := m.sys.bootRec
    let first := if r.trial && r.tries == 3 then !r.pref else r.pref
    let bad (slot : Bool) : Nat := m.slotCheck slot (if slot then b.slotBbad else b.slotAbad)
    let fail (h : Hw) (slot : Bool) : Nat := h.fld (if slot then SYS_BOOTSTAT_FAILB else SYS_BOOTSTAT_FAILA)
    ∃ t, exec (.boot b) s = .next t ∧ t.pending = s.pending ∧ t.mem = s.mem ∧
      (∀ p ∈ [Part.windows, .iotlb, .inv, .tlast, .ddrTraining, .ddrFit, .clk, .tp, .img, .can, .mor, .pkt, .dpe, .wch, .phase, .frame, .l2, .banks],
        Part.same s.hw t.hw p) ∧
      (t.hw.keyMode = keyRecovery → t.hw.fld SYS_BOOTSTAT_MODE = 3) ∧
      (anchored = false → t.hw.sys.boot = .stopped ∧ t.hw.fld SYS_BOOTSTAT_FAIL = 3 ∧ fail t.hw false = 1 ∧ fail t.hw true = 1) ∧
      (anchored = true → bad first ≠ 0 → bad (!first) ≠ 0 → t.hw.sys.boot = .stopped ∧ t.hw.fld SYS_BOOTSTAT_FAIL = 2 ∧
        fail t.hw first = bad first ∧ fail t.hw (!first) = bad (!first)) ∧
      (anchored = true → bad first = 0 ∨ bad (!first) = 0 →
        let slot := if bad first = 0 then first else !first
        t.hw.sys.boot = .up ∧ t.hw.flag SYS_BOOTSTAT_SLOT = slot ∧ t.hw.cores = [] ∧ t.hw.debug = b.dbgen ∧
          fail t.hw first = bad first ∧ Signals 0 m t.hw ∧
          t.hw.sys.entry = some (0x10000000 + (if slot then 0x600000 else 0) + m.slotWord slot 12 4) ∧
          (bad first ≠ 0 → t.hw.flag SYS_BOOTSTAT_FALLBACK = true)))

/-- R350, R559, R634-R636, R648, R668: the commands of SYS and GPIO, from D0. CONFIRM ends a trial and raises the floor with its
image; SWITCH prefers the other slot, on trial, where it passes the checks; COLDNOW makes the restart cold before RUN has been
written; FOGSW is a FOGHORN condition; SET and CLR act on OUT; the machine timer lines follow MTIME and the compare registers. -/
def Obligations.SystemCommands : Prop := ∀ (s : State) (src : Src) (on : Bool) (mask : BitVec 16),
  let sy := s.hw.sys
  let store := inBlocks [0x3000, 0x3029] [.sys, .nvm, .log, .free]
  (src.dom = 0#8 →
    Runs (.confirm src) s store (fun h => h.flag SYS_BOOTSTAT_TRIAL = false ∧
      h.sys = { sy with bootRec := { sy.bootRec with
        trial := false, floor := if sy.raiseFloor then s.hw.fld SYS_BOOTVER_VALUE else sy.bootRec.floor } }) ∧
    (s.hw.slotCheck (!sy.bootRec.pref) on = 0 → Runs (.slotSwitch src on) s store fun h =>
      h.sys = { sy with bootRec := { sy.bootRec with pref := !sy.bootRec.pref, trial := true, tries := 0 } }) ∧
    (s.hw.slotCheck (!sy.bootRec.pref) on ≠ 0 → Runs (.slotSwitch src on) s (own [SYS_STAT_CMDREF] []) fun h =>
      h.flag SYS_STAT_CMDREF = true) ∧
    Runs (.coldnow src) s (own [SYS_BOOTSTAT_MODE] []) (fun h => h.fld SYS_BOOTSTAT_MODE =
      if sy.runSeen = true ∨ s.hw.fld SYS_BOOTSTAT_MODE = 3 then s.hw.fld SYS_BOOTSTAT_MODE else 0) ∧
    Runs (.fogsw src on) s (ownEvents [SYS_FOGSW_SET, SYS_FOGSTAT_COND] [.log, .free]) (fun h =>
      h.flag SYS_FOGSW_SET = on ∧ h.fldBit SYS_FOGSTAT_COND 6 = on ∧ (h.fogLow ≠ s.hw.fogLow → Signals 4 s.hw h)) ∧
    Runs (.set src mask) s (own [GPIO_OUT] []) (fun h =>
      ∀ i < 16, h.fldBit GPIO_OUT i = (s.hw.fldBit GPIO_OUT i || mask.getLsbD i)) ∧
    Runs (.clr src mask) s (own [GPIO_OUT] []) (fun h =>
      ∀ i < 16, h.fldBit GPIO_OUT i = (s.hw.fldBit GPIO_OUT i && !mask.getLsbD i))) ∧
  Runs .machineTimer s (own [] [.cores]) fun h => ∀ k < 4,
    h.core k = { s.hw.core k with mtip := decide (s.hw.fld (SYS_MTIMECMP_CMP k) ≤ s.hw.fld SYS_MTIME) }

/-- A step runs the command at the front of the queue on the state with the rest of the queue; where none waits the counter clock
advances (the model's choice: log entry 46). -/
def Obligations.StepRunsFrontCommand : Prop := ∀ (s : State) (c : Instr) (rest : List Instr),
  step { s with pending := c :: rest } = exec c { s with pending := rest } ∧
    step { s with pending := [] } = .next { s with pending := [], hw := clockEdge s.hw }

/-- Every command goes on, in every state: none faults, none is refused, and none adds to or takes from the queue. -/
def Obligations.CommandsGoOn : Prop := ∀ (s : State) (c : Instr), ∃ t, exec c s = .next t ∧ t.pending = s.pending

/-- General memory keeps its canonical form over every step: addresses strictly rising, no byte listed that reads as an unlisted
one does. -/
def Obligations.MemoryStaysCanonical : Prop := ∀ (s t : State), Memory.wf s.mem → step s = .next t → Memory.wf t.mem

/-- R5, R627: the state after power-on reset. Every register field has the value of its Reset column (0 where that is X: the
model's choice, log entry 3), memory lists nothing and every byte of it reads 0 (the model's choice, log entry 2), no command waits,
no frame is under way, the islands are held in reset. -/
def Obligations.ResetState : Prop :=
  State.reset.pending = [] ∧ Memory.wf State.reset.mem ∧ (∀ a, memGet State.reset.mem a = 0#8) ∧
    (∀ g : Fld, State.reset.hw.fld g = g.rst) ∧ State.reset.hw.sys.boot = .held ∧ State.reset.hw.phase = .idle ∧
    State.reset.hw.starts = false ∧ State.reset.hw.keyMode = 0 ∧ State.reset.hw.fld TIM_STAT_STATE = 0 ∧
    State.reset.hw.log.ring = [] ∧ State.reset.hw.progs = [] ∧ State.reset.hw.bus.isolated = []

/-- R112, R115, R119-R122, R143, R148, R248, R249: the words of Uscia Logic Code and of Balsil code. The word of every well-formed
instruction decodes to that instruction with every operand, and a word that decodes is the word of what it decodes to: no bit is
dropped. -/
def Obligations.CodeRoundTrips : Prop :=
  (∀ (i : Instr) (w : Word) (lit : Option Word), wellFormed i = true → ulcEncode i = some (w, lit) →
    ∃ l, ∀ other, ulcDecode l w (lit.getD other) = some i) ∧
  (∀ (l : Fin 8) (w lit : Word) (i : Instr), ulcDecode l w lit = some i →
    wellFormed i = true ∧ ulcEncode i = some (w, if ulcLong i then some lit else none)) ∧
  (∀ (i : Instr) (w : Word64), balsilEncode i = some w → balsilDecode w = some i) ∧
  (∀ (w : Word64) (i : Instr), balsilDecode w = some i → balsilEncode i = some w)

/-- R131, R133: a TON with PT = 0 sets Q equal to IN in the same execution and a TP with PT = 0 gives no pulse; the CV of CTW
wraps modulo 2 to the power 32 and raises no event (no register of the part changes). -/
def Obligations.ZeroPresetsAndWrap : Prop := ∀ (s : State) (l : Fin 8) (m : Mod) (idx : BitVec 17),
  let x := s.hw.lan l
  let i := x.index m idx
  x.Runs → x.enb = true →
  (x.wa = 0#32 → LanternRuns (.ulcTon l m idx) s l 4 1 fun y => (y.timer i).q = x.ba ∧ y.ba = x.ba) ∧
  (x.wa = 0#32 → (x.timer i).q = false → LanternRuns (.ulcTp l m idx) s l 4 1 fun y => (y.timer i).q = false ∧ y.ba = false) ∧
  (x.ba = true → (x.counter i).inp = false → (x.counter i).cv < 2 ^ 32 → LanternRuns (.ulcCtw l m idx) s l 4 1 fun y =>
    (y.counter i).cv = ((x.counter i).cv + 1) % 2 ^ 32)

/-- R378: every refused transaction increments ACT.VCNT, writes one record into the ring at ACT.VHEAD and raises E208; after the last
place of the ring comes the first, so that in a full ring the newest record overwrites the oldest. Shown of the operation every
refusal goes through, whatever is refused, and of each command that only D0 or only the Keeper may give, from elsewhere. -/
def Obligations.ViolationRecords : Prop :=
  let counted (h h' : Hw) : Prop :=
    (h.flag ACT_VCNT_SAT = false → h.fld ACT_VCNT_COUNT < 2 ^ 31 - 2 → h'.fld ACT_VCNT_COUNT = h.fld ACT_VCNT_COUNT + 1)
  (∀ (h : Hw) (addr target : Nat) (src : Src) (kind : TKind) (cause : Cause), h.fld ACT_VHEAD_NEXT < 16 → target < 16 →
    let h' := h.violation addr src.master.val src.dom.toNat target kind cause
    Agrees (violationScope h) h h' ∧ Violates addr src target kind cause h h' ∧ counted h h') ∧
  ∀ (s : State) (src : Src), s.hw.fld ACT_VHEAD_NEXT < 16 →
    let refused (c : Instr) (addr : Nat) : Prop :=
      Runs c s (violationScope s.hw) fun h =>
        Violates addr src 8 .write .targetRule s.hw h ∧ counted s.hw h
    (src.dom ≠ 0#8 →
      (∀ x ∈ [(Instr.confirm src, 0x30000018), (.coldnow src, 0x30000018), (.savenow src, 0x30150008), (.clear src, 0x30150008),
          (.gapclr src, 0x30150008), (.keepPlan src, 0x30010008), (.keepRead src, 0x30010008), (.keepAccept src, 0x30010008),
          (.callock src, 0x30140000), (.nvmRead src, 0x30290048), (.timLock src, 0x30280008), (.timLocked src, 0x30280008),
          (.timHold src, 0x30280008), (.timRelock src, 0x30280008), (.timFree src, 0x30280008), (.timStep src, 0x30280008),
          (.timKeep src, 0x30280008), (.timCapt src, 0x30280008), (.cknow src, 0x302B0004), (.switch src, 0x302B0004),
          (.join src, 0x302B0004)], refused x.1 x.2) ∧
      (∀ b, refused (.reset src b) 0x30000004 ∧ refused (.slotSwitch src b) 0x30000018 ∧ refused (.fogsw src b) 0x30000038) ∧
      (∀ v, refused (.watchdogEn src v) 0x30000020 ∧ refused (.wdkick src v) 0x30000024 ∧ refused (.set src v) 0x3030000C ∧
        refused (.clr src v) 0x30300010) ∧
      (∀ f h, refused (.snap src f h) 0x30150020) ∧ (∀ p q, refused (.savecfgWrite src p q) 0x3015000C) ∧
      (∀ c w v, refused (.heatCfgWrite src c w v) (0x3015C000 + 0x10 * c.val + 4 * w.val)) ∧
      (∀ n v, refused (.pulseOutCfgWrite src n v) (0x30160400 + 0x20 * n.val)) ∧
      (∀ n d v, refused (.timingWrite src n d v) (0x30200000 + 0x10000 * n.val + if d then 0x10 else 0xC)) ∧
      (∀ n v, refused (.canMode src n v) (0x30200000 + 0x10000 * n.val)) ∧
      (∀ n v, refused (.zownWrite src n v) (0x30051000 + 4 * n.val)) ∧
      (∀ i, refused (.keepUnretire src i) 0x30010008) ∧ (∀ v, refused (.modeWrite src v) 0x302A0000) ∧
      (∀ n, refused (.slotWrite src n) 0x302A6120) ∧ (∀ v, refused (.apply src v) 0x30140008) ∧
      (∀ f v, refused (.feederCfgWrite src f v) (0x30140600 + 0x20 * f.val)) ∧
      (∀ n t e, refused (.nvmWrite src n t e) 0x30290018) ∧ (∀ n, refused (.cntinc src n) 0x30290078) ∧
      (∀ n w v, refused (.pktStationWrite src n w v) (0x30184000 + 0x20 * n.val + 8 * w.val)) ∧
      (∀ v p a b, refused (.xltInv src v p a b) 0x302D0008) ∧
      (∀ n p v, refused (.pinWrite src n p v) (0x302D1000 + 16 * n.val + if p then 8 else 0)) ∧
      (∀ n v, refused (.bindWrite src n v) (0x302D0400 + 4 * n.val)) ∧
      (∀ n v, refused (.channelEn src n v) (0x302C1000 + 0x40 * n.val)) ∧
      (∀ v, refused (.rateWrite src v) 0x30280030) ∧ (∀ v, refused (.slewGo src v) 0x3028003C) ∧
      (∀ n v, refused (.tpArm src n v) (0x30280400 + 0x40 * n.val)) ∧ (∀ n, refused (.tpStop src n) (0x30280400 + 0x40 * n.val))) ∧
    (src.master.val ≠ 4 →
      (∀ b l e, refused (.retirementRequest src b l e) 0x30040034) ∧ (∀ n r, refused (.compactRequest src n r) 0x30290070) ∧
      (∀ n b, refused (.codeRefresh src n b) 0x30290074) ∧ (∀ n, refused (.quarantine src n) 0x30190010) ∧
      ∀ n, refused (.quarantineReturn src n) 0x30190010)
end

