-- ==== Sys2Proof/Laws/State.lean ====
section
/-! SUPPORT. What each named update of the hardware leaves as it was: one lemma for each other field. -/

namespace Sys2Proof.Machine

/-! ## Changes of the hardware alone -/

@[simp] theorem State.onHw_pending (s : State) (f : Hw → Hw) : (s.onHw f).pending = s.pending := rfl
@[simp] theorem State.onHw_mem (s : State) (f : Hw → Hw) : (s.onHw f).mem = s.mem := rfl
@[simp] theorem State.onHw_hw (s : State) (f : Hw → Hw) : (s.onHw f).hw = f s.hw := rfl

/-! ## setFld -/

@[simp] theorem Hw.setFld_free (h : Hw) (f : Fld) (v : Nat) : (h.setFld f v).free = h.free := rfl
@[simp] theorem Hw.setFld_bus (h : Hw) (f : Fld) (v : Nat) : (h.setFld f v).bus = h.bus := rfl
@[simp] theorem Hw.setFld_cores (h : Hw) (f : Fld) (v : Nat) : (h.setFld f v).cores = h.cores := rfl
@[simp] theorem Hw.setFld_l2 (h : Hw) (f : Fld) (v : Nat) : (h.setFld f v).l2 = h.l2 := rfl
@[simp] theorem Hw.setFld_banks (h : Hw) (f : Fld) (v : Nat) : (h.setFld f v).banks = h.banks := rfl
@[simp] theorem Hw.setFld_windows (h : Hw) (f : Fld) (v : Nat) : (h.setFld f v).windows = h.windows := rfl
@[simp] theorem Hw.setFld_iotlb (h : Hw) (f : Fld) (v : Nat) : (h.setFld f v).iotlb = h.iotlb := rfl
@[simp] theorem Hw.setFld_inv (h : Hw) (f : Fld) (v : Nat) : (h.setFld f v).inv = h.inv := rfl
@[simp] theorem Hw.setFld_tch (h : Hw) (f : Fld) (v : Nat) : (h.setFld f v).tch = h.tch := rfl
@[simp] theorem Hw.setFld_tlast (h : Hw) (f : Fld) (v : Nat) : (h.setFld f v).tlast = h.tlast := rfl
@[simp] theorem Hw.setFld_ddrTraining (h : Hw) (f : Fld) (v : Nat) : (h.setFld f v).ddrTraining = h.ddrTraining := rfl
@[simp] theorem Hw.setFld_ddrFit (h : Hw) (f : Fld) (v : Nat) : (h.setFld f v).ddrFit = h.ddrFit := rfl
@[simp] theorem Hw.setFld_clk (h : Hw) (f : Fld) (v : Nat) : (h.setFld f v).clk = h.clk := rfl
@[simp] theorem Hw.setFld_tp (h : Hw) (f : Fld) (v : Nat) : (h.setFld f v).tp = h.tp := rfl
@[simp] theorem Hw.setFld_evtLatch (h : Hw) (f : Fld) (v : Nat) : (h.setFld f v).evtLatch = h.evtLatch := rfl
@[simp] theorem Hw.setFld_evtLoop (h : Hw) (f : Fld) (v : Nat) : (h.setFld f v).evtLoop = h.evtLoop := rfl
@[simp] theorem Hw.setFld_log (h : Hw) (f : Fld) (v : Nat) : (h.setFld f v).log = h.log := rfl
@[simp] theorem Hw.setFld_nvm (h : Hw) (f : Fld) (v : Nat) : (h.setFld f v).nvm = h.nvm := rfl
@[simp] theorem Hw.setFld_key (h : Hw) (f : Fld) (v : Nat) : (h.setFld f v).key = h.key := rfl
@[simp] theorem Hw.setFld_debug (h : Hw) (f : Fld) (v : Nat) : (h.setFld f v).debug = h.debug := rfl
@[simp] theorem Hw.setFld_img (h : Hw) (f : Fld) (v : Nat) : (h.setFld f v).img = h.img := rfl
@[simp] theorem Hw.setFld_lnt (h : Hw) (f : Fld) (v : Nat) : (h.setFld f v).lnt = h.lnt := rfl
@[simp] theorem Hw.setFld_progs (h : Hw) (f : Fld) (v : Nat) : (h.setFld f v).progs = h.progs := rfl
@[simp] theorem Hw.setFld_adm (h : Hw) (f : Fld) (v : Nat) : (h.setFld f v).adm = h.adm := rfl
@[simp] theorem Hw.setFld_lpe (h : Hw) (f : Fld) (v : Nat) : (h.setFld f v).lpe = h.lpe := rfl
@[simp] theorem Hw.setFld_redir (h : Hw) (f : Fld) (v : Nat) : (h.setFld f v).redir = h.redir := rfl
@[simp] theorem Hw.setFld_keep (h : Hw) (f : Fld) (v : Nat) : (h.setFld f v).keep = h.keep := rfl
@[simp] theorem Hw.setFld_mor (h : Hw) (f : Fld) (v : Nat) : (h.setFld f v).mor = h.mor := rfl
@[simp] theorem Hw.setFld_pkt (h : Hw) (f : Fld) (v : Nat) : (h.setFld f v).pkt = h.pkt := rfl
@[simp] theorem Hw.setFld_can (h : Hw) (f : Fld) (v : Nat) : (h.setFld f v).can = h.can := rfl
@[simp] theorem Hw.setFld_dpe (h : Hw) (f : Fld) (v : Nat) : (h.setFld f v).dpe = h.dpe := rfl
@[simp] theorem Hw.setFld_mtr (h : Hw) (f : Fld) (v : Nat) : (h.setFld f v).mtr = h.mtr := rfl
@[simp] theorem Hw.setFld_bil (h : Hw) (f : Fld) (v : Nat) : (h.setFld f v).bil = h.bil := rfl
@[simp] theorem Hw.setFld_wch (h : Hw) (f : Fld) (v : Nat) : (h.setFld f v).wch = h.wch := rfl
@[simp] theorem Hw.setFld_forceSaved (h : Hw) (f : Fld) (v : Nat) : (h.setFld f v).forceSaved = h.forceSaved := rfl
@[simp] theorem Hw.setFld_phase (h : Hw) (f : Fld) (v : Nat) : (h.setFld f v).phase = h.phase := rfl
@[simp] theorem Hw.setFld_frame (h : Hw) (f : Fld) (v : Nat) : (h.setFld f v).frame = h.frame := rfl
@[simp] theorem Hw.setFld_awake (h : Hw) (f : Fld) (v : Nat) : (h.setFld f v).awake = h.awake := rfl
@[simp] theorem Hw.setFld_sys (h : Hw) (f : Fld) (v : Nat) : (h.setFld f v).sys = h.sys := rfl

/-! ## setFlag -/

@[simp] theorem Hw.setFlag_free (h : Hw) (f : Fld) (b : Bool) : (h.setFlag f b).free = h.free := rfl
@[simp] theorem Hw.setFlag_bus (h : Hw) (f : Fld) (b : Bool) : (h.setFlag f b).bus = h.bus := rfl
@[simp] theorem Hw.setFlag_cores (h : Hw) (f : Fld) (b : Bool) : (h.setFlag f b).cores = h.cores := rfl
@[simp] theorem Hw.setFlag_l2 (h : Hw) (f : Fld) (b : Bool) : (h.setFlag f b).l2 = h.l2 := rfl
@[simp] theorem Hw.setFlag_banks (h : Hw) (f : Fld) (b : Bool) : (h.setFlag f b).banks = h.banks := rfl
@[simp] theorem Hw.setFlag_windows (h : Hw) (f : Fld) (b : Bool) : (h.setFlag f b).windows = h.windows := rfl
@[simp] theorem Hw.setFlag_iotlb (h : Hw) (f : Fld) (b : Bool) : (h.setFlag f b).iotlb = h.iotlb := rfl
@[simp] theorem Hw.setFlag_inv (h : Hw) (f : Fld) (b : Bool) : (h.setFlag f b).inv = h.inv := rfl
@[simp] theorem Hw.setFlag_tch (h : Hw) (f : Fld) (b : Bool) : (h.setFlag f b).tch = h.tch := rfl
@[simp] theorem Hw.setFlag_tlast (h : Hw) (f : Fld) (b : Bool) : (h.setFlag f b).tlast = h.tlast := rfl
@[simp] theorem Hw.setFlag_ddrTraining (h : Hw) (f : Fld) (b : Bool) : (h.setFlag f b).ddrTraining = h.ddrTraining := rfl
@[simp] theorem Hw.setFlag_ddrFit (h : Hw) (f : Fld) (b : Bool) : (h.setFlag f b).ddrFit = h.ddrFit := rfl
@[simp] theorem Hw.setFlag_clk (h : Hw) (f : Fld) (b : Bool) : (h.setFlag f b).clk = h.clk := rfl
@[simp] theorem Hw.setFlag_tp (h : Hw) (f : Fld) (b : Bool) : (h.setFlag f b).tp = h.tp := rfl
@[simp] theorem Hw.setFlag_evtLatch (h : Hw) (f : Fld) (b : Bool) : (h.setFlag f b).evtLatch = h.evtLatch := rfl
@[simp] theorem Hw.setFlag_evtLoop (h : Hw) (f : Fld) (b : Bool) : (h.setFlag f b).evtLoop = h.evtLoop := rfl
@[simp] theorem Hw.setFlag_log (h : Hw) (f : Fld) (b : Bool) : (h.setFlag f b).log = h.log := rfl
@[simp] theorem Hw.setFlag_nvm (h : Hw) (f : Fld) (b : Bool) : (h.setFlag f b).nvm = h.nvm := rfl
@[simp] theorem Hw.setFlag_key (h : Hw) (f : Fld) (b : Bool) : (h.setFlag f b).key = h.key := rfl
@[simp] theorem Hw.setFlag_debug (h : Hw) (f : Fld) (b : Bool) : (h.setFlag f b).debug = h.debug := rfl
@[simp] theorem Hw.setFlag_img (h : Hw) (f : Fld) (b : Bool) : (h.setFlag f b).img = h.img := rfl
@[simp] theorem Hw.setFlag_lnt (h : Hw) (f : Fld) (b : Bool) : (h.setFlag f b).lnt = h.lnt := rfl
@[simp] theorem Hw.setFlag_progs (h : Hw) (f : Fld) (b : Bool) : (h.setFlag f b).progs = h.progs := rfl
@[simp] theorem Hw.setFlag_adm (h : Hw) (f : Fld) (b : Bool) : (h.setFlag f b).adm = h.adm := rfl
@[simp] theorem Hw.setFlag_lpe (h : Hw) (f : Fld) (b : Bool) : (h.setFlag f b).lpe = h.lpe := rfl
@[simp] theorem Hw.setFlag_redir (h : Hw) (f : Fld) (b : Bool) : (h.setFlag f b).redir = h.redir := rfl
@[simp] theorem Hw.setFlag_keep (h : Hw) (f : Fld) (b : Bool) : (h.setFlag f b).keep = h.keep := rfl
@[simp] theorem Hw.setFlag_mor (h : Hw) (f : Fld) (b : Bool) : (h.setFlag f b).mor = h.mor := rfl
@[simp] theorem Hw.setFlag_pkt (h : Hw) (f : Fld) (b : Bool) : (h.setFlag f b).pkt = h.pkt := rfl
@[simp] theorem Hw.setFlag_can (h : Hw) (f : Fld) (b : Bool) : (h.setFlag f b).can = h.can := rfl
@[simp] theorem Hw.setFlag_dpe (h : Hw) (f : Fld) (b : Bool) : (h.setFlag f b).dpe = h.dpe := rfl
@[simp] theorem Hw.setFlag_mtr (h : Hw) (f : Fld) (b : Bool) : (h.setFlag f b).mtr = h.mtr := rfl
@[simp] theorem Hw.setFlag_bil (h : Hw) (f : Fld) (b : Bool) : (h.setFlag f b).bil = h.bil := rfl
@[simp] theorem Hw.setFlag_wch (h : Hw) (f : Fld) (b : Bool) : (h.setFlag f b).wch = h.wch := rfl
@[simp] theorem Hw.setFlag_forceSaved (h : Hw) (f : Fld) (b : Bool) : (h.setFlag f b).forceSaved = h.forceSaved := rfl
@[simp] theorem Hw.setFlag_phase (h : Hw) (f : Fld) (b : Bool) : (h.setFlag f b).phase = h.phase := rfl
@[simp] theorem Hw.setFlag_frame (h : Hw) (f : Fld) (b : Bool) : (h.setFlag f b).frame = h.frame := rfl
@[simp] theorem Hw.setFlag_awake (h : Hw) (f : Fld) (b : Bool) : (h.setFlag f b).awake = h.awake := rfl
@[simp] theorem Hw.setFlag_sys (h : Hw) (f : Fld) (b : Bool) : (h.setFlag f b).sys = h.sys := rfl

/-! ## setFldBit -/

@[simp] theorem Hw.setFldBit_free (h : Hw) (f : Fld) (i : Nat) (b : Bool) : (h.setFldBit f i b).free = h.free := rfl
@[simp] theorem Hw.setFldBit_bus (h : Hw) (f : Fld) (i : Nat) (b : Bool) : (h.setFldBit f i b).bus = h.bus := rfl
@[simp] theorem Hw.setFldBit_cores (h : Hw) (f : Fld) (i : Nat) (b : Bool) : (h.setFldBit f i b).cores = h.cores := rfl
@[simp] theorem Hw.setFldBit_l2 (h : Hw) (f : Fld) (i : Nat) (b : Bool) : (h.setFldBit f i b).l2 = h.l2 := rfl
@[simp] theorem Hw.setFldBit_banks (h : Hw) (f : Fld) (i : Nat) (b : Bool) : (h.setFldBit f i b).banks = h.banks := rfl
@[simp] theorem Hw.setFldBit_windows (h : Hw) (f : Fld) (i : Nat) (b : Bool) : (h.setFldBit f i b).windows = h.windows := rfl
@[simp] theorem Hw.setFldBit_iotlb (h : Hw) (f : Fld) (i : Nat) (b : Bool) : (h.setFldBit f i b).iotlb = h.iotlb := rfl
@[simp] theorem Hw.setFldBit_inv (h : Hw) (f : Fld) (i : Nat) (b : Bool) : (h.setFldBit f i b).inv = h.inv := rfl
@[simp] theorem Hw.setFldBit_tch (h : Hw) (f : Fld) (i : Nat) (b : Bool) : (h.setFldBit f i b).tch = h.tch := rfl
@[simp] theorem Hw.setFldBit_tlast (h : Hw) (f : Fld) (i : Nat) (b : Bool) : (h.setFldBit f i b).tlast = h.tlast := rfl
@[simp] theorem Hw.setFldBit_ddrTraining (h : Hw) (f : Fld) (i : Nat) (b : Bool) : (h.setFldBit f i b).ddrTraining = h.ddrTraining := rfl
@[simp] theorem Hw.setFldBit_ddrFit (h : Hw) (f : Fld) (i : Nat) (b : Bool) : (h.setFldBit f i b).ddrFit = h.ddrFit := rfl
@[simp] theorem Hw.setFldBit_clk (h : Hw) (f : Fld) (i : Nat) (b : Bool) : (h.setFldBit f i b).clk = h.clk := rfl
@[simp] theorem Hw.setFldBit_tp (h : Hw) (f : Fld) (i : Nat) (b : Bool) : (h.setFldBit f i b).tp = h.tp := rfl
@[simp] theorem Hw.setFldBit_evtLatch (h : Hw) (f : Fld) (i : Nat) (b : Bool) : (h.setFldBit f i b).evtLatch = h.evtLatch := rfl
@[simp] theorem Hw.setFldBit_evtLoop (h : Hw) (f : Fld) (i : Nat) (b : Bool) : (h.setFldBit f i b).evtLoop = h.evtLoop := rfl
@[simp] theorem Hw.setFldBit_log (h : Hw) (f : Fld) (i : Nat) (b : Bool) : (h.setFldBit f i b).log = h.log := rfl
@[simp] theorem Hw.setFldBit_nvm (h : Hw) (f : Fld) (i : Nat) (b : Bool) : (h.setFldBit f i b).nvm = h.nvm := rfl
@[simp] theorem Hw.setFldBit_key (h : Hw) (f : Fld) (i : Nat) (b : Bool) : (h.setFldBit f i b).key = h.key := rfl
@[simp] theorem Hw.setFldBit_debug (h : Hw) (f : Fld) (i : Nat) (b : Bool) : (h.setFldBit f i b).debug = h.debug := rfl
@[simp] theorem Hw.setFldBit_img (h : Hw) (f : Fld) (i : Nat) (b : Bool) : (h.setFldBit f i b).img = h.img := rfl
@[simp] theorem Hw.setFldBit_lnt (h : Hw) (f : Fld) (i : Nat) (b : Bool) : (h.setFldBit f i b).lnt = h.lnt := rfl
@[simp] theorem Hw.setFldBit_progs (h : Hw) (f : Fld) (i : Nat) (b : Bool) : (h.setFldBit f i b).progs = h.progs := rfl
@[simp] theorem Hw.setFldBit_adm (h : Hw) (f : Fld) (i : Nat) (b : Bool) : (h.setFldBit f i b).adm = h.adm := rfl
@[simp] theorem Hw.setFldBit_lpe (h : Hw) (f : Fld) (i : Nat) (b : Bool) : (h.setFldBit f i b).lpe = h.lpe := rfl
@[simp] theorem Hw.setFldBit_redir (h : Hw) (f : Fld) (i : Nat) (b : Bool) : (h.setFldBit f i b).redir = h.redir := rfl
@[simp] theorem Hw.setFldBit_keep (h : Hw) (f : Fld) (i : Nat) (b : Bool) : (h.setFldBit f i b).keep = h.keep := rfl
@[simp] theorem Hw.setFldBit_mor (h : Hw) (f : Fld) (i : Nat) (b : Bool) : (h.setFldBit f i b).mor = h.mor := rfl
@[simp] theorem Hw.setFldBit_pkt (h : Hw) (f : Fld) (i : Nat) (b : Bool) : (h.setFldBit f i b).pkt = h.pkt := rfl
@[simp] theorem Hw.setFldBit_can (h : Hw) (f : Fld) (i : Nat) (b : Bool) : (h.setFldBit f i b).can = h.can := rfl
@[simp] theorem Hw.setFldBit_dpe (h : Hw) (f : Fld) (i : Nat) (b : Bool) : (h.setFldBit f i b).dpe = h.dpe := rfl
@[simp] theorem Hw.setFldBit_mtr (h : Hw) (f : Fld) (i : Nat) (b : Bool) : (h.setFldBit f i b).mtr = h.mtr := rfl
@[simp] theorem Hw.setFldBit_bil (h : Hw) (f : Fld) (i : Nat) (b : Bool) : (h.setFldBit f i b).bil = h.bil := rfl
@[simp] theorem Hw.setFldBit_wch (h : Hw) (f : Fld) (i : Nat) (b : Bool) : (h.setFldBit f i b).wch = h.wch := rfl
@[simp] theorem Hw.setFldBit_forceSaved (h : Hw) (f : Fld) (i : Nat) (b : Bool) : (h.setFldBit f i b).forceSaved = h.forceSaved := rfl
@[simp] theorem Hw.setFldBit_phase (h : Hw) (f : Fld) (i : Nat) (b : Bool) : (h.setFldBit f i b).phase = h.phase := rfl
@[simp] theorem Hw.setFldBit_frame (h : Hw) (f : Fld) (i : Nat) (b : Bool) : (h.setFldBit f i b).frame = h.frame := rfl
@[simp] theorem Hw.setFldBit_awake (h : Hw) (f : Fld) (i : Nat) (b : Bool) : (h.setFldBit f i b).awake = h.awake := rfl
@[simp] theorem Hw.setFldBit_sys (h : Hw) (f : Fld) (i : Nat) (b : Bool) : (h.setFldBit f i b).sys = h.sys := rfl

/-! ## countW -/

@[simp] theorem Hw.countW_free (h : Hw) (f : Fld) (n : Nat) : (h.countW f n).free = h.free := rfl
@[simp] theorem Hw.countW_bus (h : Hw) (f : Fld) (n : Nat) : (h.countW f n).bus = h.bus := rfl
@[simp] theorem Hw.countW_cores (h : Hw) (f : Fld) (n : Nat) : (h.countW f n).cores = h.cores := rfl
@[simp] theorem Hw.countW_l2 (h : Hw) (f : Fld) (n : Nat) : (h.countW f n).l2 = h.l2 := rfl
@[simp] theorem Hw.countW_banks (h : Hw) (f : Fld) (n : Nat) : (h.countW f n).banks = h.banks := rfl
@[simp] theorem Hw.countW_windows (h : Hw) (f : Fld) (n : Nat) : (h.countW f n).windows = h.windows := rfl
@[simp] theorem Hw.countW_iotlb (h : Hw) (f : Fld) (n : Nat) : (h.countW f n).iotlb = h.iotlb := rfl
@[simp] theorem Hw.countW_inv (h : Hw) (f : Fld) (n : Nat) : (h.countW f n).inv = h.inv := rfl
@[simp] theorem Hw.countW_tch (h : Hw) (f : Fld) (n : Nat) : (h.countW f n).tch = h.tch := rfl
@[simp] theorem Hw.countW_tlast (h : Hw) (f : Fld) (n : Nat) : (h.countW f n).tlast = h.tlast := rfl
@[simp] theorem Hw.countW_ddrTraining (h : Hw) (f : Fld) (n : Nat) : (h.countW f n).ddrTraining = h.ddrTraining := rfl
@[simp] theorem Hw.countW_ddrFit (h : Hw) (f : Fld) (n : Nat) : (h.countW f n).ddrFit = h.ddrFit := rfl
@[simp] theorem Hw.countW_clk (h : Hw) (f : Fld) (n : Nat) : (h.countW f n).clk = h.clk := rfl
@[simp] theorem Hw.countW_tp (h : Hw) (f : Fld) (n : Nat) : (h.countW f n).tp = h.tp := rfl
@[simp] theorem Hw.countW_evtLatch (h : Hw) (f : Fld) (n : Nat) : (h.countW f n).evtLatch = h.evtLatch := rfl
@[simp] theorem Hw.countW_evtLoop (h : Hw) (f : Fld) (n : Nat) : (h.countW f n).evtLoop = h.evtLoop := rfl
@[simp] theorem Hw.countW_log (h : Hw) (f : Fld) (n : Nat) : (h.countW f n).log = h.log := rfl
@[simp] theorem Hw.countW_nvm (h : Hw) (f : Fld) (n : Nat) : (h.countW f n).nvm = h.nvm := rfl
@[simp] theorem Hw.countW_key (h : Hw) (f : Fld) (n : Nat) : (h.countW f n).key = h.key := rfl
@[simp] theorem Hw.countW_debug (h : Hw) (f : Fld) (n : Nat) : (h.countW f n).debug = h.debug := rfl
@[simp] theorem Hw.countW_img (h : Hw) (f : Fld) (n : Nat) : (h.countW f n).img = h.img := rfl
@[simp] theorem Hw.countW_lnt (h : Hw) (f : Fld) (n : Nat) : (h.countW f n).lnt = h.lnt := rfl
@[simp] theorem Hw.countW_progs (h : Hw) (f : Fld) (n : Nat) : (h.countW f n).progs = h.progs := rfl
@[simp] theorem Hw.countW_adm (h : Hw) (f : Fld) (n : Nat) : (h.countW f n).adm = h.adm := rfl
@[simp] theorem Hw.countW_lpe (h : Hw) (f : Fld) (n : Nat) : (h.countW f n).lpe = h.lpe := rfl
@[simp] theorem Hw.countW_redir (h : Hw) (f : Fld) (n : Nat) : (h.countW f n).redir = h.redir := rfl
@[simp] theorem Hw.countW_keep (h : Hw) (f : Fld) (n : Nat) : (h.countW f n).keep = h.keep := rfl
@[simp] theorem Hw.countW_mor (h : Hw) (f : Fld) (n : Nat) : (h.countW f n).mor = h.mor := rfl
@[simp] theorem Hw.countW_pkt (h : Hw) (f : Fld) (n : Nat) : (h.countW f n).pkt = h.pkt := rfl
@[simp] theorem Hw.countW_can (h : Hw) (f : Fld) (n : Nat) : (h.countW f n).can = h.can := rfl
@[simp] theorem Hw.countW_dpe (h : Hw) (f : Fld) (n : Nat) : (h.countW f n).dpe = h.dpe := rfl
@[simp] theorem Hw.countW_mtr (h : Hw) (f : Fld) (n : Nat) : (h.countW f n).mtr = h.mtr := rfl
@[simp] theorem Hw.countW_bil (h : Hw) (f : Fld) (n : Nat) : (h.countW f n).bil = h.bil := rfl
@[simp] theorem Hw.countW_wch (h : Hw) (f : Fld) (n : Nat) : (h.countW f n).wch = h.wch := rfl
@[simp] theorem Hw.countW_forceSaved (h : Hw) (f : Fld) (n : Nat) : (h.countW f n).forceSaved = h.forceSaved := rfl
@[simp] theorem Hw.countW_phase (h : Hw) (f : Fld) (n : Nat) : (h.countW f n).phase = h.phase := rfl
@[simp] theorem Hw.countW_frame (h : Hw) (f : Fld) (n : Nat) : (h.countW f n).frame = h.frame := rfl
@[simp] theorem Hw.countW_awake (h : Hw) (f : Fld) (n : Nat) : (h.countW f n).awake = h.awake := rfl
@[simp] theorem Hw.countW_sys (h : Hw) (f : Fld) (n : Nat) : (h.countW f n).sys = h.sys := rfl

/-! ## useFree -/

@[simp] theorem Hw.useFree_flds (h : Hw) : (h.useFree).flds = h.flds := rfl
@[simp] theorem Hw.useFree_bus (h : Hw) : (h.useFree).bus = h.bus := rfl
@[simp] theorem Hw.useFree_cores (h : Hw) : (h.useFree).cores = h.cores := rfl
@[simp] theorem Hw.useFree_l2 (h : Hw) : (h.useFree).l2 = h.l2 := rfl
@[simp] theorem Hw.useFree_banks (h : Hw) : (h.useFree).banks = h.banks := rfl
@[simp] theorem Hw.useFree_windows (h : Hw) : (h.useFree).windows = h.windows := rfl
@[simp] theorem Hw.useFree_iotlb (h : Hw) : (h.useFree).iotlb = h.iotlb := rfl
@[simp] theorem Hw.useFree_inv (h : Hw) : (h.useFree).inv = h.inv := rfl
@[simp] theorem Hw.useFree_tch (h : Hw) : (h.useFree).tch = h.tch := rfl
@[simp] theorem Hw.useFree_tlast (h : Hw) : (h.useFree).tlast = h.tlast := rfl
@[simp] theorem Hw.useFree_ddrTraining (h : Hw) : (h.useFree).ddrTraining = h.ddrTraining := rfl
@[simp] theorem Hw.useFree_ddrFit (h : Hw) : (h.useFree).ddrFit = h.ddrFit := rfl
@[simp] theorem Hw.useFree_clk (h : Hw) : (h.useFree).clk = h.clk := rfl
@[simp] theorem Hw.useFree_tp (h : Hw) : (h.useFree).tp = h.tp := rfl
@[simp] theorem Hw.useFree_evtLatch (h : Hw) : (h.useFree).evtLatch = h.evtLatch := rfl
@[simp] theorem Hw.useFree_evtLoop (h : Hw) : (h.useFree).evtLoop = h.evtLoop := rfl
@[simp] theorem Hw.useFree_log (h : Hw) : (h.useFree).log = h.log := rfl
@[simp] theorem Hw.useFree_nvm (h : Hw) : (h.useFree).nvm = h.nvm := rfl
@[simp] theorem Hw.useFree_key (h : Hw) : (h.useFree).key = h.key := rfl
@[simp] theorem Hw.useFree_debug (h : Hw) : (h.useFree).debug = h.debug := rfl
@[simp] theorem Hw.useFree_img (h : Hw) : (h.useFree).img = h.img := rfl
@[simp] theorem Hw.useFree_lnt (h : Hw) : (h.useFree).lnt = h.lnt := rfl
@[simp] theorem Hw.useFree_progs (h : Hw) : (h.useFree).progs = h.progs := rfl
@[simp] theorem Hw.useFree_adm (h : Hw) : (h.useFree).adm = h.adm := rfl
@[simp] theorem Hw.useFree_lpe (h : Hw) : (h.useFree).lpe = h.lpe := rfl
@[simp] theorem Hw.useFree_redir (h : Hw) : (h.useFree).redir = h.redir := rfl
@[simp] theorem Hw.useFree_keep (h : Hw) : (h.useFree).keep = h.keep := rfl
@[simp] theorem Hw.useFree_mor (h : Hw) : (h.useFree).mor = h.mor := rfl
@[simp] theorem Hw.useFree_pkt (h : Hw) : (h.useFree).pkt = h.pkt := rfl
@[simp] theorem Hw.useFree_can (h : Hw) : (h.useFree).can = h.can := rfl
@[simp] theorem Hw.useFree_dpe (h : Hw) : (h.useFree).dpe = h.dpe := rfl
@[simp] theorem Hw.useFree_mtr (h : Hw) : (h.useFree).mtr = h.mtr := rfl
@[simp] theorem Hw.useFree_bil (h : Hw) : (h.useFree).bil = h.bil := rfl
@[simp] theorem Hw.useFree_wch (h : Hw) : (h.useFree).wch = h.wch := rfl
@[simp] theorem Hw.useFree_forceSaved (h : Hw) : (h.useFree).forceSaved = h.forceSaved := rfl
@[simp] theorem Hw.useFree_phase (h : Hw) : (h.useFree).phase = h.phase := rfl
@[simp] theorem Hw.useFree_frame (h : Hw) : (h.useFree).frame = h.frame := rfl
@[simp] theorem Hw.useFree_awake (h : Hw) : (h.useFree).awake = h.awake := rfl
@[simp] theorem Hw.useFree_sys (h : Hw) : (h.useFree).sys = h.sys := rfl
@[simp] theorem Hw.useFree_fld (h : Hw) (g : Fld) : (h.useFree).fld g = h.fld g := rfl
@[simp] theorem Hw.useFree_flag (h : Hw) (g : Fld) : (h.useFree).flag g = h.flag g := rfl

/-! ## present -/

@[simp] theorem Hw.present_flds (h : Hw) (code sev master dom param : Nat) : (h.present code sev master dom param).flds = h.flds := rfl
@[simp] theorem Hw.present_free (h : Hw) (code sev master dom param : Nat) : (h.present code sev master dom param).free = h.free := rfl
@[simp] theorem Hw.present_bus (h : Hw) (code sev master dom param : Nat) : (h.present code sev master dom param).bus = h.bus := rfl
@[simp] theorem Hw.present_cores (h : Hw) (code sev master dom param : Nat) : (h.present code sev master dom param).cores = h.cores := rfl
@[simp] theorem Hw.present_l2 (h : Hw) (code sev master dom param : Nat) : (h.present code sev master dom param).l2 = h.l2 := rfl
@[simp] theorem Hw.present_banks (h : Hw) (code sev master dom param : Nat) : (h.present code sev master dom param).banks = h.banks := rfl
@[simp] theorem Hw.present_windows (h : Hw) (code sev master dom param : Nat) : (h.present code sev master dom param).windows = h.windows := rfl
@[simp] theorem Hw.present_iotlb (h : Hw) (code sev master dom param : Nat) : (h.present code sev master dom param).iotlb = h.iotlb := rfl
@[simp] theorem Hw.present_inv (h : Hw) (code sev master dom param : Nat) : (h.present code sev master dom param).inv = h.inv := rfl
@[simp] theorem Hw.present_tch (h : Hw) (code sev master dom param : Nat) : (h.present code sev master dom param).tch = h.tch := rfl
@[simp] theorem Hw.present_tlast (h : Hw) (code sev master dom param : Nat) : (h.present code sev master dom param).tlast = h.tlast := rfl
@[simp] theorem Hw.present_ddrTraining (h : Hw) (code sev master dom param : Nat) : (h.present code sev master dom param).ddrTraining = h.ddrTraining := rfl
@[simp] theorem Hw.present_ddrFit (h : Hw) (code sev master dom param : Nat) : (h.present code sev master dom param).ddrFit = h.ddrFit := rfl
@[simp] theorem Hw.present_clk (h : Hw) (code sev master dom param : Nat) : (h.present code sev master dom param).clk = h.clk := rfl
@[simp] theorem Hw.present_tp (h : Hw) (code sev master dom param : Nat) : (h.present code sev master dom param).tp = h.tp := rfl
@[simp] theorem Hw.present_evtLatch (h : Hw) (code sev master dom param : Nat) : (h.present code sev master dom param).evtLatch = h.evtLatch := rfl
@[simp] theorem Hw.present_evtLoop (h : Hw) (code sev master dom param : Nat) : (h.present code sev master dom param).evtLoop = h.evtLoop := rfl
@[simp] theorem Hw.present_nvm (h : Hw) (code sev master dom param : Nat) : (h.present code sev master dom param).nvm = h.nvm := rfl
@[simp] theorem Hw.present_key (h : Hw) (code sev master dom param : Nat) : (h.present code sev master dom param).key = h.key := rfl
@[simp] theorem Hw.present_debug (h : Hw) (code sev master dom param : Nat) : (h.present code sev master dom param).debug = h.debug := rfl
@[simp] theorem Hw.present_img (h : Hw) (code sev master dom param : Nat) : (h.present code sev master dom param).img = h.img := rfl
@[simp] theorem Hw.present_lnt (h : Hw) (code sev master dom param : Nat) : (h.present code sev master dom param).lnt = h.lnt := rfl
@[simp] theorem Hw.present_progs (h : Hw) (code sev master dom param : Nat) : (h.present code sev master dom param).progs = h.progs := rfl
@[simp] theorem Hw.present_adm (h : Hw) (code sev master dom param : Nat) : (h.present code sev master dom param).adm = h.adm := rfl
@[simp] theorem Hw.present_lpe (h : Hw) (code sev master dom param : Nat) : (h.present code sev master dom param).lpe = h.lpe := rfl
@[simp] theorem Hw.present_redir (h : Hw) (code sev master dom param : Nat) : (h.present code sev master dom param).redir = h.redir := rfl
@[simp] theorem Hw.present_keep (h : Hw) (code sev master dom param : Nat) : (h.present code sev master dom param).keep = h.keep := rfl
@[simp] theorem Hw.present_mor (h : Hw) (code sev master dom param : Nat) : (h.present code sev master dom param).mor = h.mor := rfl
@[simp] theorem Hw.present_pkt (h : Hw) (code sev master dom param : Nat) : (h.present code sev master dom param).pkt = h.pkt := rfl
@[simp] theorem Hw.present_can (h : Hw) (code sev master dom param : Nat) : (h.present code sev master dom param).can = h.can := rfl
@[simp] theorem Hw.present_dpe (h : Hw) (code sev master dom param : Nat) : (h.present code sev master dom param).dpe = h.dpe := rfl
@[simp] theorem Hw.present_mtr (h : Hw) (code sev master dom param : Nat) : (h.present code sev master dom param).mtr = h.mtr := rfl
@[simp] theorem Hw.present_bil (h : Hw) (code sev master dom param : Nat) : (h.present code sev master dom param).bil = h.bil := rfl
@[simp] theorem Hw.present_wch (h : Hw) (code sev master dom param : Nat) : (h.present code sev master dom param).wch = h.wch := rfl
@[simp] theorem Hw.present_forceSaved (h : Hw) (code sev master dom param : Nat) : (h.present code sev master dom param).forceSaved = h.forceSaved := rfl
@[simp] theorem Hw.present_phase (h : Hw) (code sev master dom param : Nat) : (h.present code sev master dom param).phase = h.phase := rfl
@[simp] theorem Hw.present_frame (h : Hw) (code sev master dom param : Nat) : (h.present code sev master dom param).frame = h.frame := rfl
@[simp] theorem Hw.present_awake (h : Hw) (code sev master dom param : Nat) : (h.present code sev master dom param).awake = h.awake := rfl
@[simp] theorem Hw.present_sys (h : Hw) (code sev master dom param : Nat) : (h.present code sev master dom param).sys = h.sys := rfl
@[simp] theorem Hw.present_fld (h : Hw) (code sev master dom param : Nat) (g : Fld) : (h.present code sev master dom param).fld g = h.fld g := rfl
@[simp] theorem Hw.present_flag (h : Hw) (code sev master dom param : Nat) (g : Fld) : (h.present code sev master dom param).flag g = h.flag g := rfl

/-! ## record -/

@[simp] theorem Hw.record_flds (h : Hw) (code master dom param : Nat) : (h.record code master dom param).flds = h.flds := rfl
@[simp] theorem Hw.record_free (h : Hw) (code master dom param : Nat) : (h.record code master dom param).free = h.free := rfl
@[simp] theorem Hw.record_bus (h : Hw) (code master dom param : Nat) : (h.record code master dom param).bus = h.bus := rfl
@[simp] theorem Hw.record_cores (h : Hw) (code master dom param : Nat) : (h.record code master dom param).cores = h.cores := rfl
@[simp] theorem Hw.record_l2 (h : Hw) (code master dom param : Nat) : (h.record code master dom param).l2 = h.l2 := rfl
@[simp] theorem Hw.record_banks (h : Hw) (code master dom param : Nat) : (h.record code master dom param).banks = h.banks := rfl
@[simp] theorem Hw.record_windows (h : Hw) (code master dom param : Nat) : (h.record code master dom param).windows = h.windows := rfl
@[simp] theorem Hw.record_iotlb (h : Hw) (code master dom param : Nat) : (h.record code master dom param).iotlb = h.iotlb := rfl
@[simp] theorem Hw.record_inv (h : Hw) (code master dom param : Nat) : (h.record code master dom param).inv = h.inv := rfl
@[simp] theorem Hw.record_tch (h : Hw) (code master dom param : Nat) : (h.record code master dom param).tch = h.tch := rfl
@[simp] theorem Hw.record_tlast (h : Hw) (code master dom param : Nat) : (h.record code master dom param).tlast = h.tlast := rfl
@[simp] theorem Hw.record_ddrTraining (h : Hw) (code master dom param : Nat) : (h.record code master dom param).ddrTraining = h.ddrTraining := rfl
@[simp] theorem Hw.record_ddrFit (h : Hw) (code master dom param : Nat) : (h.record code master dom param).ddrFit = h.ddrFit := rfl
@[simp] theorem Hw.record_clk (h : Hw) (code master dom param : Nat) : (h.record code master dom param).clk = h.clk := rfl
@[simp] theorem Hw.record_tp (h : Hw) (code master dom param : Nat) : (h.record code master dom param).tp = h.tp := rfl
@[simp] theorem Hw.record_evtLatch (h : Hw) (code master dom param : Nat) : (h.record code master dom param).evtLatch = h.evtLatch := rfl
@[simp] theorem Hw.record_evtLoop (h : Hw) (code master dom param : Nat) : (h.record code master dom param).evtLoop = h.evtLoop := rfl
@[simp] theorem Hw.record_nvm (h : Hw) (code master dom param : Nat) : (h.record code master dom param).nvm = h.nvm := rfl
@[simp] theorem Hw.record_key (h : Hw) (code master dom param : Nat) : (h.record code master dom param).key = h.key := rfl
@[simp] theorem Hw.record_debug (h : Hw) (code master dom param : Nat) : (h.record code master dom param).debug = h.debug := rfl
@[simp] theorem Hw.record_img (h : Hw) (code master dom param : Nat) : (h.record code master dom param).img = h.img := rfl
@[simp] theorem Hw.record_lnt (h : Hw) (code master dom param : Nat) : (h.record code master dom param).lnt = h.lnt := rfl
@[simp] theorem Hw.record_progs (h : Hw) (code master dom param : Nat) : (h.record code master dom param).progs = h.progs := rfl
@[simp] theorem Hw.record_adm (h : Hw) (code master dom param : Nat) : (h.record code master dom param).adm = h.adm := rfl
@[simp] theorem Hw.record_lpe (h : Hw) (code master dom param : Nat) : (h.record code master dom param).lpe = h.lpe := rfl
@[simp] theorem Hw.record_redir (h : Hw) (code master dom param : Nat) : (h.record code master dom param).redir = h.redir := rfl
@[simp] theorem Hw.record_keep (h : Hw) (code master dom param : Nat) : (h.record code master dom param).keep = h.keep := rfl
@[simp] theorem Hw.record_mor (h : Hw) (code master dom param : Nat) : (h.record code master dom param).mor = h.mor := rfl
@[simp] theorem Hw.record_pkt (h : Hw) (code master dom param : Nat) : (h.record code master dom param).pkt = h.pkt := rfl
@[simp] theorem Hw.record_can (h : Hw) (code master dom param : Nat) : (h.record code master dom param).can = h.can := rfl
@[simp] theorem Hw.record_dpe (h : Hw) (code master dom param : Nat) : (h.record code master dom param).dpe = h.dpe := rfl
@[simp] theorem Hw.record_mtr (h : Hw) (code master dom param : Nat) : (h.record code master dom param).mtr = h.mtr := rfl
@[simp] theorem Hw.record_bil (h : Hw) (code master dom param : Nat) : (h.record code master dom param).bil = h.bil := rfl
@[simp] theorem Hw.record_wch (h : Hw) (code master dom param : Nat) : (h.record code master dom param).wch = h.wch := rfl
@[simp] theorem Hw.record_forceSaved (h : Hw) (code master dom param : Nat) : (h.record code master dom param).forceSaved = h.forceSaved := rfl
@[simp] theorem Hw.record_phase (h : Hw) (code master dom param : Nat) : (h.record code master dom param).phase = h.phase := rfl
@[simp] theorem Hw.record_frame (h : Hw) (code master dom param : Nat) : (h.record code master dom param).frame = h.frame := rfl
@[simp] theorem Hw.record_awake (h : Hw) (code master dom param : Nat) : (h.record code master dom param).awake = h.awake := rfl
@[simp] theorem Hw.record_sys (h : Hw) (code master dom param : Nat) : (h.record code master dom param).sys = h.sys := rfl
@[simp] theorem Hw.record_fld (h : Hw) (code master dom param : Nat) (g : Fld) : (h.record code master dom param).fld g = h.fld g := rfl
@[simp] theorem Hw.record_flag (h : Hw) (code master dom param : Nat) (g : Fld) : (h.record code master dom param).flag g = h.flag g := rfl

/-! ## setChan -/

@[simp] theorem Hw.setChan_flds (h : Hw) (n : Nat) (c : TChan) : (h.setChan n c).flds = h.flds := rfl
@[simp] theorem Hw.setChan_free (h : Hw) (n : Nat) (c : TChan) : (h.setChan n c).free = h.free := rfl
@[simp] theorem Hw.setChan_bus (h : Hw) (n : Nat) (c : TChan) : (h.setChan n c).bus = h.bus := rfl
@[simp] theorem Hw.setChan_cores (h : Hw) (n : Nat) (c : TChan) : (h.setChan n c).cores = h.cores := rfl
@[simp] theorem Hw.setChan_l2 (h : Hw) (n : Nat) (c : TChan) : (h.setChan n c).l2 = h.l2 := rfl
@[simp] theorem Hw.setChan_banks (h : Hw) (n : Nat) (c : TChan) : (h.setChan n c).banks = h.banks := rfl
@[simp] theorem Hw.setChan_windows (h : Hw) (n : Nat) (c : TChan) : (h.setChan n c).windows = h.windows := rfl
@[simp] theorem Hw.setChan_iotlb (h : Hw) (n : Nat) (c : TChan) : (h.setChan n c).iotlb = h.iotlb := rfl
@[simp] theorem Hw.setChan_inv (h : Hw) (n : Nat) (c : TChan) : (h.setChan n c).inv = h.inv := rfl
@[simp] theorem Hw.setChan_tlast (h : Hw) (n : Nat) (c : TChan) : (h.setChan n c).tlast = h.tlast := rfl
@[simp] theorem Hw.setChan_ddrTraining (h : Hw) (n : Nat) (c : TChan) : (h.setChan n c).ddrTraining = h.ddrTraining := rfl
@[simp] theorem Hw.setChan_ddrFit (h : Hw) (n : Nat) (c : TChan) : (h.setChan n c).ddrFit = h.ddrFit := rfl
@[simp] theorem Hw.setChan_clk (h : Hw) (n : Nat) (c : TChan) : (h.setChan n c).clk = h.clk := rfl
@[simp] theorem Hw.setChan_tp (h : Hw) (n : Nat) (c : TChan) : (h.setChan n c).tp = h.tp := rfl
@[simp] theorem Hw.setChan_evtLatch (h : Hw) (n : Nat) (c : TChan) : (h.setChan n c).evtLatch = h.evtLatch := rfl
@[simp] theorem Hw.setChan_evtLoop (h : Hw) (n : Nat) (c : TChan) : (h.setChan n c).evtLoop = h.evtLoop := rfl
@[simp] theorem Hw.setChan_log (h : Hw) (n : Nat) (c : TChan) : (h.setChan n c).log = h.log := rfl
@[simp] theorem Hw.setChan_nvm (h : Hw) (n : Nat) (c : TChan) : (h.setChan n c).nvm = h.nvm := rfl
@[simp] theorem Hw.setChan_key (h : Hw) (n : Nat) (c : TChan) : (h.setChan n c).key = h.key := rfl
@[simp] theorem Hw.setChan_debug (h : Hw) (n : Nat) (c : TChan) : (h.setChan n c).debug = h.debug := rfl
@[simp] theorem Hw.setChan_img (h : Hw) (n : Nat) (c : TChan) : (h.setChan n c).img = h.img := rfl
@[simp] theorem Hw.setChan_lnt (h : Hw) (n : Nat) (c : TChan) : (h.setChan n c).lnt = h.lnt := rfl
@[simp] theorem Hw.setChan_progs (h : Hw) (n : Nat) (c : TChan) : (h.setChan n c).progs = h.progs := rfl
@[simp] theorem Hw.setChan_adm (h : Hw) (n : Nat) (c : TChan) : (h.setChan n c).adm = h.adm := rfl
@[simp] theorem Hw.setChan_lpe (h : Hw) (n : Nat) (c : TChan) : (h.setChan n c).lpe = h.lpe := rfl
@[simp] theorem Hw.setChan_redir (h : Hw) (n : Nat) (c : TChan) : (h.setChan n c).redir = h.redir := rfl
@[simp] theorem Hw.setChan_keep (h : Hw) (n : Nat) (c : TChan) : (h.setChan n c).keep = h.keep := rfl
@[simp] theorem Hw.setChan_mor (h : Hw) (n : Nat) (c : TChan) : (h.setChan n c).mor = h.mor := rfl
@[simp] theorem Hw.setChan_pkt (h : Hw) (n : Nat) (c : TChan) : (h.setChan n c).pkt = h.pkt := rfl
@[simp] theorem Hw.setChan_can (h : Hw) (n : Nat) (c : TChan) : (h.setChan n c).can = h.can := rfl
@[simp] theorem Hw.setChan_dpe (h : Hw) (n : Nat) (c : TChan) : (h.setChan n c).dpe = h.dpe := rfl
@[simp] theorem Hw.setChan_mtr (h : Hw) (n : Nat) (c : TChan) : (h.setChan n c).mtr = h.mtr := rfl
@[simp] theorem Hw.setChan_bil (h : Hw) (n : Nat) (c : TChan) : (h.setChan n c).bil = h.bil := rfl
@[simp] theorem Hw.setChan_wch (h : Hw) (n : Nat) (c : TChan) : (h.setChan n c).wch = h.wch := rfl
@[simp] theorem Hw.setChan_forceSaved (h : Hw) (n : Nat) (c : TChan) : (h.setChan n c).forceSaved = h.forceSaved := rfl
@[simp] theorem Hw.setChan_phase (h : Hw) (n : Nat) (c : TChan) : (h.setChan n c).phase = h.phase := rfl
@[simp] theorem Hw.setChan_frame (h : Hw) (n : Nat) (c : TChan) : (h.setChan n c).frame = h.frame := rfl
@[simp] theorem Hw.setChan_awake (h : Hw) (n : Nat) (c : TChan) : (h.setChan n c).awake = h.awake := rfl
@[simp] theorem Hw.setChan_sys (h : Hw) (n : Nat) (c : TChan) : (h.setChan n c).sys = h.sys := rfl
@[simp] theorem Hw.setChan_fld (h : Hw) (n : Nat) (c : TChan) (g : Fld) : (h.setChan n c).fld g = h.fld g := rfl
@[simp] theorem Hw.setChan_flag (h : Hw) (n : Nat) (c : TChan) (g : Fld) : (h.setChan n c).flag g = h.flag g := rfl

/-! ## setLan -/

@[simp] theorem Hw.setLan_flds (h : Hw) (l : Nat) (x : Lantern) : (h.setLan l x).flds = h.flds := rfl
@[simp] theorem Hw.setLan_free (h : Hw) (l : Nat) (x : Lantern) : (h.setLan l x).free = h.free := rfl
@[simp] theorem Hw.setLan_bus (h : Hw) (l : Nat) (x : Lantern) : (h.setLan l x).bus = h.bus := rfl
@[simp] theorem Hw.setLan_cores (h : Hw) (l : Nat) (x : Lantern) : (h.setLan l x).cores = h.cores := rfl
@[simp] theorem Hw.setLan_l2 (h : Hw) (l : Nat) (x : Lantern) : (h.setLan l x).l2 = h.l2 := rfl
@[simp] theorem Hw.setLan_banks (h : Hw) (l : Nat) (x : Lantern) : (h.setLan l x).banks = h.banks := rfl
@[simp] theorem Hw.setLan_windows (h : Hw) (l : Nat) (x : Lantern) : (h.setLan l x).windows = h.windows := rfl
@[simp] theorem Hw.setLan_iotlb (h : Hw) (l : Nat) (x : Lantern) : (h.setLan l x).iotlb = h.iotlb := rfl
@[simp] theorem Hw.setLan_inv (h : Hw) (l : Nat) (x : Lantern) : (h.setLan l x).inv = h.inv := rfl
@[simp] theorem Hw.setLan_tch (h : Hw) (l : Nat) (x : Lantern) : (h.setLan l x).tch = h.tch := rfl
@[simp] theorem Hw.setLan_tlast (h : Hw) (l : Nat) (x : Lantern) : (h.setLan l x).tlast = h.tlast := rfl
@[simp] theorem Hw.setLan_ddrTraining (h : Hw) (l : Nat) (x : Lantern) : (h.setLan l x).ddrTraining = h.ddrTraining := rfl
@[simp] theorem Hw.setLan_ddrFit (h : Hw) (l : Nat) (x : Lantern) : (h.setLan l x).ddrFit = h.ddrFit := rfl
@[simp] theorem Hw.setLan_clk (h : Hw) (l : Nat) (x : Lantern) : (h.setLan l x).clk = h.clk := rfl
@[simp] theorem Hw.setLan_tp (h : Hw) (l : Nat) (x : Lantern) : (h.setLan l x).tp = h.tp := rfl
@[simp] theorem Hw.setLan_evtLatch (h : Hw) (l : Nat) (x : Lantern) : (h.setLan l x).evtLatch = h.evtLatch := rfl
@[simp] theorem Hw.setLan_evtLoop (h : Hw) (l : Nat) (x : Lantern) : (h.setLan l x).evtLoop = h.evtLoop := rfl
@[simp] theorem Hw.setLan_log (h : Hw) (l : Nat) (x : Lantern) : (h.setLan l x).log = h.log := rfl
@[simp] theorem Hw.setLan_nvm (h : Hw) (l : Nat) (x : Lantern) : (h.setLan l x).nvm = h.nvm := rfl
@[simp] theorem Hw.setLan_key (h : Hw) (l : Nat) (x : Lantern) : (h.setLan l x).key = h.key := rfl
@[simp] theorem Hw.setLan_debug (h : Hw) (l : Nat) (x : Lantern) : (h.setLan l x).debug = h.debug := rfl
@[simp] theorem Hw.setLan_img (h : Hw) (l : Nat) (x : Lantern) : (h.setLan l x).img = h.img := rfl
@[simp] theorem Hw.setLan_progs (h : Hw) (l : Nat) (x : Lantern) : (h.setLan l x).progs = h.progs := rfl
@[simp] theorem Hw.setLan_adm (h : Hw) (l : Nat) (x : Lantern) : (h.setLan l x).adm = h.adm := rfl
@[simp] theorem Hw.setLan_lpe (h : Hw) (l : Nat) (x : Lantern) : (h.setLan l x).lpe = h.lpe := rfl
@[simp] theorem Hw.setLan_redir (h : Hw) (l : Nat) (x : Lantern) : (h.setLan l x).redir = h.redir := rfl
@[simp] theorem Hw.setLan_keep (h : Hw) (l : Nat) (x : Lantern) : (h.setLan l x).keep = h.keep := rfl
@[simp] theorem Hw.setLan_mor (h : Hw) (l : Nat) (x : Lantern) : (h.setLan l x).mor = h.mor := rfl
@[simp] theorem Hw.setLan_pkt (h : Hw) (l : Nat) (x : Lantern) : (h.setLan l x).pkt = h.pkt := rfl
@[simp] theorem Hw.setLan_can (h : Hw) (l : Nat) (x : Lantern) : (h.setLan l x).can = h.can := rfl
@[simp] theorem Hw.setLan_dpe (h : Hw) (l : Nat) (x : Lantern) : (h.setLan l x).dpe = h.dpe := rfl
@[simp] theorem Hw.setLan_mtr (h : Hw) (l : Nat) (x : Lantern) : (h.setLan l x).mtr = h.mtr := rfl
@[simp] theorem Hw.setLan_bil (h : Hw) (l : Nat) (x : Lantern) : (h.setLan l x).bil = h.bil := rfl
@[simp] theorem Hw.setLan_wch (h : Hw) (l : Nat) (x : Lantern) : (h.setLan l x).wch = h.wch := rfl
@[simp] theorem Hw.setLan_forceSaved (h : Hw) (l : Nat) (x : Lantern) : (h.setLan l x).forceSaved = h.forceSaved := rfl
@[simp] theorem Hw.setLan_phase (h : Hw) (l : Nat) (x : Lantern) : (h.setLan l x).phase = h.phase := rfl
@[simp] theorem Hw.setLan_frame (h : Hw) (l : Nat) (x : Lantern) : (h.setLan l x).frame = h.frame := rfl
@[simp] theorem Hw.setLan_awake (h : Hw) (l : Nat) (x : Lantern) : (h.setLan l x).awake = h.awake := rfl
@[simp] theorem Hw.setLan_sys (h : Hw) (l : Nat) (x : Lantern) : (h.setLan l x).sys = h.sys := rfl
@[simp] theorem Hw.setLan_fld (h : Hw) (l : Nat) (x : Lantern) (g : Fld) : (h.setLan l x).fld g = h.fld g := rfl
@[simp] theorem Hw.setLan_flag (h : Hw) (l : Nat) (x : Lantern) (g : Fld) : (h.setLan l x).flag g = h.flag g := rfl

/-! ## setEng -/

@[simp] theorem Hw.setEng_flds (h : Hw) (m : Nat) (e : LoopEngine) : (h.setEng m e).flds = h.flds := rfl
@[simp] theorem Hw.setEng_free (h : Hw) (m : Nat) (e : LoopEngine) : (h.setEng m e).free = h.free := rfl
@[simp] theorem Hw.setEng_bus (h : Hw) (m : Nat) (e : LoopEngine) : (h.setEng m e).bus = h.bus := rfl
@[simp] theorem Hw.setEng_cores (h : Hw) (m : Nat) (e : LoopEngine) : (h.setEng m e).cores = h.cores := rfl
@[simp] theorem Hw.setEng_l2 (h : Hw) (m : Nat) (e : LoopEngine) : (h.setEng m e).l2 = h.l2 := rfl
@[simp] theorem Hw.setEng_banks (h : Hw) (m : Nat) (e : LoopEngine) : (h.setEng m e).banks = h.banks := rfl
@[simp] theorem Hw.setEng_windows (h : Hw) (m : Nat) (e : LoopEngine) : (h.setEng m e).windows = h.windows := rfl
@[simp] theorem Hw.setEng_iotlb (h : Hw) (m : Nat) (e : LoopEngine) : (h.setEng m e).iotlb = h.iotlb := rfl
@[simp] theorem Hw.setEng_inv (h : Hw) (m : Nat) (e : LoopEngine) : (h.setEng m e).inv = h.inv := rfl
@[simp] theorem Hw.setEng_tch (h : Hw) (m : Nat) (e : LoopEngine) : (h.setEng m e).tch = h.tch := rfl
@[simp] theorem Hw.setEng_tlast (h : Hw) (m : Nat) (e : LoopEngine) : (h.setEng m e).tlast = h.tlast := rfl
@[simp] theorem Hw.setEng_ddrTraining (h : Hw) (m : Nat) (e : LoopEngine) : (h.setEng m e).ddrTraining = h.ddrTraining := rfl
@[simp] theorem Hw.setEng_ddrFit (h : Hw) (m : Nat) (e : LoopEngine) : (h.setEng m e).ddrFit = h.ddrFit := rfl
@[simp] theorem Hw.setEng_clk (h : Hw) (m : Nat) (e : LoopEngine) : (h.setEng m e).clk = h.clk := rfl
@[simp] theorem Hw.setEng_tp (h : Hw) (m : Nat) (e : LoopEngine) : (h.setEng m e).tp = h.tp := rfl
@[simp] theorem Hw.setEng_evtLatch (h : Hw) (m : Nat) (e : LoopEngine) : (h.setEng m e).evtLatch = h.evtLatch := rfl
@[simp] theorem Hw.setEng_evtLoop (h : Hw) (m : Nat) (e : LoopEngine) : (h.setEng m e).evtLoop = h.evtLoop := rfl
@[simp] theorem Hw.setEng_log (h : Hw) (m : Nat) (e : LoopEngine) : (h.setEng m e).log = h.log := rfl
@[simp] theorem Hw.setEng_nvm (h : Hw) (m : Nat) (e : LoopEngine) : (h.setEng m e).nvm = h.nvm := rfl
@[simp] theorem Hw.setEng_key (h : Hw) (m : Nat) (e : LoopEngine) : (h.setEng m e).key = h.key := rfl
@[simp] theorem Hw.setEng_debug (h : Hw) (m : Nat) (e : LoopEngine) : (h.setEng m e).debug = h.debug := rfl
@[simp] theorem Hw.setEng_img (h : Hw) (m : Nat) (e : LoopEngine) : (h.setEng m e).img = h.img := rfl
@[simp] theorem Hw.setEng_lnt (h : Hw) (m : Nat) (e : LoopEngine) : (h.setEng m e).lnt = h.lnt := rfl
@[simp] theorem Hw.setEng_progs (h : Hw) (m : Nat) (e : LoopEngine) : (h.setEng m e).progs = h.progs := rfl
@[simp] theorem Hw.setEng_adm (h : Hw) (m : Nat) (e : LoopEngine) : (h.setEng m e).adm = h.adm := rfl
@[simp] theorem Hw.setEng_redir (h : Hw) (m : Nat) (e : LoopEngine) : (h.setEng m e).redir = h.redir := rfl
@[simp] theorem Hw.setEng_keep (h : Hw) (m : Nat) (e : LoopEngine) : (h.setEng m e).keep = h.keep := rfl
@[simp] theorem Hw.setEng_mor (h : Hw) (m : Nat) (e : LoopEngine) : (h.setEng m e).mor = h.mor := rfl
@[simp] theorem Hw.setEng_pkt (h : Hw) (m : Nat) (e : LoopEngine) : (h.setEng m e).pkt = h.pkt := rfl
@[simp] theorem Hw.setEng_can (h : Hw) (m : Nat) (e : LoopEngine) : (h.setEng m e).can = h.can := rfl
@[simp] theorem Hw.setEng_dpe (h : Hw) (m : Nat) (e : LoopEngine) : (h.setEng m e).dpe = h.dpe := rfl
@[simp] theorem Hw.setEng_mtr (h : Hw) (m : Nat) (e : LoopEngine) : (h.setEng m e).mtr = h.mtr := rfl
@[simp] theorem Hw.setEng_bil (h : Hw) (m : Nat) (e : LoopEngine) : (h.setEng m e).bil = h.bil := rfl
@[simp] theorem Hw.setEng_wch (h : Hw) (m : Nat) (e : LoopEngine) : (h.setEng m e).wch = h.wch := rfl
@[simp] theorem Hw.setEng_forceSaved (h : Hw) (m : Nat) (e : LoopEngine) : (h.setEng m e).forceSaved = h.forceSaved := rfl
@[simp] theorem Hw.setEng_phase (h : Hw) (m : Nat) (e : LoopEngine) : (h.setEng m e).phase = h.phase := rfl
@[simp] theorem Hw.setEng_frame (h : Hw) (m : Nat) (e : LoopEngine) : (h.setEng m e).frame = h.frame := rfl
@[simp] theorem Hw.setEng_awake (h : Hw) (m : Nat) (e : LoopEngine) : (h.setEng m e).awake = h.awake := rfl
@[simp] theorem Hw.setEng_sys (h : Hw) (m : Nat) (e : LoopEngine) : (h.setEng m e).sys = h.sys := rfl
@[simp] theorem Hw.setEng_fld (h : Hw) (m : Nat) (e : LoopEngine) (g : Fld) : (h.setEng m e).fld g = h.fld g := rfl
@[simp] theorem Hw.setEng_flag (h : Hw) (m : Nat) (e : LoopEngine) (g : Fld) : (h.setEng m e).flag g = h.flag g := rfl

/-! ## setCore -/

@[simp] theorem Hw.setCore_flds (h : Hw) (k : Nat) (c : Core) : (h.setCore k c).flds = h.flds := rfl
@[simp] theorem Hw.setCore_free (h : Hw) (k : Nat) (c : Core) : (h.setCore k c).free = h.free := rfl
@[simp] theorem Hw.setCore_bus (h : Hw) (k : Nat) (c : Core) : (h.setCore k c).bus = h.bus := rfl
@[simp] theorem Hw.setCore_l2 (h : Hw) (k : Nat) (c : Core) : (h.setCore k c).l2 = h.l2 := rfl
@[simp] theorem Hw.setCore_banks (h : Hw) (k : Nat) (c : Core) : (h.setCore k c).banks = h.banks := rfl
@[simp] theorem Hw.setCore_windows (h : Hw) (k : Nat) (c : Core) : (h.setCore k c).windows = h.windows := rfl
@[simp] theorem Hw.setCore_iotlb (h : Hw) (k : Nat) (c : Core) : (h.setCore k c).iotlb = h.iotlb := rfl
@[simp] theorem Hw.setCore_inv (h : Hw) (k : Nat) (c : Core) : (h.setCore k c).inv = h.inv := rfl
@[simp] theorem Hw.setCore_tch (h : Hw) (k : Nat) (c : Core) : (h.setCore k c).tch = h.tch := rfl
@[simp] theorem Hw.setCore_tlast (h : Hw) (k : Nat) (c : Core) : (h.setCore k c).tlast = h.tlast := rfl
@[simp] theorem Hw.setCore_ddrTraining (h : Hw) (k : Nat) (c : Core) : (h.setCore k c).ddrTraining = h.ddrTraining := rfl
@[simp] theorem Hw.setCore_ddrFit (h : Hw) (k : Nat) (c : Core) : (h.setCore k c).ddrFit = h.ddrFit := rfl
@[simp] theorem Hw.setCore_clk (h : Hw) (k : Nat) (c : Core) : (h.setCore k c).clk = h.clk := rfl
@[simp] theorem Hw.setCore_tp (h : Hw) (k : Nat) (c : Core) : (h.setCore k c).tp = h.tp := rfl
@[simp] theorem Hw.setCore_evtLatch (h : Hw) (k : Nat) (c : Core) : (h.setCore k c).evtLatch = h.evtLatch := rfl
@[simp] theorem Hw.setCore_evtLoop (h : Hw) (k : Nat) (c : Core) : (h.setCore k c).evtLoop = h.evtLoop := rfl
@[simp] theorem Hw.setCore_log (h : Hw) (k : Nat) (c : Core) : (h.setCore k c).log = h.log := rfl
@[simp] theorem Hw.setCore_nvm (h : Hw) (k : Nat) (c : Core) : (h.setCore k c).nvm = h.nvm := rfl
@[simp] theorem Hw.setCore_key (h : Hw) (k : Nat) (c : Core) : (h.setCore k c).key = h.key := rfl
@[simp] theorem Hw.setCore_debug (h : Hw) (k : Nat) (c : Core) : (h.setCore k c).debug = h.debug := rfl
@[simp] theorem Hw.setCore_img (h : Hw) (k : Nat) (c : Core) : (h.setCore k c).img = h.img := rfl
@[simp] theorem Hw.setCore_lnt (h : Hw) (k : Nat) (c : Core) : (h.setCore k c).lnt = h.lnt := rfl
@[simp] theorem Hw.setCore_progs (h : Hw) (k : Nat) (c : Core) : (h.setCore k c).progs = h.progs := rfl
@[simp] theorem Hw.setCore_adm (h : Hw) (k : Nat) (c : Core) : (h.setCore k c).adm = h.adm := rfl
@[simp] theorem Hw.setCore_lpe (h : Hw) (k : Nat) (c : Core) : (h.setCore k c).lpe = h.lpe := rfl
@[simp] theorem Hw.setCore_redir (h : Hw) (k : Nat) (c : Core) : (h.setCore k c).redir = h.redir := rfl
@[simp] theorem Hw.setCore_keep (h : Hw) (k : Nat) (c : Core) : (h.setCore k c).keep = h.keep := rfl
@[simp] theorem Hw.setCore_mor (h : Hw) (k : Nat) (c : Core) : (h.setCore k c).mor = h.mor := rfl
@[simp] theorem Hw.setCore_pkt (h : Hw) (k : Nat) (c : Core) : (h.setCore k c).pkt = h.pkt := rfl
@[simp] theorem Hw.setCore_can (h : Hw) (k : Nat) (c : Core) : (h.setCore k c).can = h.can := rfl
@[simp] theorem Hw.setCore_dpe (h : Hw) (k : Nat) (c : Core) : (h.setCore k c).dpe = h.dpe := rfl
@[simp] theorem Hw.setCore_mtr (h : Hw) (k : Nat) (c : Core) : (h.setCore k c).mtr = h.mtr := rfl
@[simp] theorem Hw.setCore_bil (h : Hw) (k : Nat) (c : Core) : (h.setCore k c).bil = h.bil := rfl
@[simp] theorem Hw.setCore_wch (h : Hw) (k : Nat) (c : Core) : (h.setCore k c).wch = h.wch := rfl
@[simp] theorem Hw.setCore_forceSaved (h : Hw) (k : Nat) (c : Core) : (h.setCore k c).forceSaved = h.forceSaved := rfl
@[simp] theorem Hw.setCore_phase (h : Hw) (k : Nat) (c : Core) : (h.setCore k c).phase = h.phase := rfl
@[simp] theorem Hw.setCore_frame (h : Hw) (k : Nat) (c : Core) : (h.setCore k c).frame = h.frame := rfl
@[simp] theorem Hw.setCore_awake (h : Hw) (k : Nat) (c : Core) : (h.setCore k c).awake = h.awake := rfl
@[simp] theorem Hw.setCore_sys (h : Hw) (k : Nat) (c : Core) : (h.setCore k c).sys = h.sys := rfl
@[simp] theorem Hw.setCore_fld (h : Hw) (k : Nat) (c : Core) (g : Fld) : (h.setCore k c).fld g = h.fld g := rfl
@[simp] theorem Hw.setCore_flag (h : Hw) (k : Nat) (c : Core) (g : Fld) : (h.setCore k c).flag g = h.flag g := rfl

/-! ## setLchar -/

@[simp] theorem Hw.setLchar_flds (h : Hw) (n : Nat) (c : LightChar) : (h.setLchar n c).flds = h.flds := rfl
@[simp] theorem Hw.setLchar_free (h : Hw) (n : Nat) (c : LightChar) : (h.setLchar n c).free = h.free := rfl
@[simp] theorem Hw.setLchar_bus (h : Hw) (n : Nat) (c : LightChar) : (h.setLchar n c).bus = h.bus := rfl
@[simp] theorem Hw.setLchar_cores (h : Hw) (n : Nat) (c : LightChar) : (h.setLchar n c).cores = h.cores := rfl
@[simp] theorem Hw.setLchar_l2 (h : Hw) (n : Nat) (c : LightChar) : (h.setLchar n c).l2 = h.l2 := rfl
@[simp] theorem Hw.setLchar_banks (h : Hw) (n : Nat) (c : LightChar) : (h.setLchar n c).banks = h.banks := rfl
@[simp] theorem Hw.setLchar_windows (h : Hw) (n : Nat) (c : LightChar) : (h.setLchar n c).windows = h.windows := rfl
@[simp] theorem Hw.setLchar_iotlb (h : Hw) (n : Nat) (c : LightChar) : (h.setLchar n c).iotlb = h.iotlb := rfl
@[simp] theorem Hw.setLchar_inv (h : Hw) (n : Nat) (c : LightChar) : (h.setLchar n c).inv = h.inv := rfl
@[simp] theorem Hw.setLchar_tch (h : Hw) (n : Nat) (c : LightChar) : (h.setLchar n c).tch = h.tch := rfl
@[simp] theorem Hw.setLchar_tlast (h : Hw) (n : Nat) (c : LightChar) : (h.setLchar n c).tlast = h.tlast := rfl
@[simp] theorem Hw.setLchar_ddrTraining (h : Hw) (n : Nat) (c : LightChar) : (h.setLchar n c).ddrTraining = h.ddrTraining := rfl
@[simp] theorem Hw.setLchar_ddrFit (h : Hw) (n : Nat) (c : LightChar) : (h.setLchar n c).ddrFit = h.ddrFit := rfl
@[simp] theorem Hw.setLchar_clk (h : Hw) (n : Nat) (c : LightChar) : (h.setLchar n c).clk = h.clk := rfl
@[simp] theorem Hw.setLchar_evtLatch (h : Hw) (n : Nat) (c : LightChar) : (h.setLchar n c).evtLatch = h.evtLatch := rfl
@[simp] theorem Hw.setLchar_evtLoop (h : Hw) (n : Nat) (c : LightChar) : (h.setLchar n c).evtLoop = h.evtLoop := rfl
@[simp] theorem Hw.setLchar_log (h : Hw) (n : Nat) (c : LightChar) : (h.setLchar n c).log = h.log := rfl
@[simp] theorem Hw.setLchar_nvm (h : Hw) (n : Nat) (c : LightChar) : (h.setLchar n c).nvm = h.nvm := rfl
@[simp] theorem Hw.setLchar_key (h : Hw) (n : Nat) (c : LightChar) : (h.setLchar n c).key = h.key := rfl
@[simp] theorem Hw.setLchar_debug (h : Hw) (n : Nat) (c : LightChar) : (h.setLchar n c).debug = h.debug := rfl
@[simp] theorem Hw.setLchar_img (h : Hw) (n : Nat) (c : LightChar) : (h.setLchar n c).img = h.img := rfl
@[simp] theorem Hw.setLchar_lnt (h : Hw) (n : Nat) (c : LightChar) : (h.setLchar n c).lnt = h.lnt := rfl
@[simp] theorem Hw.setLchar_progs (h : Hw) (n : Nat) (c : LightChar) : (h.setLchar n c).progs = h.progs := rfl
@[simp] theorem Hw.setLchar_adm (h : Hw) (n : Nat) (c : LightChar) : (h.setLchar n c).adm = h.adm := rfl
@[simp] theorem Hw.setLchar_lpe (h : Hw) (n : Nat) (c : LightChar) : (h.setLchar n c).lpe = h.lpe := rfl
@[simp] theorem Hw.setLchar_redir (h : Hw) (n : Nat) (c : LightChar) : (h.setLchar n c).redir = h.redir := rfl
@[simp] theorem Hw.setLchar_keep (h : Hw) (n : Nat) (c : LightChar) : (h.setLchar n c).keep = h.keep := rfl
@[simp] theorem Hw.setLchar_mor (h : Hw) (n : Nat) (c : LightChar) : (h.setLchar n c).mor = h.mor := rfl
@[simp] theorem Hw.setLchar_pkt (h : Hw) (n : Nat) (c : LightChar) : (h.setLchar n c).pkt = h.pkt := rfl
@[simp] theorem Hw.setLchar_can (h : Hw) (n : Nat) (c : LightChar) : (h.setLchar n c).can = h.can := rfl
@[simp] theorem Hw.setLchar_dpe (h : Hw) (n : Nat) (c : LightChar) : (h.setLchar n c).dpe = h.dpe := rfl
@[simp] theorem Hw.setLchar_mtr (h : Hw) (n : Nat) (c : LightChar) : (h.setLchar n c).mtr = h.mtr := rfl
@[simp] theorem Hw.setLchar_bil (h : Hw) (n : Nat) (c : LightChar) : (h.setLchar n c).bil = h.bil := rfl
@[simp] theorem Hw.setLchar_wch (h : Hw) (n : Nat) (c : LightChar) : (h.setLchar n c).wch = h.wch := rfl
@[simp] theorem Hw.setLchar_forceSaved (h : Hw) (n : Nat) (c : LightChar) : (h.setLchar n c).forceSaved = h.forceSaved := rfl
@[simp] theorem Hw.setLchar_phase (h : Hw) (n : Nat) (c : LightChar) : (h.setLchar n c).phase = h.phase := rfl
@[simp] theorem Hw.setLchar_frame (h : Hw) (n : Nat) (c : LightChar) : (h.setLchar n c).frame = h.frame := rfl
@[simp] theorem Hw.setLchar_awake (h : Hw) (n : Nat) (c : LightChar) : (h.setLchar n c).awake = h.awake := rfl
@[simp] theorem Hw.setLchar_sys (h : Hw) (n : Nat) (c : LightChar) : (h.setLchar n c).sys = h.sys := rfl
@[simp] theorem Hw.setLchar_fld (h : Hw) (n : Nat) (c : LightChar) (g : Fld) : (h.setLchar n c).fld g = h.fld g := rfl
@[simp] theorem Hw.setLchar_flag (h : Hw) (n : Nat) (c : LightChar) (g : Fld) : (h.setLchar n c).flag g = h.flag g := rfl

/-! ## setDpe -/

@[simp] theorem Hw.setDpe_flds (h : Hw) (f : Dpe → Dpe) : (h.setDpe f).flds = h.flds := rfl
@[simp] theorem Hw.setDpe_free (h : Hw) (f : Dpe → Dpe) : (h.setDpe f).free = h.free := rfl
@[simp] theorem Hw.setDpe_bus (h : Hw) (f : Dpe → Dpe) : (h.setDpe f).bus = h.bus := rfl
@[simp] theorem Hw.setDpe_cores (h : Hw) (f : Dpe → Dpe) : (h.setDpe f).cores = h.cores := rfl
@[simp] theorem Hw.setDpe_l2 (h : Hw) (f : Dpe → Dpe) : (h.setDpe f).l2 = h.l2 := rfl
@[simp] theorem Hw.setDpe_banks (h : Hw) (f : Dpe → Dpe) : (h.setDpe f).banks = h.banks := rfl
@[simp] theorem Hw.setDpe_windows (h : Hw) (f : Dpe → Dpe) : (h.setDpe f).windows = h.windows := rfl
@[simp] theorem Hw.setDpe_iotlb (h : Hw) (f : Dpe → Dpe) : (h.setDpe f).iotlb = h.iotlb := rfl
@[simp] theorem Hw.setDpe_inv (h : Hw) (f : Dpe → Dpe) : (h.setDpe f).inv = h.inv := rfl
@[simp] theorem Hw.setDpe_tch (h : Hw) (f : Dpe → Dpe) : (h.setDpe f).tch = h.tch := rfl
@[simp] theorem Hw.setDpe_tlast (h : Hw) (f : Dpe → Dpe) : (h.setDpe f).tlast = h.tlast := rfl
@[simp] theorem Hw.setDpe_ddrTraining (h : Hw) (f : Dpe → Dpe) : (h.setDpe f).ddrTraining = h.ddrTraining := rfl
@[simp] theorem Hw.setDpe_ddrFit (h : Hw) (f : Dpe → Dpe) : (h.setDpe f).ddrFit = h.ddrFit := rfl
@[simp] theorem Hw.setDpe_clk (h : Hw) (f : Dpe → Dpe) : (h.setDpe f).clk = h.clk := rfl
@[simp] theorem Hw.setDpe_tp (h : Hw) (f : Dpe → Dpe) : (h.setDpe f).tp = h.tp := rfl
@[simp] theorem Hw.setDpe_evtLatch (h : Hw) (f : Dpe → Dpe) : (h.setDpe f).evtLatch = h.evtLatch := rfl
@[simp] theorem Hw.setDpe_evtLoop (h : Hw) (f : Dpe → Dpe) : (h.setDpe f).evtLoop = h.evtLoop := rfl
@[simp] theorem Hw.setDpe_log (h : Hw) (f : Dpe → Dpe) : (h.setDpe f).log = h.log := rfl
@[simp] theorem Hw.setDpe_nvm (h : Hw) (f : Dpe → Dpe) : (h.setDpe f).nvm = h.nvm := rfl
@[simp] theorem Hw.setDpe_key (h : Hw) (f : Dpe → Dpe) : (h.setDpe f).key = h.key := rfl
@[simp] theorem Hw.setDpe_debug (h : Hw) (f : Dpe → Dpe) : (h.setDpe f).debug = h.debug := rfl
@[simp] theorem Hw.setDpe_img (h : Hw) (f : Dpe → Dpe) : (h.setDpe f).img = h.img := rfl
@[simp] theorem Hw.setDpe_lnt (h : Hw) (f : Dpe → Dpe) : (h.setDpe f).lnt = h.lnt := rfl
@[simp] theorem Hw.setDpe_progs (h : Hw) (f : Dpe → Dpe) : (h.setDpe f).progs = h.progs := rfl
@[simp] theorem Hw.setDpe_adm (h : Hw) (f : Dpe → Dpe) : (h.setDpe f).adm = h.adm := rfl
@[simp] theorem Hw.setDpe_lpe (h : Hw) (f : Dpe → Dpe) : (h.setDpe f).lpe = h.lpe := rfl
@[simp] theorem Hw.setDpe_redir (h : Hw) (f : Dpe → Dpe) : (h.setDpe f).redir = h.redir := rfl
@[simp] theorem Hw.setDpe_keep (h : Hw) (f : Dpe → Dpe) : (h.setDpe f).keep = h.keep := rfl
@[simp] theorem Hw.setDpe_mor (h : Hw) (f : Dpe → Dpe) : (h.setDpe f).mor = h.mor := rfl
@[simp] theorem Hw.setDpe_pkt (h : Hw) (f : Dpe → Dpe) : (h.setDpe f).pkt = h.pkt := rfl
@[simp] theorem Hw.setDpe_can (h : Hw) (f : Dpe → Dpe) : (h.setDpe f).can = h.can := rfl
@[simp] theorem Hw.setDpe_mtr (h : Hw) (f : Dpe → Dpe) : (h.setDpe f).mtr = h.mtr := rfl
@[simp] theorem Hw.setDpe_bil (h : Hw) (f : Dpe → Dpe) : (h.setDpe f).bil = h.bil := rfl
@[simp] theorem Hw.setDpe_wch (h : Hw) (f : Dpe → Dpe) : (h.setDpe f).wch = h.wch := rfl
@[simp] theorem Hw.setDpe_forceSaved (h : Hw) (f : Dpe → Dpe) : (h.setDpe f).forceSaved = h.forceSaved := rfl
@[simp] theorem Hw.setDpe_phase (h : Hw) (f : Dpe → Dpe) : (h.setDpe f).phase = h.phase := rfl
@[simp] theorem Hw.setDpe_frame (h : Hw) (f : Dpe → Dpe) : (h.setDpe f).frame = h.frame := rfl
@[simp] theorem Hw.setDpe_awake (h : Hw) (f : Dpe → Dpe) : (h.setDpe f).awake = h.awake := rfl
@[simp] theorem Hw.setDpe_sys (h : Hw) (f : Dpe → Dpe) : (h.setDpe f).sys = h.sys := rfl
@[simp] theorem Hw.setDpe_fld (h : Hw) (f : Dpe → Dpe) (g : Fld) : (h.setDpe f).fld g = h.fld g := rfl
@[simp] theorem Hw.setDpe_flag (h : Hw) (f : Dpe → Dpe) (g : Fld) : (h.setDpe f).flag g = h.flag g := rfl

/-! ## setKey -/

@[simp] theorem Hw.setKey_flds (h : Hw) (f : KeyUnit → KeyUnit) : (h.setKey f).flds = h.flds := rfl
@[simp] theorem Hw.setKey_free (h : Hw) (f : KeyUnit → KeyUnit) : (h.setKey f).free = h.free := rfl
@[simp] theorem Hw.setKey_bus (h : Hw) (f : KeyUnit → KeyUnit) : (h.setKey f).bus = h.bus := rfl
@[simp] theorem Hw.setKey_cores (h : Hw) (f : KeyUnit → KeyUnit) : (h.setKey f).cores = h.cores := rfl
@[simp] theorem Hw.setKey_l2 (h : Hw) (f : KeyUnit → KeyUnit) : (h.setKey f).l2 = h.l2 := rfl
@[simp] theorem Hw.setKey_banks (h : Hw) (f : KeyUnit → KeyUnit) : (h.setKey f).banks = h.banks := rfl
@[simp] theorem Hw.setKey_windows (h : Hw) (f : KeyUnit → KeyUnit) : (h.setKey f).windows = h.windows := rfl
@[simp] theorem Hw.setKey_iotlb (h : Hw) (f : KeyUnit → KeyUnit) : (h.setKey f).iotlb = h.iotlb := rfl
@[simp] theorem Hw.setKey_inv (h : Hw) (f : KeyUnit → KeyUnit) : (h.setKey f).inv = h.inv := rfl
@[simp] theorem Hw.setKey_tch (h : Hw) (f : KeyUnit → KeyUnit) : (h.setKey f).tch = h.tch := rfl
@[simp] theorem Hw.setKey_tlast (h : Hw) (f : KeyUnit → KeyUnit) : (h.setKey f).tlast = h.tlast := rfl
@[simp] theorem Hw.setKey_ddrTraining (h : Hw) (f : KeyUnit → KeyUnit) : (h.setKey f).ddrTraining = h.ddrTraining := rfl
@[simp] theorem Hw.setKey_ddrFit (h : Hw) (f : KeyUnit → KeyUnit) : (h.setKey f).ddrFit = h.ddrFit := rfl
@[simp] theorem Hw.setKey_clk (h : Hw) (f : KeyUnit → KeyUnit) : (h.setKey f).clk = h.clk := rfl
@[simp] theorem Hw.setKey_tp (h : Hw) (f : KeyUnit → KeyUnit) : (h.setKey f).tp = h.tp := rfl
@[simp] theorem Hw.setKey_evtLatch (h : Hw) (f : KeyUnit → KeyUnit) : (h.setKey f).evtLatch = h.evtLatch := rfl
@[simp] theorem Hw.setKey_evtLoop (h : Hw) (f : KeyUnit → KeyUnit) : (h.setKey f).evtLoop = h.evtLoop := rfl
@[simp] theorem Hw.setKey_log (h : Hw) (f : KeyUnit → KeyUnit) : (h.setKey f).log = h.log := rfl
@[simp] theorem Hw.setKey_nvm (h : Hw) (f : KeyUnit → KeyUnit) : (h.setKey f).nvm = h.nvm := rfl
@[simp] theorem Hw.setKey_debug (h : Hw) (f : KeyUnit → KeyUnit) : (h.setKey f).debug = h.debug := rfl
@[simp] theorem Hw.setKey_img (h : Hw) (f : KeyUnit → KeyUnit) : (h.setKey f).img = h.img := rfl
@[simp] theorem Hw.setKey_lnt (h : Hw) (f : KeyUnit → KeyUnit) : (h.setKey f).lnt = h.lnt := rfl
@[simp] theorem Hw.setKey_progs (h : Hw) (f : KeyUnit → KeyUnit) : (h.setKey f).progs = h.progs := rfl
@[simp] theorem Hw.setKey_adm (h : Hw) (f : KeyUnit → KeyUnit) : (h.setKey f).adm = h.adm := rfl
@[simp] theorem Hw.setKey_lpe (h : Hw) (f : KeyUnit → KeyUnit) : (h.setKey f).lpe = h.lpe := rfl
@[simp] theorem Hw.setKey_redir (h : Hw) (f : KeyUnit → KeyUnit) : (h.setKey f).redir = h.redir := rfl
@[simp] theorem Hw.setKey_keep (h : Hw) (f : KeyUnit → KeyUnit) : (h.setKey f).keep = h.keep := rfl
@[simp] theorem Hw.setKey_mor (h : Hw) (f : KeyUnit → KeyUnit) : (h.setKey f).mor = h.mor := rfl
@[simp] theorem Hw.setKey_pkt (h : Hw) (f : KeyUnit → KeyUnit) : (h.setKey f).pkt = h.pkt := rfl
@[simp] theorem Hw.setKey_can (h : Hw) (f : KeyUnit → KeyUnit) : (h.setKey f).can = h.can := rfl
@[simp] theorem Hw.setKey_dpe (h : Hw) (f : KeyUnit → KeyUnit) : (h.setKey f).dpe = h.dpe := rfl
@[simp] theorem Hw.setKey_mtr (h : Hw) (f : KeyUnit → KeyUnit) : (h.setKey f).mtr = h.mtr := rfl
@[simp] theorem Hw.setKey_bil (h : Hw) (f : KeyUnit → KeyUnit) : (h.setKey f).bil = h.bil := rfl
@[simp] theorem Hw.setKey_wch (h : Hw) (f : KeyUnit → KeyUnit) : (h.setKey f).wch = h.wch := rfl
@[simp] theorem Hw.setKey_forceSaved (h : Hw) (f : KeyUnit → KeyUnit) : (h.setKey f).forceSaved = h.forceSaved := rfl
@[simp] theorem Hw.setKey_phase (h : Hw) (f : KeyUnit → KeyUnit) : (h.setKey f).phase = h.phase := rfl
@[simp] theorem Hw.setKey_frame (h : Hw) (f : KeyUnit → KeyUnit) : (h.setKey f).frame = h.frame := rfl
@[simp] theorem Hw.setKey_awake (h : Hw) (f : KeyUnit → KeyUnit) : (h.setKey f).awake = h.awake := rfl
@[simp] theorem Hw.setKey_sys (h : Hw) (f : KeyUnit → KeyUnit) : (h.setKey f).sys = h.sys := rfl
@[simp] theorem Hw.setKey_fld (h : Hw) (f : KeyUnit → KeyUnit) (g : Fld) : (h.setKey f).fld g = h.fld g := rfl
@[simp] theorem Hw.setKey_flag (h : Hw) (f : KeyUnit → KeyUnit) (g : Fld) : (h.setKey f).flag g = h.flag g := rfl

/-! ## setKeep -/

@[simp] theorem Hw.setKeep_flds (h : Hw) (f : Keep → Keep) : (h.setKeep f).flds = h.flds := rfl
@[simp] theorem Hw.setKeep_free (h : Hw) (f : Keep → Keep) : (h.setKeep f).free = h.free := rfl
@[simp] theorem Hw.setKeep_bus (h : Hw) (f : Keep → Keep) : (h.setKeep f).bus = h.bus := rfl
@[simp] theorem Hw.setKeep_cores (h : Hw) (f : Keep → Keep) : (h.setKeep f).cores = h.cores := rfl
@[simp] theorem Hw.setKeep_l2 (h : Hw) (f : Keep → Keep) : (h.setKeep f).l2 = h.l2 := rfl
@[simp] theorem Hw.setKeep_banks (h : Hw) (f : Keep → Keep) : (h.setKeep f).banks = h.banks := rfl
@[simp] theorem Hw.setKeep_windows (h : Hw) (f : Keep → Keep) : (h.setKeep f).windows = h.windows := rfl
@[simp] theorem Hw.setKeep_iotlb (h : Hw) (f : Keep → Keep) : (h.setKeep f).iotlb = h.iotlb := rfl
@[simp] theorem Hw.setKeep_inv (h : Hw) (f : Keep → Keep) : (h.setKeep f).inv = h.inv := rfl
@[simp] theorem Hw.setKeep_tch (h : Hw) (f : Keep → Keep) : (h.setKeep f).tch = h.tch := rfl
@[simp] theorem Hw.setKeep_tlast (h : Hw) (f : Keep → Keep) : (h.setKeep f).tlast = h.tlast := rfl
@[simp] theorem Hw.setKeep_ddrTraining (h : Hw) (f : Keep → Keep) : (h.setKeep f).ddrTraining = h.ddrTraining := rfl
@[simp] theorem Hw.setKeep_ddrFit (h : Hw) (f : Keep → Keep) : (h.setKeep f).ddrFit = h.ddrFit := rfl
@[simp] theorem Hw.setKeep_clk (h : Hw) (f : Keep → Keep) : (h.setKeep f).clk = h.clk := rfl
@[simp] theorem Hw.setKeep_tp (h : Hw) (f : Keep → Keep) : (h.setKeep f).tp = h.tp := rfl
@[simp] theorem Hw.setKeep_evtLatch (h : Hw) (f : Keep → Keep) : (h.setKeep f).evtLatch = h.evtLatch := rfl
@[simp] theorem Hw.setKeep_evtLoop (h : Hw) (f : Keep → Keep) : (h.setKeep f).evtLoop = h.evtLoop := rfl
@[simp] theorem Hw.setKeep_log (h : Hw) (f : Keep → Keep) : (h.setKeep f).log = h.log := rfl
@[simp] theorem Hw.setKeep_nvm (h : Hw) (f : Keep → Keep) : (h.setKeep f).nvm = h.nvm := rfl
@[simp] theorem Hw.setKeep_key (h : Hw) (f : Keep → Keep) : (h.setKeep f).key = h.key := rfl
@[simp] theorem Hw.setKeep_debug (h : Hw) (f : Keep → Keep) : (h.setKeep f).debug = h.debug := rfl
@[simp] theorem Hw.setKeep_img (h : Hw) (f : Keep → Keep) : (h.setKeep f).img = h.img := rfl
@[simp] theorem Hw.setKeep_lnt (h : Hw) (f : Keep → Keep) : (h.setKeep f).lnt = h.lnt := rfl
@[simp] theorem Hw.setKeep_progs (h : Hw) (f : Keep → Keep) : (h.setKeep f).progs = h.progs := rfl
@[simp] theorem Hw.setKeep_adm (h : Hw) (f : Keep → Keep) : (h.setKeep f).adm = h.adm := rfl
@[simp] theorem Hw.setKeep_lpe (h : Hw) (f : Keep → Keep) : (h.setKeep f).lpe = h.lpe := rfl
@[simp] theorem Hw.setKeep_redir (h : Hw) (f : Keep → Keep) : (h.setKeep f).redir = h.redir := rfl
@[simp] theorem Hw.setKeep_mor (h : Hw) (f : Keep → Keep) : (h.setKeep f).mor = h.mor := rfl
@[simp] theorem Hw.setKeep_pkt (h : Hw) (f : Keep → Keep) : (h.setKeep f).pkt = h.pkt := rfl
@[simp] theorem Hw.setKeep_can (h : Hw) (f : Keep → Keep) : (h.setKeep f).can = h.can := rfl
@[simp] theorem Hw.setKeep_dpe (h : Hw) (f : Keep → Keep) : (h.setKeep f).dpe = h.dpe := rfl
@[simp] theorem Hw.setKeep_mtr (h : Hw) (f : Keep → Keep) : (h.setKeep f).mtr = h.mtr := rfl
@[simp] theorem Hw.setKeep_bil (h : Hw) (f : Keep → Keep) : (h.setKeep f).bil = h.bil := rfl
@[simp] theorem Hw.setKeep_wch (h : Hw) (f : Keep → Keep) : (h.setKeep f).wch = h.wch := rfl
@[simp] theorem Hw.setKeep_forceSaved (h : Hw) (f : Keep → Keep) : (h.setKeep f).forceSaved = h.forceSaved := rfl
@[simp] theorem Hw.setKeep_phase (h : Hw) (f : Keep → Keep) : (h.setKeep f).phase = h.phase := rfl
@[simp] theorem Hw.setKeep_frame (h : Hw) (f : Keep → Keep) : (h.setKeep f).frame = h.frame := rfl
@[simp] theorem Hw.setKeep_awake (h : Hw) (f : Keep → Keep) : (h.setKeep f).awake = h.awake := rfl
@[simp] theorem Hw.setKeep_sys (h : Hw) (f : Keep → Keep) : (h.setKeep f).sys = h.sys := rfl
@[simp] theorem Hw.setKeep_fld (h : Hw) (f : Keep → Keep) (g : Fld) : (h.setKeep f).fld g = h.fld g := rfl
@[simp] theorem Hw.setKeep_flag (h : Hw) (f : Keep → Keep) (g : Fld) : (h.setKeep f).flag g = h.flag g := rfl

/-! ## setBil -/

@[simp] theorem Hw.setBil_flds (h : Hw) (f : Bil → Bil) : (h.setBil f).flds = h.flds := rfl
@[simp] theorem Hw.setBil_free (h : Hw) (f : Bil → Bil) : (h.setBil f).free = h.free := rfl
@[simp] theorem Hw.setBil_bus (h : Hw) (f : Bil → Bil) : (h.setBil f).bus = h.bus := rfl
@[simp] theorem Hw.setBil_cores (h : Hw) (f : Bil → Bil) : (h.setBil f).cores = h.cores := rfl
@[simp] theorem Hw.setBil_l2 (h : Hw) (f : Bil → Bil) : (h.setBil f).l2 = h.l2 := rfl
@[simp] theorem Hw.setBil_banks (h : Hw) (f : Bil → Bil) : (h.setBil f).banks = h.banks := rfl
@[simp] theorem Hw.setBil_windows (h : Hw) (f : Bil → Bil) : (h.setBil f).windows = h.windows := rfl
@[simp] theorem Hw.setBil_iotlb (h : Hw) (f : Bil → Bil) : (h.setBil f).iotlb = h.iotlb := rfl
@[simp] theorem Hw.setBil_inv (h : Hw) (f : Bil → Bil) : (h.setBil f).inv = h.inv := rfl
@[simp] theorem Hw.setBil_tch (h : Hw) (f : Bil → Bil) : (h.setBil f).tch = h.tch := rfl
@[simp] theorem Hw.setBil_tlast (h : Hw) (f : Bil → Bil) : (h.setBil f).tlast = h.tlast := rfl
@[simp] theorem Hw.setBil_ddrTraining (h : Hw) (f : Bil → Bil) : (h.setBil f).ddrTraining = h.ddrTraining := rfl
@[simp] theorem Hw.setBil_ddrFit (h : Hw) (f : Bil → Bil) : (h.setBil f).ddrFit = h.ddrFit := rfl
@[simp] theorem Hw.setBil_clk (h : Hw) (f : Bil → Bil) : (h.setBil f).clk = h.clk := rfl
@[simp] theorem Hw.setBil_tp (h : Hw) (f : Bil → Bil) : (h.setBil f).tp = h.tp := rfl
@[simp] theorem Hw.setBil_evtLatch (h : Hw) (f : Bil → Bil) : (h.setBil f).evtLatch = h.evtLatch := rfl
@[simp] theorem Hw.setBil_evtLoop (h : Hw) (f : Bil → Bil) : (h.setBil f).evtLoop = h.evtLoop := rfl
@[simp] theorem Hw.setBil_log (h : Hw) (f : Bil → Bil) : (h.setBil f).log = h.log := rfl
@[simp] theorem Hw.setBil_nvm (h : Hw) (f : Bil → Bil) : (h.setBil f).nvm = h.nvm := rfl
@[simp] theorem Hw.setBil_key (h : Hw) (f : Bil → Bil) : (h.setBil f).key = h.key := rfl
@[simp] theorem Hw.setBil_debug (h : Hw) (f : Bil → Bil) : (h.setBil f).debug = h.debug := rfl
@[simp] theorem Hw.setBil_img (h : Hw) (f : Bil → Bil) : (h.setBil f).img = h.img := rfl
@[simp] theorem Hw.setBil_lnt (h : Hw) (f : Bil → Bil) : (h.setBil f).lnt = h.lnt := rfl
@[simp] theorem Hw.setBil_progs (h : Hw) (f : Bil → Bil) : (h.setBil f).progs = h.progs := rfl
@[simp] theorem Hw.setBil_adm (h : Hw) (f : Bil → Bil) : (h.setBil f).adm = h.adm := rfl
@[simp] theorem Hw.setBil_lpe (h : Hw) (f : Bil → Bil) : (h.setBil f).lpe = h.lpe := rfl
@[simp] theorem Hw.setBil_redir (h : Hw) (f : Bil → Bil) : (h.setBil f).redir = h.redir := rfl
@[simp] theorem Hw.setBil_keep (h : Hw) (f : Bil → Bil) : (h.setBil f).keep = h.keep := rfl
@[simp] theorem Hw.setBil_mor (h : Hw) (f : Bil → Bil) : (h.setBil f).mor = h.mor := rfl
@[simp] theorem Hw.setBil_pkt (h : Hw) (f : Bil → Bil) : (h.setBil f).pkt = h.pkt := rfl
@[simp] theorem Hw.setBil_can (h : Hw) (f : Bil → Bil) : (h.setBil f).can = h.can := rfl
@[simp] theorem Hw.setBil_dpe (h : Hw) (f : Bil → Bil) : (h.setBil f).dpe = h.dpe := rfl
@[simp] theorem Hw.setBil_mtr (h : Hw) (f : Bil → Bil) : (h.setBil f).mtr = h.mtr := rfl
@[simp] theorem Hw.setBil_wch (h : Hw) (f : Bil → Bil) : (h.setBil f).wch = h.wch := rfl
@[simp] theorem Hw.setBil_forceSaved (h : Hw) (f : Bil → Bil) : (h.setBil f).forceSaved = h.forceSaved := rfl
@[simp] theorem Hw.setBil_phase (h : Hw) (f : Bil → Bil) : (h.setBil f).phase = h.phase := rfl
@[simp] theorem Hw.setBil_frame (h : Hw) (f : Bil → Bil) : (h.setBil f).frame = h.frame := rfl
@[simp] theorem Hw.setBil_awake (h : Hw) (f : Bil → Bil) : (h.setBil f).awake = h.awake := rfl
@[simp] theorem Hw.setBil_sys (h : Hw) (f : Bil → Bil) : (h.setBil f).sys = h.sys := rfl
@[simp] theorem Hw.setBil_fld (h : Hw) (f : Bil → Bil) (g : Fld) : (h.setBil f).fld g = h.fld g := rfl
@[simp] theorem Hw.setBil_flag (h : Hw) (f : Bil → Bil) (g : Fld) : (h.setBil f).flag g = h.flag g := rfl

/-! ## setWch -/

@[simp] theorem Hw.setWch_flds (h : Hw) (f : Wch → Wch) : (h.setWch f).flds = h.flds := rfl
@[simp] theorem Hw.setWch_free (h : Hw) (f : Wch → Wch) : (h.setWch f).free = h.free := rfl
@[simp] theorem Hw.setWch_bus (h : Hw) (f : Wch → Wch) : (h.setWch f).bus = h.bus := rfl
@[simp] theorem Hw.setWch_cores (h : Hw) (f : Wch → Wch) : (h.setWch f).cores = h.cores := rfl
@[simp] theorem Hw.setWch_l2 (h : Hw) (f : Wch → Wch) : (h.setWch f).l2 = h.l2 := rfl
@[simp] theorem Hw.setWch_banks (h : Hw) (f : Wch → Wch) : (h.setWch f).banks = h.banks := rfl
@[simp] theorem Hw.setWch_windows (h : Hw) (f : Wch → Wch) : (h.setWch f).windows = h.windows := rfl
@[simp] theorem Hw.setWch_iotlb (h : Hw) (f : Wch → Wch) : (h.setWch f).iotlb = h.iotlb := rfl
@[simp] theorem Hw.setWch_inv (h : Hw) (f : Wch → Wch) : (h.setWch f).inv = h.inv := rfl
@[simp] theorem Hw.setWch_tch (h : Hw) (f : Wch → Wch) : (h.setWch f).tch = h.tch := rfl
@[simp] theorem Hw.setWch_tlast (h : Hw) (f : Wch → Wch) : (h.setWch f).tlast = h.tlast := rfl
@[simp] theorem Hw.setWch_ddrTraining (h : Hw) (f : Wch → Wch) : (h.setWch f).ddrTraining = h.ddrTraining := rfl
@[simp] theorem Hw.setWch_ddrFit (h : Hw) (f : Wch → Wch) : (h.setWch f).ddrFit = h.ddrFit := rfl
@[simp] theorem Hw.setWch_clk (h : Hw) (f : Wch → Wch) : (h.setWch f).clk = h.clk := rfl
@[simp] theorem Hw.setWch_tp (h : Hw) (f : Wch → Wch) : (h.setWch f).tp = h.tp := rfl
@[simp] theorem Hw.setWch_evtLatch (h : Hw) (f : Wch → Wch) : (h.setWch f).evtLatch = h.evtLatch := rfl
@[simp] theorem Hw.setWch_evtLoop (h : Hw) (f : Wch → Wch) : (h.setWch f).evtLoop = h.evtLoop := rfl
@[simp] theorem Hw.setWch_log (h : Hw) (f : Wch → Wch) : (h.setWch f).log = h.log := rfl
@[simp] theorem Hw.setWch_nvm (h : Hw) (f : Wch → Wch) : (h.setWch f).nvm = h.nvm := rfl
@[simp] theorem Hw.setWch_key (h : Hw) (f : Wch → Wch) : (h.setWch f).key = h.key := rfl
@[simp] theorem Hw.setWch_debug (h : Hw) (f : Wch → Wch) : (h.setWch f).debug = h.debug := rfl
@[simp] theorem Hw.setWch_img (h : Hw) (f : Wch → Wch) : (h.setWch f).img = h.img := rfl
@[simp] theorem Hw.setWch_lnt (h : Hw) (f : Wch → Wch) : (h.setWch f).lnt = h.lnt := rfl
@[simp] theorem Hw.setWch_progs (h : Hw) (f : Wch → Wch) : (h.setWch f).progs = h.progs := rfl
@[simp] theorem Hw.setWch_adm (h : Hw) (f : Wch → Wch) : (h.setWch f).adm = h.adm := rfl
@[simp] theorem Hw.setWch_lpe (h : Hw) (f : Wch → Wch) : (h.setWch f).lpe = h.lpe := rfl
@[simp] theorem Hw.setWch_redir (h : Hw) (f : Wch → Wch) : (h.setWch f).redir = h.redir := rfl
@[simp] theorem Hw.setWch_keep (h : Hw) (f : Wch → Wch) : (h.setWch f).keep = h.keep := rfl
@[simp] theorem Hw.setWch_mor (h : Hw) (f : Wch → Wch) : (h.setWch f).mor = h.mor := rfl
@[simp] theorem Hw.setWch_pkt (h : Hw) (f : Wch → Wch) : (h.setWch f).pkt = h.pkt := rfl
@[simp] theorem Hw.setWch_can (h : Hw) (f : Wch → Wch) : (h.setWch f).can = h.can := rfl
@[simp] theorem Hw.setWch_dpe (h : Hw) (f : Wch → Wch) : (h.setWch f).dpe = h.dpe := rfl
@[simp] theorem Hw.setWch_mtr (h : Hw) (f : Wch → Wch) : (h.setWch f).mtr = h.mtr := rfl
@[simp] theorem Hw.setWch_bil (h : Hw) (f : Wch → Wch) : (h.setWch f).bil = h.bil := rfl
@[simp] theorem Hw.setWch_forceSaved (h : Hw) (f : Wch → Wch) : (h.setWch f).forceSaved = h.forceSaved := rfl
@[simp] theorem Hw.setWch_phase (h : Hw) (f : Wch → Wch) : (h.setWch f).phase = h.phase := rfl
@[simp] theorem Hw.setWch_frame (h : Hw) (f : Wch → Wch) : (h.setWch f).frame = h.frame := rfl
@[simp] theorem Hw.setWch_awake (h : Hw) (f : Wch → Wch) : (h.setWch f).awake = h.awake := rfl
@[simp] theorem Hw.setWch_sys (h : Hw) (f : Wch → Wch) : (h.setWch f).sys = h.sys := rfl
@[simp] theorem Hw.setWch_fld (h : Hw) (f : Wch → Wch) (g : Fld) : (h.setWch f).fld g = h.fld g := rfl
@[simp] theorem Hw.setWch_flag (h : Hw) (f : Wch → Wch) (g : Fld) : (h.setWch f).flag g = h.flag g := rfl

/-! ## setCh -/

@[simp] theorem Hw.setCh_flds (h : Hw) (n : Nat) (c : Can) : (h.setCh n c).flds = h.flds := rfl
@[simp] theorem Hw.setCh_free (h : Hw) (n : Nat) (c : Can) : (h.setCh n c).free = h.free := rfl
@[simp] theorem Hw.setCh_bus (h : Hw) (n : Nat) (c : Can) : (h.setCh n c).bus = h.bus := rfl
@[simp] theorem Hw.setCh_cores (h : Hw) (n : Nat) (c : Can) : (h.setCh n c).cores = h.cores := rfl
@[simp] theorem Hw.setCh_l2 (h : Hw) (n : Nat) (c : Can) : (h.setCh n c).l2 = h.l2 := rfl
@[simp] theorem Hw.setCh_banks (h : Hw) (n : Nat) (c : Can) : (h.setCh n c).banks = h.banks := rfl
@[simp] theorem Hw.setCh_windows (h : Hw) (n : Nat) (c : Can) : (h.setCh n c).windows = h.windows := rfl
@[simp] theorem Hw.setCh_iotlb (h : Hw) (n : Nat) (c : Can) : (h.setCh n c).iotlb = h.iotlb := rfl
@[simp] theorem Hw.setCh_inv (h : Hw) (n : Nat) (c : Can) : (h.setCh n c).inv = h.inv := rfl
@[simp] theorem Hw.setCh_tch (h : Hw) (n : Nat) (c : Can) : (h.setCh n c).tch = h.tch := rfl
@[simp] theorem Hw.setCh_tlast (h : Hw) (n : Nat) (c : Can) : (h.setCh n c).tlast = h.tlast := rfl
@[simp] theorem Hw.setCh_ddrTraining (h : Hw) (n : Nat) (c : Can) : (h.setCh n c).ddrTraining = h.ddrTraining := rfl
@[simp] theorem Hw.setCh_ddrFit (h : Hw) (n : Nat) (c : Can) : (h.setCh n c).ddrFit = h.ddrFit := rfl
@[simp] theorem Hw.setCh_clk (h : Hw) (n : Nat) (c : Can) : (h.setCh n c).clk = h.clk := rfl
@[simp] theorem Hw.setCh_tp (h : Hw) (n : Nat) (c : Can) : (h.setCh n c).tp = h.tp := rfl
@[simp] theorem Hw.setCh_evtLatch (h : Hw) (n : Nat) (c : Can) : (h.setCh n c).evtLatch = h.evtLatch := rfl
@[simp] theorem Hw.setCh_evtLoop (h : Hw) (n : Nat) (c : Can) : (h.setCh n c).evtLoop = h.evtLoop := rfl
@[simp] theorem Hw.setCh_log (h : Hw) (n : Nat) (c : Can) : (h.setCh n c).log = h.log := rfl
@[simp] theorem Hw.setCh_nvm (h : Hw) (n : Nat) (c : Can) : (h.setCh n c).nvm = h.nvm := rfl
@[simp] theorem Hw.setCh_key (h : Hw) (n : Nat) (c : Can) : (h.setCh n c).key = h.key := rfl
@[simp] theorem Hw.setCh_debug (h : Hw) (n : Nat) (c : Can) : (h.setCh n c).debug = h.debug := rfl
@[simp] theorem Hw.setCh_img (h : Hw) (n : Nat) (c : Can) : (h.setCh n c).img = h.img := rfl
@[simp] theorem Hw.setCh_lnt (h : Hw) (n : Nat) (c : Can) : (h.setCh n c).lnt = h.lnt := rfl
@[simp] theorem Hw.setCh_progs (h : Hw) (n : Nat) (c : Can) : (h.setCh n c).progs = h.progs := rfl
@[simp] theorem Hw.setCh_adm (h : Hw) (n : Nat) (c : Can) : (h.setCh n c).adm = h.adm := rfl
@[simp] theorem Hw.setCh_lpe (h : Hw) (n : Nat) (c : Can) : (h.setCh n c).lpe = h.lpe := rfl
@[simp] theorem Hw.setCh_redir (h : Hw) (n : Nat) (c : Can) : (h.setCh n c).redir = h.redir := rfl
@[simp] theorem Hw.setCh_keep (h : Hw) (n : Nat) (c : Can) : (h.setCh n c).keep = h.keep := rfl
@[simp] theorem Hw.setCh_mor (h : Hw) (n : Nat) (c : Can) : (h.setCh n c).mor = h.mor := rfl
@[simp] theorem Hw.setCh_pkt (h : Hw) (n : Nat) (c : Can) : (h.setCh n c).pkt = h.pkt := rfl
@[simp] theorem Hw.setCh_dpe (h : Hw) (n : Nat) (c : Can) : (h.setCh n c).dpe = h.dpe := rfl
@[simp] theorem Hw.setCh_mtr (h : Hw) (n : Nat) (c : Can) : (h.setCh n c).mtr = h.mtr := rfl
@[simp] theorem Hw.setCh_bil (h : Hw) (n : Nat) (c : Can) : (h.setCh n c).bil = h.bil := rfl
@[simp] theorem Hw.setCh_wch (h : Hw) (n : Nat) (c : Can) : (h.setCh n c).wch = h.wch := rfl
@[simp] theorem Hw.setCh_forceSaved (h : Hw) (n : Nat) (c : Can) : (h.setCh n c).forceSaved = h.forceSaved := rfl
@[simp] theorem Hw.setCh_phase (h : Hw) (n : Nat) (c : Can) : (h.setCh n c).phase = h.phase := rfl
@[simp] theorem Hw.setCh_frame (h : Hw) (n : Nat) (c : Can) : (h.setCh n c).frame = h.frame := rfl
@[simp] theorem Hw.setCh_awake (h : Hw) (n : Nat) (c : Can) : (h.setCh n c).awake = h.awake := rfl
@[simp] theorem Hw.setCh_sys (h : Hw) (n : Nat) (c : Can) : (h.setCh n c).sys = h.sys := rfl
@[simp] theorem Hw.setCh_fld (h : Hw) (n : Nat) (c : Can) (g : Fld) : (h.setCh n c).fld g = h.fld g := rfl
@[simp] theorem Hw.setCh_flag (h : Hw) (n : Nat) (c : Can) (g : Fld) : (h.setCh n c).flag g = h.flag g := rfl

/-! ## respond -/

@[simp] theorem Hw.respond_flds (h : Hw) (d : List Byte) : (h.respond d).flds = h.flds := rfl
@[simp] theorem Hw.respond_free (h : Hw) (d : List Byte) : (h.respond d).free = h.free := rfl
@[simp] theorem Hw.respond_cores (h : Hw) (d : List Byte) : (h.respond d).cores = h.cores := rfl
@[simp] theorem Hw.respond_l2 (h : Hw) (d : List Byte) : (h.respond d).l2 = h.l2 := rfl
@[simp] theorem Hw.respond_banks (h : Hw) (d : List Byte) : (h.respond d).banks = h.banks := rfl
@[simp] theorem Hw.respond_windows (h : Hw) (d : List Byte) : (h.respond d).windows = h.windows := rfl
@[simp] theorem Hw.respond_iotlb (h : Hw) (d : List Byte) : (h.respond d).iotlb = h.iotlb := rfl
@[simp] theorem Hw.respond_inv (h : Hw) (d : List Byte) : (h.respond d).inv = h.inv := rfl
@[simp] theorem Hw.respond_tch (h : Hw) (d : List Byte) : (h.respond d).tch = h.tch := rfl
@[simp] theorem Hw.respond_tlast (h : Hw) (d : List Byte) : (h.respond d).tlast = h.tlast := rfl
@[simp] theorem Hw.respond_ddrTraining (h : Hw) (d : List Byte) : (h.respond d).ddrTraining = h.ddrTraining := rfl
@[simp] theorem Hw.respond_ddrFit (h : Hw) (d : List Byte) : (h.respond d).ddrFit = h.ddrFit := rfl
@[simp] theorem Hw.respond_clk (h : Hw) (d : List Byte) : (h.respond d).clk = h.clk := rfl
@[simp] theorem Hw.respond_tp (h : Hw) (d : List Byte) : (h.respond d).tp = h.tp := rfl
@[simp] theorem Hw.respond_evtLatch (h : Hw) (d : List Byte) : (h.respond d).evtLatch = h.evtLatch := rfl
@[simp] theorem Hw.respond_evtLoop (h : Hw) (d : List Byte) : (h.respond d).evtLoop = h.evtLoop := rfl
@[simp] theorem Hw.respond_log (h : Hw) (d : List Byte) : (h.respond d).log = h.log := rfl
@[simp] theorem Hw.respond_nvm (h : Hw) (d : List Byte) : (h.respond d).nvm = h.nvm := rfl
@[simp] theorem Hw.respond_key (h : Hw) (d : List Byte) : (h.respond d).key = h.key := rfl
@[simp] theorem Hw.respond_debug (h : Hw) (d : List Byte) : (h.respond d).debug = h.debug := rfl
@[simp] theorem Hw.respond_img (h : Hw) (d : List Byte) : (h.respond d).img = h.img := rfl
@[simp] theorem Hw.respond_lnt (h : Hw) (d : List Byte) : (h.respond d).lnt = h.lnt := rfl
@[simp] theorem Hw.respond_progs (h : Hw) (d : List Byte) : (h.respond d).progs = h.progs := rfl
@[simp] theorem Hw.respond_adm (h : Hw) (d : List Byte) : (h.respond d).adm = h.adm := rfl
@[simp] theorem Hw.respond_lpe (h : Hw) (d : List Byte) : (h.respond d).lpe = h.lpe := rfl
@[simp] theorem Hw.respond_redir (h : Hw) (d : List Byte) : (h.respond d).redir = h.redir := rfl
@[simp] theorem Hw.respond_keep (h : Hw) (d : List Byte) : (h.respond d).keep = h.keep := rfl
@[simp] theorem Hw.respond_mor (h : Hw) (d : List Byte) : (h.respond d).mor = h.mor := rfl
@[simp] theorem Hw.respond_pkt (h : Hw) (d : List Byte) : (h.respond d).pkt = h.pkt := rfl
@[simp] theorem Hw.respond_can (h : Hw) (d : List Byte) : (h.respond d).can = h.can := rfl
@[simp] theorem Hw.respond_dpe (h : Hw) (d : List Byte) : (h.respond d).dpe = h.dpe := rfl
@[simp] theorem Hw.respond_mtr (h : Hw) (d : List Byte) : (h.respond d).mtr = h.mtr := rfl
@[simp] theorem Hw.respond_bil (h : Hw) (d : List Byte) : (h.respond d).bil = h.bil := rfl
@[simp] theorem Hw.respond_wch (h : Hw) (d : List Byte) : (h.respond d).wch = h.wch := rfl
@[simp] theorem Hw.respond_forceSaved (h : Hw) (d : List Byte) : (h.respond d).forceSaved = h.forceSaved := rfl
@[simp] theorem Hw.respond_phase (h : Hw) (d : List Byte) : (h.respond d).phase = h.phase := rfl
@[simp] theorem Hw.respond_frame (h : Hw) (d : List Byte) : (h.respond d).frame = h.frame := rfl
@[simp] theorem Hw.respond_awake (h : Hw) (d : List Byte) : (h.respond d).awake = h.awake := rfl
@[simp] theorem Hw.respond_sys (h : Hw) (d : List Byte) : (h.respond d).sys = h.sys := rfl
@[simp] theorem Hw.respond_fld (h : Hw) (d : List Byte) (g : Fld) : (h.respond d).fld g = h.fld g := rfl
@[simp] theorem Hw.respond_flag (h : Hw) (d : List Byte) (g : Fld) : (h.respond d).flag g = h.flag g := rfl

end Sys2Proof.Machine
end

