-- ==== Sys2Proof/Laws/Tab.lean ====
section
/-! SUPPORT. Laws of sparse storage: what a look-up finds after a put or a delete, and that they keep keys rising. -/

namespace Sys2Proof

variable {α : Type}

@[simp] theorem Tab.get?_nil (a : Nat) : Tab.get? ([] : Tab α) a = none := rfl

@[simp] theorem Tab.getD_nil (a : Nat) (d : α) : Tab.getD ([] : Tab α) a d = d := rfl

/-! ## Look-up after a put -/

theorem Tab.get?_put (t : Tab α) (a b : Nat) (v : α) :
    Tab.get? (Tab.put t a v) b = if b = a then some v else Tab.get? t b := by
  fun_induction Tab.put t a v <;> grind [Tab.get?]

@[simp] theorem Tab.get?_put_self (t : Tab α) (a : Nat) (v : α) : Tab.get? (Tab.put t a v) a = some v := by
  simp [Tab.get?_put]

theorem Tab.get?_put_other (t : Tab α) {a b : Nat} (v : α) (h : b ≠ a) : Tab.get? (Tab.put t a v) b = Tab.get? t b := by
  simp [Tab.get?_put, h]

theorem Tab.getD_put (t : Tab α) (a b : Nat) (v d : α) :
    Tab.getD (Tab.put t a v) b d = if b = a then v else Tab.getD t b d := by
  simp only [Tab.getD, Tab.get?_put, apply_ite (Option.getD · d), Option.getD_some]

@[simp] theorem Tab.getD_put_self (t : Tab α) (a : Nat) (v d : α) : Tab.getD (Tab.put t a v) a d = v := by
  simp [Tab.getD]

theorem Tab.getD_put_other (t : Tab α) {a b : Nat} (v d : α) (h : b ≠ a) :
    Tab.getD (Tab.put t a v) b d = Tab.getD t b d := by simp [Tab.getD_put, h]

/-! ## Entries -/

/-- Entries of a put: the new one, or old ones. -/
theorem Tab.mem_put {t : Tab α} {a : Nat} {v : α} {e : Nat × α} (h : e ∈ Tab.put t a v) : e = (a, v) ∨ e ∈ t := by
  fun_induction Tab.put t a v <;> grind

theorem Tab.mem_del {t : Tab α} {a : Nat} {e : Nat × α} (h : e ∈ Tab.del t a) : e ∈ t := by
  fun_induction Tab.del t a <;> grind

/-! ## Rising keys -/

/-- A rising list: its first key lies below every later one. -/
theorem Tab.rising_cons (k : Nat) (w : α) (t : Tab α) :
    Tab.rising ((k, w) :: t) = true ↔ (∀ e ∈ t, k < e.1) ∧ Tab.rising t = true := by
  fun_induction Tab.rising t generalizing k w with
  | case1 => simp [Tab.rising]
  | case2 => simp [Tab.rising]
  | case3 l v m u t ih =>
    rw [Tab.rising, Bool.and_eq_true, decide_eq_true_eq, List.forall_mem_cons]
    exact ⟨fun ⟨hk, hr⟩ => ⟨⟨hk, fun e he => Nat.lt_trans hk (((ih l v).1 hr).1 e he)⟩, hr⟩, fun ⟨⟨hk, _⟩, hr⟩ => ⟨hk, hr⟩⟩

theorem Tab.rising_put {t : Tab α} (a : Nat) (v : α) (h : Tab.rising t = true) : Tab.rising (Tab.put t a v) = true := by
  fun_induction Tab.put t a v <;> grind [Tab.rising_cons, Tab.rising, → Tab.mem_put]

theorem Tab.rising_del {t : Tab α} (a : Nat) (h : Tab.rising t = true) : Tab.rising (Tab.del t a) = true := by
  fun_induction Tab.del t a <;> grind [Tab.rising_cons, → Tab.mem_del]

/-! ## Look-up after a delete -/

theorem Tab.get?_below {t : Tab α} {a : Nat} (h : ∀ e ∈ t, a < e.1) : Tab.get? t a = none := by
  cases t <;> grind [Tab.get?]

theorem Tab.get?_del {t : Tab α} (a b : Nat) (h : Tab.rising t = true) :
    Tab.get? (Tab.del t a) b = if b = a then none else Tab.get? t b := by
  fun_induction Tab.del t a <;> grind [Tab.get?, Tab.rising_cons, Tab.get?_below]

theorem Tab.get?_del_self {t : Tab α} (a : Nat) (h : Tab.rising t = true) : Tab.get? (Tab.del t a) a = none := by
  simp [Tab.get?_del a a h]

theorem Tab.get?_del_other {t : Tab α} {a b : Nat} (h : Tab.rising t = true) (hb : b ≠ a) :
    Tab.get? (Tab.del t a) b = Tab.get? t b := by simp [Tab.get?_del a b h, hb]

end Sys2Proof
end

