-- ==== Sys2Proof/Laws/Ops.lean ====
section
/-! SUPPORT. What the shared operations do: fields and counters, raising an event, Logbook records, violations, general
memory. -/

namespace Sys2Proof.Machine

/-! ## Fields -/

theorem Fld.key_eq {f g : Fld} (h : Fld.key f = Fld.key g) (hf : f.lo < 64) (hg : g.lo < 64) :
    f.addr = g.addr ∧ f.lo = g.lo := by
  simp only [Fld.key] at h
  omega

theorem Hw.fld_setFld (h : Hw) (f g : Fld) (v : Nat) :
    (h.setFld f v).fld g = if Fld.key g = Fld.key f then v % 2 ^ f.w else h.fld g := by
  simp only [Hw.fld, Hw.setFld, Tab.getD_put]

@[simp] theorem Hw.fld_setFld_self (h : Hw) (f : Fld) (v : Nat) : (h.setFld f v).fld f = v % 2 ^ f.w := by
  simp [Hw.fld_setFld]

theorem Hw.fld_setFld_other (h : Hw) {f g : Fld} (v : Nat) (hk : Fld.key g ≠ Fld.key f) :
    (h.setFld f v).fld g = h.fld g := by simp [Hw.fld_setFld, hk]

theorem Hw.fld_setFlag (h : Hw) (f g : Fld) (b : Bool) :
    (h.setFlag f b).fld g = if Fld.key g = Fld.key f then b2n b % 2 ^ f.w else h.fld g := Hw.fld_setFld h f g _

theorem Hw.fld_setFlag_other (h : Hw) {f g : Fld} (b : Bool) (hk : Fld.key g ≠ Fld.key f) :
    (h.setFlag f b).fld g = h.fld g := Hw.fld_setFld_other h _ hk

theorem Hw.fld_setFldBit_other (h : Hw) {f g : Fld} (i : Nat) (b : Bool) (hk : Fld.key g ≠ Fld.key f) :
    (h.setFldBit f i b).fld g = h.fld g := Hw.fld_setFld_other h _ hk

theorem Hw.fld_countW_other (h : Hw) {f g : Fld} (n : Nat) (hk : Fld.key g ≠ Fld.key f) :
    (h.countW f n).fld g = h.fld g := Hw.fld_setFld_other h _ hk

/-- A class W counter wraps at its width (R9). -/
@[simp] theorem Hw.fld_countW_self (h : Hw) (f : Fld) (n : Nat) : (h.countW f n).fld f = (h.fld f + n) % 2 ^ f.w :=
  Hw.fld_setFld_self h f _

/-- A one-bit field reads the Bool written to it. -/
@[simp] theorem Hw.flag_setFlag_self (h : Hw) (f : Fld) (b : Bool) (hw : 0 < f.w) : (h.setFlag f b).flag f = b := by
  have h2 : 1 < 2 ^ f.w := Nat.one_lt_two_pow (Nat.pos_iff_ne_zero.1 hw)
  cases b
  · simp [Hw.flag, Hw.setFlag, b2n]
  · simp [Hw.flag, Hw.setFlag, b2n, Nat.mod_eq_of_lt h2]

theorem Hw.flag_setFld_other (h : Hw) {f g : Fld} (v : Nat) (hk : Fld.key g ≠ Fld.key f) :
    (h.setFld f v).flag g = h.flag g := by simp [Hw.flag, Hw.fld_setFld_other h v hk]

theorem Hw.flag_setFlag_other (h : Hw) {f g : Fld} (b : Bool) (hk : Fld.key g ≠ Fld.key f) :
    (h.setFlag f b).flag g = h.flag g := by simp [Hw.flag, Hw.fld_setFlag_other h b hk]

/-! ## Raising an event -/

/-- The blocks a raised event can change: EVT, whose pending bits it sets, and TND, whose channels it triggers. -/
abbrev evtFld (g : Fld) : Prop :=
  (0x30020000 * 64 ≤ Fld.key g ∧ Fld.key g < 0x30030000 * 64) ∨ (0x302C0000 * 64 ≤ Fld.key g ∧ Fld.key g < 0x302D0000 * 64)

/-- Two states of the hardware agree but for what raised events change. -/
structure EvtSame (h h' : Hw) : Prop where
  fld : ∀ g, ¬evtFld g → h'.fld g = h.fld g
  rest : ({ h' with flds := h.flds, tch := h.tch, evtLatch := h.evtLatch, evtLoop := h.evtLoop } : Hw) = h

theorem EvtSame.refl (h : Hw) : EvtSame h h := ⟨fun _ _ => rfl, rfl⟩

theorem EvtSame.trans {a b c : Hw} (x : EvtSame a b) (y : EvtSame b c) : EvtSame a c := by
  refine ⟨fun g hg => (y.fld g hg).trans (x.fld g hg), ?_⟩
  have hb := y.rest
  have ha := x.rest
  cases a; cases b; cases c
  simp only [Hw.mk.injEq] at *
  simp_all

theorem EvtSame.setFld (h : Hw) {f : Fld} (v : Nat) (hf : evtFld f) : EvtSame h (h.setFld f v) := by
  refine ⟨fun g hg => Hw.fld_setFld_other h v ?_, rfl⟩
  intro hk
  exact hg (by simpa [evtFld, hk] using hf)

theorem EvtSame.setChan (h : Hw) (n : Nat) (c : TChan) : EvtSame h (h.setChan n c) := ⟨fun _ _ => rfl, rfl⟩

theorem EvtSame.foldl {α : Type} (f : Hw → α → Hw) (l : List α) (hf : ∀ h a, a ∈ l → EvtSame h (f h a)) (h : Hw) :
    EvtSame h (l.foldl f h) :=
  List.foldlRecOn l f (.refl h) fun g same a ha => same.trans (hf g a ha)

theorem EvtSame.ite {p : Prop} [Decidable p] {h a b : Hw} (x : EvtSame h a) (y : EvtSame h b) :
    EvtSame h (if p then a else b) := by split <;> assumption

theorem evtFld_pend {c n : Nat} (hc : c < 9) (hn : n < 4) : evtFld (EVT_PEND c n) := by
  simp only [evtFld, Fld.key, EVT_PEND]; omega
theorem evtFld_state {n : Nat} (hn : n < 64) : evtFld (TND_CH_STAT_STATE n) := by
  simp only [evtFld, Fld.key, TND_CH_STAT_STATE]; omega
theorem evtFld_chPend {n : Nat} (hn : n < 64) : evtFld (TND_CH_STAT_PEND n) := by
  simp only [evtFld, Fld.key, TND_CH_STAT_PEND]; omega

/-- A trigger of a channel changes that channel, or its PEND, or counts a lost trigger. -/
theorem EvtSame.trigger (alert : Hw → Hw) (ha : ∀ h, EvtSame h (alert h)) {n : Nat} (hn : n < 64) (h : Hw) :
    EvtSame h (h.trigger alert n) := by
  have lost : ∀ v, EvtSame h (h.setFld TND_TRIGLOST_COUNT v) := fun v => .setFld h v (by decide)
  simp only [Hw.trigger]
  refine .ite ((EvtSame.setFld h _ (evtFld_state hn)).trans (.setChan _ _ _)) (.ite (.ite ?_ (.setFld h _ (evtFld_chPend hn))) (.refl h))
  refine EvtSame.trans ?_ (ha _)
  refine .ite (.refl h) (.ite ((lost _).trans (.setFld _ _ (by decide))) (lost _))

/-- What a routed event changes. -/
theorem EvtSame.route (alert : Hw → Hw) (ha : ∀ h, EvtSame h (alert h)) {n : Nat} (hn : n < 256) (h : Hw) :
    EvtSame h (h.route alert n) := by
  have pend : ∀ (h : Hw) (c : Nat), c < 9 → EvtSame h (h.setPend c n) :=
    fun h c hc => .setFld h _ (evtFld_pend hc (by omega))
  unfold Hw.route
  extract_lets h1 h2 h3 h4
  have e1 : EvtSame h h1 := .foldl _ _ (fun h c hc => .ite (pend h c (by simp at hc; omega)) (.refl h)) _
  have e2 : EvtSame h1 h2 := .ite (pend _ 8 (by omega)) (.refl _)
  have latch : ∀ (h : Hw) (t : Tab (BitVec 256)), EvtSame h { h with evtLatch := t } := fun _ _ => ⟨fun _ _ => rfl, rfl⟩
  have loop : ∀ (h : Hw) (t : Tab (List Nat)), EvtSame h { h with evtLoop := t } := fun _ _ => ⟨fun _ _ => rfl, rfl⟩
  have e3 : EvtSame h2 h3 := .foldl _ _ (fun h l _ => .ite (latch h _) (.refl h)) _
  have e4 : EvtSame h3 h4 := .foldl _ _ (fun h m _ => .ite (loop h _) (.refl h)) _
  refine (((e1.trans e2).trans e3).trans e4).trans (.ite (.foldl _ _ (fun h c hc => .trigger alert ha ?_ h) _) (.refl _))
  simp [Hw.trigBy] at hc
  exact hc.1

/-- Raising an event changes no field of another block and nothing else of the hardware. -/
theorem Hw.raise_same (h : Hw) {n : Nat} (hn : n < 256) : EvtSame h (h.raise n) :=
  .route _ (fun h => .route _ (fun h => .refl h) (by decide) h) hn h

theorem Hw.raise_fld (h : Hw) {n : Nat} (hn : n < 256) {g : Fld} (hg : ¬evtFld g) : (h.raise n).fld g = h.fld g :=
  (Hw.raise_same h hn).fld g hg

theorem Hw.raise_flag (h : Hw) {n : Nat} (hn : n < 256) {g : Fld} (hg : ¬evtFld g) : (h.raise n).flag g = h.flag g := by
  simp [Hw.flag, Hw.raise_fld h hn hg]

/-! ## Class S counters (R10) -/

/-- A class S counter that has room counts. -/
theorem Hw.countS_room (h : Hw) {c s : Fld} {ev n : Nat} (h0 : h.flag s = false) (hr : h.fld c + n < 2 ^ c.w - 1) :
    h.countS c s ev n = h.setFld c (h.fld c + n) := by simp [Hw.countS, h0, hr]

/-- A class S counter that has saturated stays as it is. -/
theorem Hw.countS_saturated (h : Hw) {c s : Fld} {ev n : Nat} (h1 : h.flag s = true) : h.countS c s ev n = h := by
  simp [Hw.countS, h1]

/-- The count that reaches the maximum sets SAT and raises the event. -/
theorem Hw.countS_reaches (h : Hw) {c s : Fld} {ev n : Nat} (h0 : h.flag s = false) (hr : 2 ^ c.w - 1 ≤ h.fld c + n)
    (hn : n ≠ 0) : h.countS c s ev n = ((h.setFld c (2 ^ c.w - 1)).setFlag s true).raise ev := by
  simp [Hw.countS, h0, hn, Nat.not_lt.2 hr]

/-- Counting leaves every other field outside the event blocks as it was. -/
theorem Hw.countS_fld (h : Hw) {c s g : Fld} {ev : Nat} (n : Nat) (he : ev < 256) (h1 : Fld.key g ≠ Fld.key c)
    (h2 : Fld.key g ≠ Fld.key s) (hg : ¬evtFld g) : (h.countS c s ev n).fld g = h.fld g := by
  simp only [Hw.countS]
  split
  · rfl
  · split
    · exact Hw.fld_setFld_other h _ h1
    · split
      · rfl
      · rw [Hw.raise_fld _ he hg, Hw.fld_setFlag_other _ _ h2, Hw.fld_setFld_other _ _ h1]

/-! ## General memory -/

theorem Memory.wf_nil : Memory.wf [] := ⟨rfl, fun _ h => by simp at h⟩

theorem memPut_wf {m : List Host.Cell} (a : Nat) (b : Byte) (h : Memory.wf m) : Memory.wf (memPut m a b) := by
  simp only [memPut]
  split
  next => exact ⟨Tab.rising_del a h.1, fun c hc => h.2 c (Tab.mem_del hc)⟩
  next hb =>
    refine ⟨Tab.rising_put a b h.1, fun c hc => ?_⟩
    rcases Tab.mem_put hc with rfl | hc
    · exact hb
    · exact h.2 c hc

theorem memWrite_wf {m : List Host.Cell} (a : Nat) (bs : List Byte) (h : Memory.wf m) : Memory.wf (memWrite m a bs) := by
  induction bs generalizing m a with
  | nil => exact h
  | cons b bs ih => exact ih _ (memPut_wf a b h)

/-- A byte reads as it was written, and every other byte as before. -/
theorem memGet_memPut {m : List Host.Cell} (a c : Nat) (b : Byte) (h : Memory.wf m) :
    memGet (memPut m a b) c = if c = a then b else memGet m c := by
  simp only [memGet, memPut, Tab.getD]
  split
  next hb =>
    split
    next hc => subst hc; simp [Tab.get?_del_self _ h.1, hb]
    next hc => simp [Tab.get?_del_other h.1 hc]
  next hb => rw [Tab.get?_put]; split <;> rfl

/-- Written bytes read back; bytes outside them read as before. -/
theorem memGet_memWrite {m : List Host.Cell} (a c : Nat) (bs : List Byte) (h : Memory.wf m) :
    memGet (memWrite m a bs) c = if a ≤ c ∧ c < a + bs.length then bs.getD (c - a) 0#8 else memGet m c := by
  induction bs generalizing m a with
  | nil => simp only [memWrite, List.length_nil]; split; omega; rfl
  | cons b bs ih =>
    simp only [memWrite, List.length_cons]
    rw [ih _ (memPut_wf a b h), memGet_memPut a c b h]
    by_cases hc : c = a
    · subst hc
      have h1 : ¬(c + 1 ≤ c ∧ c < c + 1 + bs.length) := by omega
      simp [h1]
    · by_cases h1 : a + 1 ≤ c ∧ c < a + 1 + bs.length
      · have h2 : a ≤ c ∧ c < a + (bs.length + 1) := by omega
        have h3 : c - a = c - (a + 1) + 1 := by omega
        simp [h1, h2, h3]
      · have h2 : ¬(a ≤ c ∧ c < a + (bs.length + 1)) := by omega
        rw [if_neg h1, if_neg h2, if_neg hc]

end Sys2Proof.Machine
end

