-- ==== Sys2Proof/Laws/Frame.lean ====
section
/-! SUPPORT. Frames: each shared operation stays in a scope that holds what it changes. A lemma adds one operation to a
state already known to agree with the first, so that a frame is proved from the last operation backwards. -/

namespace Sys2Proof.Machine

theorem Agrees.refl (sc : Scope) (h : Hw) : Agrees sc h h := ⟨fun _ _ => rfl, fun p _ => by cases p <;> rfl⟩

theorem Part.same_trans {a b c : Hw} {p : Part} (x : Part.same a b p) (y : Part.same b c p) : Part.same a c p := by
  cases p <;> exact Eq.trans y x

theorem Agrees.trans {sc : Scope} {a b c : Hw} (x : Agrees sc a b) (y : Agrees sc b c) : Agrees sc a c :=
  ⟨fun g hg => (y.flds g hg).trans (x.flds g hg), fun p hp => Part.same_trans (x.parts p hp) (y.parts p hp)⟩

/-- A wider scope allows what a narrower one allows. -/
theorem Agrees.mono {s1 s2 : Scope} {a b : Hw} (hf : ∀ g, s1.has g → s2.has g) (hp : ∀ p, p ∈ s1.parts → p ∈ s2.parts)
    (x : Agrees s1 a b) : Agrees s2 a b :=
  ⟨fun g hg => x.flds g fun h => hg (hf g h), fun p h => x.parts p fun q => h (hp p q)⟩

theorem Agrees.ite {sc : Scope} {p : Prop} [Decidable p] {a b c : Hw} (x : p → Agrees sc a b) (y : ¬p → Agrees sc a c) :
    Agrees sc a (if p then b else c) := by split <;> simp_all

theorem Agrees.foldl {sc : Scope} {α : Type} {f : Hw → α → Hw} {l : List α} {a b : Hw}
    (hf : ∀ h x, x ∈ l → Agrees sc h (f h x)) (x : Agrees sc a b) : Agrees sc a (l.foldl f b) :=
  List.foldlRecOn l f x fun h agreed y hy => agreed.trans (hf h y hy)

theorem Scope.has_congr {sc : Scope} {f g : Fld} (hk : Fld.key g = Fld.key f) (h : sc.has f) : sc.has g := by
  simpa [Scope.has, Fld.block, hk] using h

theorem Agrees.setFld {sc : Scope} {a b : Hw} {f : Fld} {v : Nat} (hf : sc.has f) (x : Agrees sc a b) :
    Agrees sc a (b.setFld f v) :=
  x.trans ⟨fun g hg => Hw.fld_setFld_other b v fun hk => hg (Scope.has_congr hk hf), fun p _ => by cases p <;> rfl⟩

theorem Agrees.setFlag {sc : Scope} {a b : Hw} {f : Fld} {v : Bool} (hf : sc.has f) (x : Agrees sc a b) :
    Agrees sc a (b.setFlag f v) := x.setFld hf

theorem Agrees.setFldBit {sc : Scope} {a b : Hw} {f : Fld} {i : Nat} {v : Bool} (hf : sc.has f) (x : Agrees sc a b) :
    Agrees sc a (b.setFldBit f i v) := x.setFld hf

theorem Agrees.countW {sc : Scope} {a b : Hw} {f : Fld} {n : Nat} (hf : sc.has f) (x : Agrees sc a b) :
    Agrees sc a (b.countW f n) := x.setFld hf

theorem Agrees.free_with {sc : Scope} {a b : Hw} {v : _} (hp : Part.free ∈ sc.parts) (x : Agrees sc a b) :
    Agrees sc a { b with free := v } :=
  x.trans ⟨fun _ _ => rfl, fun p h => by cases p <;> first | rfl | exact absurd hp h⟩

theorem Agrees.bus_with {sc : Scope} {a b : Hw} {v : _} (hp : Part.bus ∈ sc.parts) (x : Agrees sc a b) :
    Agrees sc a { b with bus := v } :=
  x.trans ⟨fun _ _ => rfl, fun p h => by cases p <;> first | rfl | exact absurd hp h⟩

theorem Agrees.cores_with {sc : Scope} {a b : Hw} {v : _} (hp : Part.cores ∈ sc.parts) (x : Agrees sc a b) :
    Agrees sc a { b with cores := v } :=
  x.trans ⟨fun _ _ => rfl, fun p h => by cases p <;> first | rfl | exact absurd hp h⟩

theorem Agrees.l2_with {sc : Scope} {a b : Hw} {v : _} (hp : Part.l2 ∈ sc.parts) (x : Agrees sc a b) :
    Agrees sc a { b with l2 := v } :=
  x.trans ⟨fun _ _ => rfl, fun p h => by cases p <;> first | rfl | exact absurd hp h⟩

theorem Agrees.banks_with {sc : Scope} {a b : Hw} {v : _} (hp : Part.banks ∈ sc.parts) (x : Agrees sc a b) :
    Agrees sc a { b with banks := v } :=
  x.trans ⟨fun _ _ => rfl, fun p h => by cases p <;> first | rfl | exact absurd hp h⟩

theorem Agrees.windows_with {sc : Scope} {a b : Hw} {v : _} (hp : Part.windows ∈ sc.parts) (x : Agrees sc a b) :
    Agrees sc a { b with windows := v } :=
  x.trans ⟨fun _ _ => rfl, fun p h => by cases p <;> first | rfl | exact absurd hp h⟩

theorem Agrees.iotlb_with {sc : Scope} {a b : Hw} {v : _} (hp : Part.iotlb ∈ sc.parts) (x : Agrees sc a b) :
    Agrees sc a { b with iotlb := v } :=
  x.trans ⟨fun _ _ => rfl, fun p h => by cases p <;> first | rfl | exact absurd hp h⟩

theorem Agrees.inv_with {sc : Scope} {a b : Hw} {v : _} (hp : Part.inv ∈ sc.parts) (x : Agrees sc a b) :
    Agrees sc a { b with inv := v } :=
  x.trans ⟨fun _ _ => rfl, fun p h => by cases p <;> first | rfl | exact absurd hp h⟩

theorem Agrees.tch_with {sc : Scope} {a b : Hw} {v : _} (hp : Part.tch ∈ sc.parts) (x : Agrees sc a b) :
    Agrees sc a { b with tch := v } :=
  x.trans ⟨fun _ _ => rfl, fun p h => by cases p <;> first | rfl | exact absurd hp h⟩

theorem Agrees.tlast_with {sc : Scope} {a b : Hw} {v : _} (hp : Part.tlast ∈ sc.parts) (x : Agrees sc a b) :
    Agrees sc a { b with tlast := v } :=
  x.trans ⟨fun _ _ => rfl, fun p h => by cases p <;> first | rfl | exact absurd hp h⟩

theorem Agrees.ddrTraining_with {sc : Scope} {a b : Hw} {v : _} (hp : Part.ddrTraining ∈ sc.parts) (x : Agrees sc a b) :
    Agrees sc a { b with ddrTraining := v } :=
  x.trans ⟨fun _ _ => rfl, fun p h => by cases p <;> first | rfl | exact absurd hp h⟩

theorem Agrees.ddrFit_with {sc : Scope} {a b : Hw} {v : _} (hp : Part.ddrFit ∈ sc.parts) (x : Agrees sc a b) :
    Agrees sc a { b with ddrFit := v } :=
  x.trans ⟨fun _ _ => rfl, fun p h => by cases p <;> first | rfl | exact absurd hp h⟩

theorem Agrees.clk_with {sc : Scope} {a b : Hw} {v : _} (hp : Part.clk ∈ sc.parts) (x : Agrees sc a b) :
    Agrees sc a { b with clk := v } :=
  x.trans ⟨fun _ _ => rfl, fun p h => by cases p <;> first | rfl | exact absurd hp h⟩

theorem Agrees.tp_with {sc : Scope} {a b : Hw} {v : _} (hp : Part.tp ∈ sc.parts) (x : Agrees sc a b) :
    Agrees sc a { b with tp := v } :=
  x.trans ⟨fun _ _ => rfl, fun p h => by cases p <;> first | rfl | exact absurd hp h⟩

theorem Agrees.evtLatch_with {sc : Scope} {a b : Hw} {v : _} (hp : Part.evtLatch ∈ sc.parts) (x : Agrees sc a b) :
    Agrees sc a { b with evtLatch := v } :=
  x.trans ⟨fun _ _ => rfl, fun p h => by cases p <;> first | rfl | exact absurd hp h⟩

theorem Agrees.evtLoop_with {sc : Scope} {a b : Hw} {v : _} (hp : Part.evtLoop ∈ sc.parts) (x : Agrees sc a b) :
    Agrees sc a { b with evtLoop := v } :=
  x.trans ⟨fun _ _ => rfl, fun p h => by cases p <;> first | rfl | exact absurd hp h⟩

theorem Agrees.log_with {sc : Scope} {a b : Hw} {v : _} (hp : Part.log ∈ sc.parts) (x : Agrees sc a b) :
    Agrees sc a { b with log := v } :=
  x.trans ⟨fun _ _ => rfl, fun p h => by cases p <;> first | rfl | exact absurd hp h⟩

theorem Agrees.nvm_with {sc : Scope} {a b : Hw} {v : _} (hp : Part.nvm ∈ sc.parts) (x : Agrees sc a b) :
    Agrees sc a { b with nvm := v } :=
  x.trans ⟨fun _ _ => rfl, fun p h => by cases p <;> first | rfl | exact absurd hp h⟩

theorem Agrees.key_with {sc : Scope} {a b : Hw} {v : _} (hp : Part.key ∈ sc.parts) (x : Agrees sc a b) :
    Agrees sc a { b with key := v } :=
  x.trans ⟨fun _ _ => rfl, fun p h => by cases p <;> first | rfl | exact absurd hp h⟩

theorem Agrees.debug_with {sc : Scope} {a b : Hw} {v : _} (hp : Part.debug ∈ sc.parts) (x : Agrees sc a b) :
    Agrees sc a { b with debug := v } :=
  x.trans ⟨fun _ _ => rfl, fun p h => by cases p <;> first | rfl | exact absurd hp h⟩

theorem Agrees.img_with {sc : Scope} {a b : Hw} {v : _} (hp : Part.img ∈ sc.parts) (x : Agrees sc a b) :
    Agrees sc a { b with img := v } :=
  x.trans ⟨fun _ _ => rfl, fun p h => by cases p <;> first | rfl | exact absurd hp h⟩

theorem Agrees.lnt_with {sc : Scope} {a b : Hw} {v : _} (hp : Part.lnt ∈ sc.parts) (x : Agrees sc a b) :
    Agrees sc a { b with lnt := v } :=
  x.trans ⟨fun _ _ => rfl, fun p h => by cases p <;> first | rfl | exact absurd hp h⟩

theorem Agrees.progs_with {sc : Scope} {a b : Hw} {v : _} (hp : Part.progs ∈ sc.parts) (x : Agrees sc a b) :
    Agrees sc a { b with progs := v } :=
  x.trans ⟨fun _ _ => rfl, fun p h => by cases p <;> first | rfl | exact absurd hp h⟩

theorem Agrees.adm_with {sc : Scope} {a b : Hw} {v : _} (hp : Part.adm ∈ sc.parts) (x : Agrees sc a b) :
    Agrees sc a { b with adm := v } :=
  x.trans ⟨fun _ _ => rfl, fun p h => by cases p <;> first | rfl | exact absurd hp h⟩

theorem Agrees.lpe_with {sc : Scope} {a b : Hw} {v : _} (hp : Part.lpe ∈ sc.parts) (x : Agrees sc a b) :
    Agrees sc a { b with lpe := v } :=
  x.trans ⟨fun _ _ => rfl, fun p h => by cases p <;> first | rfl | exact absurd hp h⟩

theorem Agrees.redir_with {sc : Scope} {a b : Hw} {v : _} (hp : Part.redir ∈ sc.parts) (x : Agrees sc a b) :
    Agrees sc a { b with redir := v } :=
  x.trans ⟨fun _ _ => rfl, fun p h => by cases p <;> first | rfl | exact absurd hp h⟩

theorem Agrees.keep_with {sc : Scope} {a b : Hw} {v : _} (hp : Part.keep ∈ sc.parts) (x : Agrees sc a b) :
    Agrees sc a { b with keep := v } :=
  x.trans ⟨fun _ _ => rfl, fun p h => by cases p <;> first | rfl | exact absurd hp h⟩

theorem Agrees.mor_with {sc : Scope} {a b : Hw} {v : _} (hp : Part.mor ∈ sc.parts) (x : Agrees sc a b) :
    Agrees sc a { b with mor := v } :=
  x.trans ⟨fun _ _ => rfl, fun p h => by cases p <;> first | rfl | exact absurd hp h⟩

theorem Agrees.pkt_with {sc : Scope} {a b : Hw} {v : _} (hp : Part.pkt ∈ sc.parts) (x : Agrees sc a b) :
    Agrees sc a { b with pkt := v } :=
  x.trans ⟨fun _ _ => rfl, fun p h => by cases p <;> first | rfl | exact absurd hp h⟩

theorem Agrees.can_with {sc : Scope} {a b : Hw} {v : _} (hp : Part.can ∈ sc.parts) (x : Agrees sc a b) :
    Agrees sc a { b with can := v } :=
  x.trans ⟨fun _ _ => rfl, fun p h => by cases p <;> first | rfl | exact absurd hp h⟩

theorem Agrees.dpe_with {sc : Scope} {a b : Hw} {v : _} (hp : Part.dpe ∈ sc.parts) (x : Agrees sc a b) :
    Agrees sc a { b with dpe := v } :=
  x.trans ⟨fun _ _ => rfl, fun p h => by cases p <;> first | rfl | exact absurd hp h⟩

theorem Agrees.mtr_with {sc : Scope} {a b : Hw} {v : _} (hp : Part.mtr ∈ sc.parts) (x : Agrees sc a b) :
    Agrees sc a { b with mtr := v } :=
  x.trans ⟨fun _ _ => rfl, fun p h => by cases p <;> first | rfl | exact absurd hp h⟩

theorem Agrees.bil_with {sc : Scope} {a b : Hw} {v : _} (hp : Part.bil ∈ sc.parts) (x : Agrees sc a b) :
    Agrees sc a { b with bil := v } :=
  x.trans ⟨fun _ _ => rfl, fun p h => by cases p <;> first | rfl | exact absurd hp h⟩

theorem Agrees.wch_with {sc : Scope} {a b : Hw} {v : _} (hp : Part.wch ∈ sc.parts) (x : Agrees sc a b) :
    Agrees sc a { b with wch := v } :=
  x.trans ⟨fun _ _ => rfl, fun p h => by cases p <;> first | rfl | exact absurd hp h⟩

theorem Agrees.forceSaved_with {sc : Scope} {a b : Hw} {v : _} (hp : Part.forceSaved ∈ sc.parts) (x : Agrees sc a b) :
    Agrees sc a { b with forceSaved := v } :=
  x.trans ⟨fun _ _ => rfl, fun p h => by cases p <;> first | rfl | exact absurd hp h⟩

theorem Agrees.phase_with {sc : Scope} {a b : Hw} {v : _} (hp : Part.phase ∈ sc.parts) (x : Agrees sc a b) :
    Agrees sc a { b with phase := v } :=
  x.trans ⟨fun _ _ => rfl, fun p h => by cases p <;> first | rfl | exact absurd hp h⟩

theorem Agrees.frame_with {sc : Scope} {a b : Hw} {v : _} (hp : Part.frame ∈ sc.parts) (x : Agrees sc a b) :
    Agrees sc a { b with frame := v } :=
  x.trans ⟨fun _ _ => rfl, fun p h => by cases p <;> first | rfl | exact absurd hp h⟩

theorem Agrees.awake_with {sc : Scope} {a b : Hw} {v : _} (hp : Part.awake ∈ sc.parts) (x : Agrees sc a b) :
    Agrees sc a { b with awake := v } :=
  x.trans ⟨fun _ _ => rfl, fun p h => by cases p <;> first | rfl | exact absurd hp h⟩

theorem Agrees.sys_with {sc : Scope} {a b : Hw} {v : _} (hp : Part.sys ∈ sc.parts) (x : Agrees sc a b) :
    Agrees sc a { b with sys := v } :=
  x.trans ⟨fun _ _ => rfl, fun p h => by cases p <;> first | rfl | exact absurd hp h⟩

/-- What a raised event changes lies in the scope. -/
structure Scope.events (sc : Scope) : Prop where
  evt : 0x3002 ∈ sc.blocks
  tnd : 0x302C ∈ sc.blocks
  tch : Part.tch ∈ sc.parts
  latch : Part.evtLatch ∈ sc.parts
  loop : Part.evtLoop ∈ sc.parts

theorem ownEvents_events (fs : List Fld) (ps : List Part) : (ownEvents fs ps).events := by
  constructor <;> simp [ownEvents]

theorem inBlocks_events (bs : List Nat) (ps : List Part) : (inBlocks bs ps).events := by
  constructor <;> simp [inBlocks]

theorem Agrees.ofEvtSame {sc : Scope} (he : sc.events) {a b : Hw} (x : EvtSame a b) : Agrees sc a b := by
  refine ⟨fun g hg => x.fld g fun hb => hg ?_, fun p hp => ?_⟩
  · rcases hb with hb | hb
    · refine .inr ?_
      have : Fld.block g = 0x3002 := by simp only [Fld.block]; omega
      rw [this]; exact he.evt
    · refine .inr ?_
      have : Fld.block g = 0x302C := by simp only [Fld.block]; omega
      rw [this]; exact he.tnd
  · have r := x.rest
    cases p <;> first
      | exact absurd he.tch hp
      | exact absurd he.latch hp
      | exact absurd he.loop hp
      | (rw [Part.same, ← r])

theorem Agrees.raise {sc : Scope} {a b : Hw} {n : Nat} (hn : n < 256) (he : sc.events) (x : Agrees sc a b) :
    Agrees sc a (b.raise n) := x.trans (.ofEvtSame he (Hw.raise_same b hn))

theorem Agrees.countS {sc : Scope} {a b : Hw} {c s : Fld} {ev n : Nat} (hn : ev < 256) (he : sc.events) (hc : sc.has c)
    (hs : sc.has s) (x : Agrees sc a b) : Agrees sc a (b.countS c s ev n) := by
  simp only [Hw.countS]
  exact .ite (fun _ => x) fun _ => .ite (fun _ => x.setFld hc) fun _ => .ite (fun _ => x) fun _ =>
    ((x.setFld hc).setFlag hs).raise hn he

theorem Agrees.present {sc : Scope} {a b : Hw} {c sv m d p : Nat} (hp : Part.log ∈ sc.parts) (x : Agrees sc a b) :
    Agrees sc a (b.present c sv m d p) := x.log_with hp

theorem Agrees.record {sc : Scope} {a b : Hw} {c m d p : Nat} (hp : Part.log ∈ sc.parts) (x : Agrees sc a b) :
    Agrees sc a (b.record c m d p) := x.log_with hp

theorem Agrees.useFree {sc : Scope} {a b : Hw} (hp : Part.free ∈ sc.parts) (x : Agrees sc a b) :
    Agrees sc a b.useFree := x.free_with hp

theorem Agrees.recordFree {sc : Scope} {a b : Hw} {c m d : Nat} (hl : Part.log ∈ sc.parts) (hp : Part.free ∈ sc.parts)
    (x : Agrees sc a b) : Agrees sc a (b.recordFree c m d) := (x.record hl).useFree hp

theorem Agrees.respond {sc : Scope} {a b : Hw} {d : List Byte} (hp : Part.bus ∈ sc.parts) (x : Agrees sc a b) :
    Agrees sc a (b.respond d) := x.bus_with hp

theorem Agrees.submit {sc : Scope} {a b : Hw} {t k : Nat} {d : List Byte} {u : Purpose} (hp : Part.nvm ∈ sc.parts)
    (x : Agrees sc a b) : Agrees sc a (b.submit t k d u) := x.nvm_with hp

end Sys2Proof.Machine
end

