-- ==== Sys2Proof/Laws/Cache.lean ====
section
/-! SUPPORT. What waking a bank and moving a cache line can do: the banks that wake, the lists of lines, and nothing else. -/

namespace Sys2Proof.Machine

/-- An access adds banks to those awake; it lets none sleep and changes nothing else (R47). -/
theorem Hw.wakeBank_adds (h : Hw) (b : Bank) : ∃ l, h.wakeBank b = { h with banks := h.banks ++ l } := by
  by_cases awake : h.banks.contains b = true
  · exact ⟨[], by simp only [Hw.wakeBank, awake, ite_true, List.append_nil]⟩
  · exact ⟨[b], by simp only [Hw.wakeBank, awake]; rfl⟩

theorem Hw.wake_adds (h : Hw) (addr len : Nat) : ∃ l, h.wake addr len = { h with banks := h.banks ++ l } := by
  refine List.foldlRecOn (motive := fun (x : Hw) => ∃ l : List Bank, x = { h with banks := h.banks ++ l }) _ _ ⟨[], by simp⟩ fun x ⟨l, hx⟩ a _ => ?_
  subst hx
  split
  · split
    · obtain ⟨l', e⟩ := Hw.wakeBank_adds { h with banks := h.banks ++ l } ‹Bank›
      exact ⟨l ++ l', by rw [e]; simp⟩
    · exact ⟨l, rfl⟩
  · exact ⟨l, rfl⟩

/-- A bank that an access has woken stays awake over further accesses. -/
theorem Hw.wake_keeps {h : Hw} {b : Bank} (addr len : Nat) (awake : b ∈ h.banks) : b ∈ (h.wake addr len).banks := by
  obtain ⟨l, e⟩ := h.wake_adds addr len
  rw [e]; exact List.mem_append_left l awake

theorem Agrees.wake {sc : Scope} {a b : Hw} {addr len : Nat} (hp : Part.banks ∈ sc.parts) (x : Agrees sc a b) :
    Agrees sc a (b.wake addr len) := by
  obtain ⟨l, e⟩ := b.wake_adds addr len
  rw [e]; exact x.banks_with hp

theorem Agrees.setCore {sc : Scope} {a b : Hw} {k : Nat} {c : Core} (hp : Part.cores ∈ sc.parts) (x : Agrees sc a b) :
    Agrees sc a (b.setCore k c) := x.cores_with hp

theorem Agrees.dropLine {sc : Scope} {a b : Hw} {k la : Nat} (hp : Part.cores ∈ sc.parts) (x : Agrees sc a b) :
    Agrees sc a (b.dropLine k la) := x.setCore hp

theorem Agrees.dropCode {sc : Scope} {a b : Hw} {k la : Nat} (hp : Part.cores ∈ sc.parts) (x : Agrees sc a b) :
    Agrees sc a (b.dropCode k la) := x.setCore hp

theorem Agrees.dropL2 {sc : Scope} {a b : Hw} {la : Nat} (hp : Part.l2 ∈ sc.parts) (x : Agrees sc a b) :
    Agrees sc a (b.dropL2 la) := x.l2_with hp

/-- Changes that move down from the data caches touch the lists of lines alone. -/
theorem Agrees.pullDown {sc : Scope} {a b : Hw} {la : Nat} {leave : Nat → Bool} (hc : Part.cores ∈ sc.parts)
    (hl : Part.l2 ∈ sc.parts) (x : Agrees sc a b) : Agrees sc a (b.pullDown la leave) := by
  simp only [Hw.pullDown]
  refine .foldl (fun h e _ => ?_) (x.l2_with hl)
  exact .ite (fun _ => (Agrees.refl sc h).dropLine hc) fun _ => (Agrees.refl sc h).setCore hc

end Sys2Proof.Machine
end

