-- ==== Sys2Proof/Laws/Events.lean ====
section
/-! SUPPORT. Events: a raised event reaches every context its route names, and no pending bit falls while events are
raised. -/

namespace Sys2Proof.Machine

/-- Setting a bit of a number sets that bit and keeps the others. -/
theorem testBit_setBit_true (v i j : Nat) : (setBit v i true).testBit j = (decide (j = i) || v.testBit j) := by
  simp only [setBit]
  split
  next h =>
    by_cases hj : j = i
    · subst hj; simp [h]
    · simp [hj]
  next h =>
    have h0 : v.testBit i = false := by simpa using h
    simp only [if_true]
    rw [show v + 2 ^ i = v ||| 2 ^ i by
      apply Nat.eq_of_testBit_eq
      intro k
      rw [Nat.testBit_or, Nat.testBit_two_pow]
      by_cases hk : k = i
      · subst hk; rw [Nat.add_comm, Nat.testBit_two_pow_add_eq]; simp [h0]
      · have : ¬i = k := fun e => hk e.symm
        simp only [this, decide_false, Bool.or_false]
        rcases Nat.lt_or_gt_of_ne hk with hlt | hgt
        · rw [Nat.add_comm, Nat.testBit_two_pow_add_gt hlt]
        · have hz : v / 2 ^ i % 2 = 0 := by
            have := Nat.testBit_eq_decide_div_mod_eq (x := v) (i := i)
            rw [h0] at this
            simp at this
            omega
          have e1 : (v + 2 ^ i) / 2 ^ (i + 1) = v / 2 ^ (i + 1) := by
            rw [Nat.pow_succ, ← Nat.div_div_eq_div_mul, ← Nat.div_div_eq_div_mul,
              Nat.add_div_right _ (Nat.two_pow_pos i)]
            omega
          obtain ⟨d, rfl⟩ : ∃ d, k = (i + 1) + d := ⟨k - (i + 1), by omega⟩
          rw [Nat.testBit_eq_decide_div_mod_eq, Nat.testBit_eq_decide_div_mod_eq, Nat.pow_add 2 (i + 1) d,
            ← Nat.div_div_eq_div_mul, ← Nat.div_div_eq_div_mul, e1]]
    rw [Nat.testBit_or, Nat.testBit_two_pow, Bool.or_comm]
    congr 1
    exact decide_eq_decide.2 ⟨Eq.symm, Eq.symm⟩

/-- Routes of events, as they stand in the EVT block. -/
abbrev routeFld (g : Fld) : Prop := 0x30020400 * 64 ≤ Fld.key g ∧ Fld.key g < 0x30021000 * 64

/-- Every pending bit that was set stays set, and the routes stay. -/
structure PendUp (h h' : Hw) : Prop where
  pend : ∀ c w i, c < 9 → w < 4 → i < 64 → h.fldBit (EVT_PEND c w) i = true → h'.fldBit (EVT_PEND c w) i = true
  routes : ∀ g, routeFld g → h'.fld g = h.fld g

theorem PendUp.refl (h : Hw) : PendUp h h := ⟨fun _ _ _ _ _ _ x => x, fun _ _ => rfl⟩

theorem PendUp.trans {a b c : Hw} (x : PendUp a b) (y : PendUp b c) : PendUp a c :=
  ⟨fun k w i hk hw hi p => y.pend k w i hk hw hi (x.pend k w i hk hw hi p),
    fun g hg => (y.routes g hg).trans (x.routes g hg)⟩

theorem PendUp.ofFlds {h h' : Hw} (e : h'.flds = h.flds) : PendUp h h' := by
  have : ∀ g, h'.fld g = h.fld g := fun g => by simp only [Hw.fld, e]
  exact ⟨fun c w i _ _ _ x => by simpa only [Hw.fldBit, this] using x, fun g _ => this g⟩

/-- A field that is neither a pending register nor a route. -/
abbrev noPend (f : Fld) : Prop :=
  ¬routeFld f ∧ ¬(0x30021000 * 64 ≤ Fld.key f ∧ Fld.key f < 0x30030000 * 64)

theorem noPend_key {f : Fld} {c w : Nat} (hf : noPend f) (hc : c < 9) (hw : w < 4) :
    Fld.key (EVT_PEND c w) ≠ Fld.key f := by
  intro hk
  have h2 := hf.2
  rw [← hk] at h2
  simp only [Fld.key, EVT_PEND] at h2
  omega

theorem PendUp.setFld (h : Hw) {f : Fld} (v : Nat) (hf : noPend f) : PendUp h (h.setFld f v) := by
  refine ⟨fun c w i hc hw hi x => ?_, fun g hg => Hw.fld_setFld_other h v fun e => hf.1 ?_⟩
  · simpa only [Hw.fldBit, Hw.fld_setFld_other h v (noPend_key hf hc hw)] using x
  · simpa only [routeFld, e] using hg

theorem Hw.fldBit_setPend {h : Hw} {c n k w i : Nat} (hc : c < 9) (hn : n < 256) (_hk : k < 9) (hw : w < 4) (hi : i < 64) :
    (h.setPend c n).fldBit (EVT_PEND k w) i =
      (decide (k = c ∧ w = n / 64 ∧ i = n % 64) || h.fldBit (EVT_PEND k w) i) := by
  simp only [Hw.setPend, Hw.setFldBit, Hw.fldBit, Hw.fld_setFld]
  split
  next he =>
    have e : k = c ∧ w = n / 64 := by simp only [Fld.key, EVT_PEND] at he; omega
    obtain ⟨rfl, rfl⟩ := e
    rw [show (EVT_PEND k (n / 64)).w = 64 from rfl, Nat.testBit_mod_two_pow, testBit_setBit_true]
    simp [hi]
  next he =>
    have : ¬(k = c ∧ w = n / 64 ∧ i = n % 64) := fun ⟨a, b, _⟩ => he (by rw [a, b])
    simp [this]

theorem PendUp.setPend (h : Hw) {c n : Nat} (hc : c < 9) (hn : n < 256) : PendUp h (h.setPend c n) := by
  refine ⟨fun k w i hk hw hi x => ?_, fun g hg => Hw.fld_setFld_other h _ fun e => ?_⟩
  · rw [Hw.fldBit_setPend hc hn hk hw hi, x]; simp
  · rw [routeFld, e] at hg; simp only [Fld.key, EVT_PEND] at hg; omega

theorem PendUp.foldl {α : Type} (f : Hw → α → Hw) (l : List α) (hf : ∀ h a, a ∈ l → PendUp h (f h a)) (h : Hw) :
    PendUp h (l.foldl f h) :=
  List.foldlRecOn l f (.refl h) fun g up a ha => up.trans (hf g a ha)

theorem PendUp.ite {p : Prop} [Decidable p] {h a b : Hw} (x : PendUp h a) (y : PendUp h b) :
    PendUp h (if p then a else b) := by split <;> assumption

theorem noPend_state {n : Nat} (hn : n < 64) : noPend (TND_CH_STAT_STATE n) := by
  simp only [noPend, routeFld, Fld.key, TND_CH_STAT_STATE]; omega
theorem noPend_chPend {n : Nat} (hn : n < 64) : noPend (TND_CH_STAT_PEND n) := by
  simp only [noPend, routeFld, Fld.key, TND_CH_STAT_PEND]; omega

theorem PendUp.trigger (alert : Hw → Hw) (ha : ∀ h, PendUp h (alert h)) {n : Nat} (hn : n < 64) (h : Hw) :
    PendUp h (h.trigger alert n) := by
  have lost : ∀ v, PendUp h (h.setFld TND_TRIGLOST_COUNT v) := fun v => .setFld h v (by decide)
  simp only [Hw.trigger]
  refine .ite ((PendUp.setFld h _ (noPend_state hn)).trans (.ofFlds rfl)) (.ite (.ite ?_ (.setFld h _ (noPend_chPend hn)))
    (.refl h))
  refine PendUp.trans ?_ (ha _)
  exact .ite (.refl h) (.ite ((lost _).trans (.setFld _ _ (by decide))) (lost _))

theorem PendUp.route (alert : Hw → Hw) (ha : ∀ h, PendUp h (alert h)) {n : Nat} (hn : n < 256) (h : Hw) :
    PendUp h (h.route alert n) := by
  unfold Hw.route
  extract_lets h1 h2 h3 h4
  have e1 : PendUp h h1 := .foldl _ _ (fun h c hc => .ite (.setPend h (by simp at hc; omega) hn) (.refl h)) _
  have e2 : PendUp h1 h2 := .ite (.setPend _ (by omega) hn) (.refl _)
  have latch : ∀ (h : Hw) (t : Tab (BitVec 256)), PendUp h { h with evtLatch := t } := fun _ _ => .ofFlds rfl
  have loop : ∀ (h : Hw) (t : Tab (List Nat)), PendUp h { h with evtLoop := t } := fun _ _ => .ofFlds rfl
  have e3 : PendUp h2 h3 := .foldl _ _ (fun h l _ => .ite (latch h _) (.refl h)) _
  have e4 : PendUp h3 h4 := .foldl _ _ (fun h m _ => .ite (loop h _) (.refl h)) _
  refine (((e1.trans e2).trans e3).trans e4).trans (.ite (.foldl _ _ (fun h c hc => .trigger alert ha ?_ h) _) (.refl _))
  simp [Hw.trigBy] at hc
  exact hc.1

/-- No raised event clears a pending bit or changes a route. -/
theorem Hw.raise_up (h : Hw) {n : Nat} (hn : n < 256) : PendUp h (h.raise n) :=
  .route _ (fun h => .route _ (fun h => .refl h) (by decide) h) hn h

/-- The first part of a route sets the pending bit of each context it names. -/
theorem route_fold_sets {n : Nat} (hn : n < 256) (l : List Nat) (hl : ∀ c ∈ l, c < 8) (h : Hw) {c : Nat} (hc : c ∈ l)
    (hr : h.fldBit (EVT_ROUTE_CTX n) c = true) :
    (l.foldl (fun h c => if h.fldBit (EVT_ROUTE_CTX n) c then h.setPend c n else h) h).fldBit
      (EVT_PEND c (n / 64)) (n % 64) = true := by
  have rt : routeFld (EVT_ROUTE_CTX n) := by simp only [routeFld, Fld.key, EVT_ROUTE_CTX]; omega
  induction l generalizing h with
  | nil => simp at hc
  | cons a l ih =>
    have ha : a < 9 := by have := hl a (by simp); omega
    have step : PendUp h (if h.fldBit (EVT_ROUTE_CTX n) a then h.setPend a n else h) :=
      .ite (.setPend h ha hn) (.refl h)
    simp only [List.foldl_cons]
    by_cases e : c ∈ l
    · exact ih (fun c hc => hl c (by simp [hc])) _ e (by rw [Hw.fldBit, step.routes _ rt]; exact hr)
    · have e : c = a := by simpa [e] using hc
      subst e
      have up : ∀ h, PendUp h (l.foldl (fun h c => if h.fldBit (EVT_ROUTE_CTX n) c then h.setPend c n else h) h) :=
        .foldl _ _ fun h c hc => .ite (.setPend h (by have := hl c (by simp [hc]); omega) hn) (.refl h)
      refine (up _).pend c _ _ ha (by omega) (by omega) ?_
      rw [if_pos hr, Hw.fldBit_setPend ha hn ha (by omega) (by omega)]
      simp

/-- A raised event is pending in every context that its route names (R558, R559). -/
theorem Hw.raise_signals (h : Hw) {n : Nat} (hn : n < 256) : Signals n h (h.raise n) := by
  intro c hc
  have rt : routeFld (EVT_ROUTE_CTX n) := by simp only [routeFld, Fld.key, EVT_ROUTE_CTX]; omega
  have hb := route_fold_sets hn (List.range 8) (fun c hc => by simpa using hc) h (c := c.val) (by simp) hc
  have ha : ∀ h, PendUp h (Hw.route id 203 h) := fun h => .route _ (fun h => .refl h) (by decide) h
  simp only [Hw.raise]
  unfold Hw.route
  extract_lets h1 h2 h3 h4
  have e2 : PendUp h1 h2 := .ite (.setPend _ (by omega) hn) (.refl _)
  have latch : ∀ (h : Hw) (t : Tab (BitVec 256)), PendUp h { h with evtLatch := t } := fun _ _ => .ofFlds rfl
  have loop : ∀ (h : Hw) (t : Tab (List Nat)), PendUp h { h with evtLoop := t } := fun _ _ => .ofFlds rfl
  have e3 : PendUp h2 h3 := .foldl _ _ (fun h l _ => .ite (latch h _) (.refl h)) _
  have e4 : PendUp h3 h4 := .foldl _ _ (fun h m _ => .ite (loop h _) (.refl h)) _
  refine (((e2.trans e3).trans e4).trans (.ite (.foldl _ _ (fun h c hc => .trigger _ ha ?_ h) _) (.refl _))).pend _ _ _
    (by omega) (by omega) (by omega) hb
  simp [Hw.trigBy] at hc
  exact hc.1

/-- What keeps pending bits keeps a signal. -/
theorem Signals.then {n : Nat} (hn : n < 256) {a b c : Hw} (x : Signals n a b) (y : PendUp b c) : Signals n a c :=
  fun k hk => y.pend _ _ _ (by omega) (by omega) (by omega) (x k hk)

/-- A signal counts from any earlier state with the same routes. -/
theorem Signals.after {n : Nat} (hn : n < 256) {a b c : Hw} (x : PendUp a b) (y : Signals n b c) : Signals n a c := by
  intro k hk
  have rt : routeFld (EVT_ROUTE_CTX n) := by simp only [routeFld, Fld.key, EVT_ROUTE_CTX]; omega
  exact y k (by simpa only [Hw.fldBit, x.routes _ rt] using hk)

/-- A raise keeps a signal. -/
theorem Signals.raise {n m : Nat} {a b : Hw} (hn : n < 256) (hm : m < 256) (x : Signals n a b) : Signals n a (b.raise m) :=
  x.then hn (b.raise_up hm)

theorem Signals.setFld {n v : Nat} {a b : Hw} {f : Fld} (hn : n < 256) (hf : noPend f) (x : Signals n a b) :
    Signals n a (b.setFld f v) := x.then hn (.setFld b v hf)

theorem Signals.setFlag {n : Nat} {v : Bool} {a b : Hw} {f : Fld} (hn : n < 256) (hf : noPend f) (x : Signals n a b) :
    Signals n a (b.setFlag f v) := x.setFld hn hf

/-! ## Records -/

/-- A presented record waits for the Logbook, which is otherwise as it was. -/
theorem Hw.present_records (h : Hw) (c sv m d p : Nat) : Records c (some p) h (h.present c sv m d p) :=
  ⟨_, rfl, fun q e => by cases e; rfl, rfl⟩

theorem Hw.record_records (h : Hw) (c m d p : Nat) : Records c (some p) h (h.record c m d p) := h.present_records _ _ _ _ _

/-- A record whose parameter is a free value. -/
theorem Hw.recordFree_records (h : Hw) (c m d : Nat) : Records c none h (h.recordFree c m d) :=
  let ⟨r, h1, _, h3⟩ := h.record_records c m d (h.freeVal 64)
  ⟨r, h1, fun _ e => by simp at e, h3⟩

/-- What leaves the Logbook alone before and after keeps the claim of one record. -/
theorem Records.congr {c : Nat} {p : Option Nat} {a b a' b' : Hw} (x : Records c p a b) (e : a.log = a'.log)
    (f : b'.log = b.log) : Records c p a' b' := by
  obtain ⟨r, h1, h2, h3⟩ := x
  exact ⟨r, h1, h2, by rw [f, h3, e]⟩

theorem Hw.raise_rest (h : Hw) {n : Nat} (hn : n < 256) :
    ({ h.raise n with flds := h.flds, tch := h.tch, evtLatch := h.evtLatch, evtLoop := h.evtLoop } : Hw) = h :=
  (Hw.raise_same h hn).rest

theorem PendUp.countS (h : Hw) {c s : Fld} {ev n : Nat} (he : ev < 256) (hc : noPend c) (hs : noPend s) :
    PendUp h (h.countS c s ev n) := by
  simp only [Hw.countS]
  refine .ite (.refl h) (.ite (.setFld h _ hc) (.ite (.refl h) ?_))
  exact ((PendUp.setFld h _ hc).trans (.setFld _ _ hs)).trans (Hw.raise_up _ he)

end Sys2Proof.Machine
end

