-- ==== Sys2Proof/Laws/Memory.lean ====
section
/-! SUPPORT. Every operation that writes general memory keeps its canonical form; what a block's write stores. -/

namespace Sys2Proof.Machine

/-- What each write of a run of writes keeps of the state's memory, the run keeps. -/
theorem foldl_keeps {σ ι : Type} {inv : σ → Prop} {write : σ → ι → σ} (keep : ∀ s i, inv s → inv (write s i)) (todo : List ι) (s₀ : σ)
    (start : inv s₀) : inv (todo.foldl write s₀) :=
  List.foldlRecOn todo write start fun s hs i _ => keep s i hs

theorem restoreBytes_wf {m : List Host.Cell} (t : Tab Byte) (h : Memory.wf m) : Memory.wf (restoreBytes m t) :=
  foldl_keeps (inv := fun m => Memory.wf m) (fun _ e hm => memPut_wf e.1 e.2 hm) t m h

theorem memWrites_wf {m : List Host.Cell} (l : List (Nat × List Byte)) (h : Memory.wf m) :
    Memory.wf (l.foldl (fun m w => memWrite m w.1 w.2) m) :=
  foldl_keeps (inv := fun m => Memory.wf m) (fun _ e hm => memWrite_wf e.1 e.2 hm) l m h

/-! ## Cache lines -/

@[simp] theorem State.onHw_wf {s : State} (f : Hw → Hw) : Memory.wf (s.onHw f).mem ↔ Memory.wf s.mem := Iff.rfl

/-- A line that leaves changes memory only by bringing back the bytes beneath its changes. -/
theorem State.lineOut_mem (s : State) (l : Line) (answered : Bool) :
    (s.lineOut l answered).mem = s.mem ∨ (s.lineOut l answered).mem = restoreBytes s.mem l.under := by
  unfold State.lineOut
  repeat' split
  all_goals first | exact .inl rfl | exact .inr rfl

theorem State.lineOut_wf {s : State} (l : Line) (answered : Bool) (h : Memory.wf s.mem) : Memory.wf (s.lineOut l answered).mem := by
  rcases s.lineOut_mem l answered with e | e <;> rw [e]
  · exact h
  · exact restoreBytes_wf _ h

theorem State.flushLine_wf {s : State} (la : Nat) (h : Memory.wf s.mem) : Memory.wf (s.flushLine la).mem := by
  unfold State.flushLine State.flushLineWith
  dsimp only
  split
  · exact State.lineOut_wf _ _ h
  · exact h

theorem State.evictAll_wf {s : State} (addr n : Nat) (h : Memory.wf s.mem) : Memory.wf (s.evictAll addr n).mem :=
  foldl_keeps (inv := fun s : State => Memory.wf s.mem) (fun _ la hs => State.flushLine_wf la hs) _ s h

theorem State.blockWrite_wf {s : State} (addr : Nat) (data : List Byte) (h : Memory.wf s.mem) : Memory.wf (s.blockWrite addr data).mem :=
  memWrite_wf _ _ (State.evictAll_wf addr data.length h)

theorem State.blockWrites_wf {s : State} (l : List (Nat × List Byte)) (h : Memory.wf s.mem) :
    Memory.wf (l.foldl (fun (s : State) w => s.blockWrite w.1 w.2) s).mem :=
  foldl_keeps (inv := fun s : State => Memory.wf s.mem) (fun _ w hs => State.blockWrite_wf w.1 w.2 hs) _ s h

theorem State.conform_wf {s : State} (k dom : Nat) (kind : TKind) (la : Nat) (h : Memory.wf s.mem) :
    Memory.wf (s.conform k dom kind la).mem := by
  have code : ∀ t : State, t.mem = s.mem → Memory.wf (if kind = .fetch ∧ t.hw.l1Hit k dom la kind = true then t
      else if t.hw.foreign dom la then t.flushLine la else t).mem := fun t ht => by
    have ht := ht ▸ h
    repeat' split
    all_goals first | exact ht | exact State.flushLine_wf la ht
  refine code _ ?_
  repeat' split
  all_goals rfl

theorem State.fillL2_wf {s : State} (k dom la : Nat) (write : Bool) (h : Memory.wf s.mem) : Memory.wf (s.fillL2 k dom la write).mem := by
  unfold State.fillL2
  split
  · exact h
  · dsimp only [State.onHw_mem]
    repeat' split
    all_goals first | exact h | exact State.flushLine_wf _ h

theorem State.fill_wf {s : State} (k dom : Nat) (kind : TKind) (la : Nat) (h : Memory.wf s.mem) : Memory.wf (s.fill k dom kind la).mem := by
  unfold State.fill
  dsimp only
  split
  · exact h
  · exact State.fillL2_wf _ _ _ _ h

theorem State.inCache_wf {s : State} (k : Nat) (kind : TKind) (addr n : Nat) (data : List Byte) (h : Memory.wf s.mem) :
    Memory.wf (s.inCache k kind addr n data).mem := by
  unfold State.inCache
  split
  · exact memWrite_wf _ _ h
  · exact h

theorem State.cachedAccess_wf {s : State} (k dom : Nat) (kind : TKind) (addr n : Nat) (data : List Byte) (fate : TFate)
    (h : Memory.wf s.mem) : Memory.wf (s.cachedAccess k dom kind addr n data fate).mem := by
  have conformed := foldl_keeps (inv := fun s : State => Memory.wf s.mem) (write := fun s la => s.conform k dom kind la)
    (fun _ la hs => State.conform_wf k dom kind la hs) (linesOf addr n) s h
  unfold State.cachedAccess
  dsimp only
  split
  · exact conformed
  · split
    · exact conformed
    · exact State.inCache_wf _ _ _ _ _ (foldl_keeps (inv := fun s : State => Memory.wf s.mem)
        (fun _ la hs => State.fill_wf k dom kind la hs) _ _ conformed)

theorem State.loseChanges_wf {s : State} (la : Nat) (under : Tab Byte) (h : Memory.wf s.mem) :
    Memory.wf (s.loseChanges la under).mem := by
  refine foldl_keeps (inv := fun s : State => Memory.wf s.mem) (fun s e hs => ?_) _ s h
  split
  · exact hs
  · exact memPut_wf _ _ hs

theorem State.cacheError_wf {s : State} (k : Nat) (err : CacheErr) (addr : Nat) (store : Bool) (h : Memory.wf s.mem) :
    Memory.wf (s.cacheError k err addr store).mem := by
  unfold State.cacheError
  dsimp only
  repeat' split
  all_goals first
    | exact h
    | exact restoreBytes_wf _ h
    | exact State.cachedAccess_wf _ _ _ _ _ _ _ h
    | exact State.cachedAccess_wf _ _ _ _ _ _ _ (State.flushLine_wf _ h)
    | exact State.flushLine_wf _ (State.loseChanges_wf _ _ h)

/-! ## Empty caches -/

theorem Hw.pullDown_empty {h : Hw} (none : NoLines h) (la : Nat) (leave : Nat → Bool) : h.pullDown la leave = h := by
  cases h
  simp_all [Hw.pullDown, none.data la]

/-- With no line in a data cache or the L2 nothing leaves them. -/
theorem State.flushLine_empty {s : State} (none : NoLines s.hw) (la : Nat) : s.flushLine la = s := by
  simp [State.flushLine, State.flushLineWith, State.onHw, Hw.pullDown_empty none, Hw.l2Line, none.l2]

theorem State.evictAll_empty {s : State} (none : NoLines s.hw) (addr n : Nat) : s.evictAll addr n = s :=
  foldl_keeps (inv := fun t => t = s) (fun t la ht => by rw [ht, State.flushLine_empty none]) _ s rfl

/-- A block's write with no line in a data cache or the L2 stores its bytes and wakes their bank. -/
theorem State.blockWrite_empty {s : State} (none : NoLines s.hw) (addr : Nat) (data : List Byte) :
    s.blockWrite addr data = { s with mem := memWrite s.mem addr data, hw := s.hw.wake addr data.length } := by
  simp [State.blockWrite, State.evictAll_empty none]

/-! ## Writes of blocks -/

/-- A block's write stores its bytes, or it is a violation and memory is as before. -/
theorem State.putBlock_mem (s : State) (master dom addr : Nat) (b : List Byte) :
    (s.putBlock master dom addr b).mem =
      if s.hw.writeAs master dom addr b.length = none then (s.blockWrite addr b).mem else s.mem := by
  unfold State.putBlock
  split
  next h => simp [h]
  next h => simp [h]

theorem State.putBlock_wf {s : State} (master dom addr : Nat) (b : List Byte) (h : Memory.wf s.mem) :
    Memory.wf (s.putBlock master dom addr b).mem := by
  rw [State.putBlock_mem]
  split
  · exact State.blockWrite_wf addr b h
  · exact h

theorem State.putAs_wf {s : State} (master addr : Nat) (b : List Byte) (h : Memory.wf s.mem) : Memory.wf (s.putAs master addr b).mem :=
  State.putBlock_wf master 0 addr b h

theorem State.ckTake_wf {s : State} (i : WIn) (m : WatchMsg) (h : Memory.wf s.mem) : Memory.wf (s.ckTake i m).mem := by
  unfold State.ckTake
  dsimp only
  repeat' split
  all_goals first | exact h | exact State.blockWrite_wf _ _ h

theorem jobDone_wf {s : State} (e : Nat) (h : Memory.wf s.mem) : Memory.wf (jobDone e s).mem := by
  unfold jobDone
  split
  · exact h
  · split
    · exact h
    · dsimp only
      split
      · exact h
      · exact State.blockWrites_wf _ h

theorem nvmReadDone_wf {s : State} (lost : Bool) (h : Memory.wf s.mem) : Memory.wf (nvmReadDone lost s).mem := by
  unfold nvmReadDone
  split
  · exact h
  · dsimp only
    repeat' split
    all_goals first | exact h | exact State.blockWrite_wf _ _ h

/-- A reset leaves memory that lists nothing. -/
theorem State.resetTo_mem (cause : Nat) (s : State) : (s.resetTo cause).mem = [] := rfl

/-! ## Writes of the image and of loop memory leave general memory -/

theorem State.imageBurst_mem (master dom addr : Nat) (data : List Byte) (s : State) : (s.imageBurst master dom addr data).mem = s.mem := by
  unfold State.imageBurst
  dsimp only
  repeat' split
  all_goals first
    | rfl
    | refine foldl_keeps (inv := fun t : State => t.mem = s.mem) (fun t i h => ?_) _ s rfl
      exact h

theorem State.loopBurst_mem (master dom m addr : Nat) (data : List Byte) (s : State) :
    (s.loopBurst master dom m addr data).mem = s.mem := by
  unfold State.loopBurst
  dsimp only
  split
  · rfl
  · refine foldl_keeps (inv := fun t : State => t.mem = s.mem) (fun t w h => ?_) _ s rfl
    exact h

end Sys2Proof.Machine
end

