-- ==== Sys2Proof/Laws/Raise.lean ====
section
/-! SUPPORT. A raised event and a class S counter leave every part of the hardware but the event parts as it was. -/

namespace Sys2Proof.Machine

@[simp] theorem Hw.raise_free (h : Hw) {n : Nat} (hn : n < 256) : (h.raise n).free = h.free := by
  have := congrArg Hw.free (h.raise_rest hn); exact this

@[simp] theorem Hw.countS_free (h : Hw) {c s : Fld} {ev n : Nat} (he : ev < 256) : (h.countS c s ev n).free = h.free := by
  simp only [Hw.countS]
  repeat' split
  all_goals first | rfl | (rw [Hw.raise_free _ he]; rfl)

@[simp] theorem Hw.raise_bus (h : Hw) {n : Nat} (hn : n < 256) : (h.raise n).bus = h.bus := by
  have := congrArg Hw.bus (h.raise_rest hn); exact this

@[simp] theorem Hw.countS_bus (h : Hw) {c s : Fld} {ev n : Nat} (he : ev < 256) : (h.countS c s ev n).bus = h.bus := by
  simp only [Hw.countS]
  repeat' split
  all_goals first | rfl | (rw [Hw.raise_bus _ he]; rfl)

@[simp] theorem Hw.raise_cores (h : Hw) {n : Nat} (hn : n < 256) : (h.raise n).cores = h.cores := by
  have := congrArg Hw.cores (h.raise_rest hn); exact this

@[simp] theorem Hw.countS_cores (h : Hw) {c s : Fld} {ev n : Nat} (he : ev < 256) : (h.countS c s ev n).cores = h.cores := by
  simp only [Hw.countS]
  repeat' split
  all_goals first | rfl | (rw [Hw.raise_cores _ he]; rfl)

@[simp] theorem Hw.raise_windows (h : Hw) {n : Nat} (hn : n < 256) : (h.raise n).windows = h.windows := by
  have := congrArg Hw.windows (h.raise_rest hn); exact this

@[simp] theorem Hw.countS_windows (h : Hw) {c s : Fld} {ev n : Nat} (he : ev < 256) : (h.countS c s ev n).windows = h.windows := by
  simp only [Hw.countS]
  repeat' split
  all_goals first | rfl | (rw [Hw.raise_windows _ he]; rfl)

@[simp] theorem Hw.raise_iotlb (h : Hw) {n : Nat} (hn : n < 256) : (h.raise n).iotlb = h.iotlb := by
  have := congrArg Hw.iotlb (h.raise_rest hn); exact this

@[simp] theorem Hw.countS_iotlb (h : Hw) {c s : Fld} {ev n : Nat} (he : ev < 256) : (h.countS c s ev n).iotlb = h.iotlb := by
  simp only [Hw.countS]
  repeat' split
  all_goals first | rfl | (rw [Hw.raise_iotlb _ he]; rfl)

@[simp] theorem Hw.raise_inv (h : Hw) {n : Nat} (hn : n < 256) : (h.raise n).inv = h.inv := by
  have := congrArg Hw.inv (h.raise_rest hn); exact this

@[simp] theorem Hw.countS_inv (h : Hw) {c s : Fld} {ev n : Nat} (he : ev < 256) : (h.countS c s ev n).inv = h.inv := by
  simp only [Hw.countS]
  repeat' split
  all_goals first | rfl | (rw [Hw.raise_inv _ he]; rfl)

@[simp] theorem Hw.raise_tlast (h : Hw) {n : Nat} (hn : n < 256) : (h.raise n).tlast = h.tlast := by
  have := congrArg Hw.tlast (h.raise_rest hn); exact this

@[simp] theorem Hw.countS_tlast (h : Hw) {c s : Fld} {ev n : Nat} (he : ev < 256) : (h.countS c s ev n).tlast = h.tlast := by
  simp only [Hw.countS]
  repeat' split
  all_goals first | rfl | (rw [Hw.raise_tlast _ he]; rfl)

@[simp] theorem Hw.raise_ddrTraining (h : Hw) {n : Nat} (hn : n < 256) : (h.raise n).ddrTraining = h.ddrTraining := by
  have := congrArg Hw.ddrTraining (h.raise_rest hn); exact this

@[simp] theorem Hw.countS_ddrTraining (h : Hw) {c s : Fld} {ev n : Nat} (he : ev < 256) : (h.countS c s ev n).ddrTraining = h.ddrTraining := by
  simp only [Hw.countS]
  repeat' split
  all_goals first | rfl | (rw [Hw.raise_ddrTraining _ he]; rfl)

@[simp] theorem Hw.raise_ddrFit (h : Hw) {n : Nat} (hn : n < 256) : (h.raise n).ddrFit = h.ddrFit := by
  have := congrArg Hw.ddrFit (h.raise_rest hn); exact this

@[simp] theorem Hw.countS_ddrFit (h : Hw) {c s : Fld} {ev n : Nat} (he : ev < 256) : (h.countS c s ev n).ddrFit = h.ddrFit := by
  simp only [Hw.countS]
  repeat' split
  all_goals first | rfl | (rw [Hw.raise_ddrFit _ he]; rfl)

@[simp] theorem Hw.raise_clk (h : Hw) {n : Nat} (hn : n < 256) : (h.raise n).clk = h.clk := by
  have := congrArg Hw.clk (h.raise_rest hn); exact this

@[simp] theorem Hw.countS_clk (h : Hw) {c s : Fld} {ev n : Nat} (he : ev < 256) : (h.countS c s ev n).clk = h.clk := by
  simp only [Hw.countS]
  repeat' split
  all_goals first | rfl | (rw [Hw.raise_clk _ he]; rfl)

@[simp] theorem Hw.raise_tp (h : Hw) {n : Nat} (hn : n < 256) : (h.raise n).tp = h.tp := by
  have := congrArg Hw.tp (h.raise_rest hn); exact this

@[simp] theorem Hw.countS_tp (h : Hw) {c s : Fld} {ev n : Nat} (he : ev < 256) : (h.countS c s ev n).tp = h.tp := by
  simp only [Hw.countS]
  repeat' split
  all_goals first | rfl | (rw [Hw.raise_tp _ he]; rfl)

@[simp] theorem Hw.raise_log (h : Hw) {n : Nat} (hn : n < 256) : (h.raise n).log = h.log := by
  have := congrArg Hw.log (h.raise_rest hn); exact this

@[simp] theorem Hw.countS_log (h : Hw) {c s : Fld} {ev n : Nat} (he : ev < 256) : (h.countS c s ev n).log = h.log := by
  simp only [Hw.countS]
  repeat' split
  all_goals first | rfl | (rw [Hw.raise_log _ he]; rfl)

@[simp] theorem Hw.raise_nvm (h : Hw) {n : Nat} (hn : n < 256) : (h.raise n).nvm = h.nvm := by
  have := congrArg Hw.nvm (h.raise_rest hn); exact this

@[simp] theorem Hw.countS_nvm (h : Hw) {c s : Fld} {ev n : Nat} (he : ev < 256) : (h.countS c s ev n).nvm = h.nvm := by
  simp only [Hw.countS]
  repeat' split
  all_goals first | rfl | (rw [Hw.raise_nvm _ he]; rfl)

@[simp] theorem Hw.raise_key (h : Hw) {n : Nat} (hn : n < 256) : (h.raise n).key = h.key := by
  have := congrArg Hw.key (h.raise_rest hn); exact this

@[simp] theorem Hw.countS_key (h : Hw) {c s : Fld} {ev n : Nat} (he : ev < 256) : (h.countS c s ev n).key = h.key := by
  simp only [Hw.countS]
  repeat' split
  all_goals first | rfl | (rw [Hw.raise_key _ he]; rfl)

@[simp] theorem Hw.raise_debug (h : Hw) {n : Nat} (hn : n < 256) : (h.raise n).debug = h.debug := by
  have := congrArg Hw.debug (h.raise_rest hn); exact this

@[simp] theorem Hw.countS_debug (h : Hw) {c s : Fld} {ev n : Nat} (he : ev < 256) : (h.countS c s ev n).debug = h.debug := by
  simp only [Hw.countS]
  repeat' split
  all_goals first | rfl | (rw [Hw.raise_debug _ he]; rfl)

@[simp] theorem Hw.raise_img (h : Hw) {n : Nat} (hn : n < 256) : (h.raise n).img = h.img := by
  have := congrArg Hw.img (h.raise_rest hn); exact this

@[simp] theorem Hw.countS_img (h : Hw) {c s : Fld} {ev n : Nat} (he : ev < 256) : (h.countS c s ev n).img = h.img := by
  simp only [Hw.countS]
  repeat' split
  all_goals first | rfl | (rw [Hw.raise_img _ he]; rfl)

@[simp] theorem Hw.raise_lnt (h : Hw) {n : Nat} (hn : n < 256) : (h.raise n).lnt = h.lnt := by
  have := congrArg Hw.lnt (h.raise_rest hn); exact this

@[simp] theorem Hw.countS_lnt (h : Hw) {c s : Fld} {ev n : Nat} (he : ev < 256) : (h.countS c s ev n).lnt = h.lnt := by
  simp only [Hw.countS]
  repeat' split
  all_goals first | rfl | (rw [Hw.raise_lnt _ he]; rfl)

@[simp] theorem Hw.raise_progs (h : Hw) {n : Nat} (hn : n < 256) : (h.raise n).progs = h.progs := by
  have := congrArg Hw.progs (h.raise_rest hn); exact this

@[simp] theorem Hw.countS_progs (h : Hw) {c s : Fld} {ev n : Nat} (he : ev < 256) : (h.countS c s ev n).progs = h.progs := by
  simp only [Hw.countS]
  repeat' split
  all_goals first | rfl | (rw [Hw.raise_progs _ he]; rfl)

@[simp] theorem Hw.raise_adm (h : Hw) {n : Nat} (hn : n < 256) : (h.raise n).adm = h.adm := by
  have := congrArg Hw.adm (h.raise_rest hn); exact this

@[simp] theorem Hw.countS_adm (h : Hw) {c s : Fld} {ev n : Nat} (he : ev < 256) : (h.countS c s ev n).adm = h.adm := by
  simp only [Hw.countS]
  repeat' split
  all_goals first | rfl | (rw [Hw.raise_adm _ he]; rfl)

@[simp] theorem Hw.raise_lpe (h : Hw) {n : Nat} (hn : n < 256) : (h.raise n).lpe = h.lpe := by
  have := congrArg Hw.lpe (h.raise_rest hn); exact this

@[simp] theorem Hw.countS_lpe (h : Hw) {c s : Fld} {ev n : Nat} (he : ev < 256) : (h.countS c s ev n).lpe = h.lpe := by
  simp only [Hw.countS]
  repeat' split
  all_goals first | rfl | (rw [Hw.raise_lpe _ he]; rfl)

@[simp] theorem Hw.raise_redir (h : Hw) {n : Nat} (hn : n < 256) : (h.raise n).redir = h.redir := by
  have := congrArg Hw.redir (h.raise_rest hn); exact this

@[simp] theorem Hw.countS_redir (h : Hw) {c s : Fld} {ev n : Nat} (he : ev < 256) : (h.countS c s ev n).redir = h.redir := by
  simp only [Hw.countS]
  repeat' split
  all_goals first | rfl | (rw [Hw.raise_redir _ he]; rfl)

@[simp] theorem Hw.raise_keep (h : Hw) {n : Nat} (hn : n < 256) : (h.raise n).keep = h.keep := by
  have := congrArg Hw.keep (h.raise_rest hn); exact this

@[simp] theorem Hw.countS_keep (h : Hw) {c s : Fld} {ev n : Nat} (he : ev < 256) : (h.countS c s ev n).keep = h.keep := by
  simp only [Hw.countS]
  repeat' split
  all_goals first | rfl | (rw [Hw.raise_keep _ he]; rfl)

@[simp] theorem Hw.raise_mor (h : Hw) {n : Nat} (hn : n < 256) : (h.raise n).mor = h.mor := by
  have := congrArg Hw.mor (h.raise_rest hn); exact this

@[simp] theorem Hw.countS_mor (h : Hw) {c s : Fld} {ev n : Nat} (he : ev < 256) : (h.countS c s ev n).mor = h.mor := by
  simp only [Hw.countS]
  repeat' split
  all_goals first | rfl | (rw [Hw.raise_mor _ he]; rfl)

@[simp] theorem Hw.raise_pkt (h : Hw) {n : Nat} (hn : n < 256) : (h.raise n).pkt = h.pkt := by
  have := congrArg Hw.pkt (h.raise_rest hn); exact this

@[simp] theorem Hw.countS_pkt (h : Hw) {c s : Fld} {ev n : Nat} (he : ev < 256) : (h.countS c s ev n).pkt = h.pkt := by
  simp only [Hw.countS]
  repeat' split
  all_goals first | rfl | (rw [Hw.raise_pkt _ he]; rfl)

@[simp] theorem Hw.raise_can (h : Hw) {n : Nat} (hn : n < 256) : (h.raise n).can = h.can := by
  have := congrArg Hw.can (h.raise_rest hn); exact this

@[simp] theorem Hw.countS_can (h : Hw) {c s : Fld} {ev n : Nat} (he : ev < 256) : (h.countS c s ev n).can = h.can := by
  simp only [Hw.countS]
  repeat' split
  all_goals first | rfl | (rw [Hw.raise_can _ he]; rfl)

@[simp] theorem Hw.raise_dpe (h : Hw) {n : Nat} (hn : n < 256) : (h.raise n).dpe = h.dpe := by
  have := congrArg Hw.dpe (h.raise_rest hn); exact this

@[simp] theorem Hw.countS_dpe (h : Hw) {c s : Fld} {ev n : Nat} (he : ev < 256) : (h.countS c s ev n).dpe = h.dpe := by
  simp only [Hw.countS]
  repeat' split
  all_goals first | rfl | (rw [Hw.raise_dpe _ he]; rfl)

@[simp] theorem Hw.raise_mtr (h : Hw) {n : Nat} (hn : n < 256) : (h.raise n).mtr = h.mtr := by
  have := congrArg Hw.mtr (h.raise_rest hn); exact this

@[simp] theorem Hw.countS_mtr (h : Hw) {c s : Fld} {ev n : Nat} (he : ev < 256) : (h.countS c s ev n).mtr = h.mtr := by
  simp only [Hw.countS]
  repeat' split
  all_goals first | rfl | (rw [Hw.raise_mtr _ he]; rfl)

@[simp] theorem Hw.raise_bil (h : Hw) {n : Nat} (hn : n < 256) : (h.raise n).bil = h.bil := by
  have := congrArg Hw.bil (h.raise_rest hn); exact this

@[simp] theorem Hw.countS_bil (h : Hw) {c s : Fld} {ev n : Nat} (he : ev < 256) : (h.countS c s ev n).bil = h.bil := by
  simp only [Hw.countS]
  repeat' split
  all_goals first | rfl | (rw [Hw.raise_bil _ he]; rfl)

@[simp] theorem Hw.raise_wch (h : Hw) {n : Nat} (hn : n < 256) : (h.raise n).wch = h.wch := by
  have := congrArg Hw.wch (h.raise_rest hn); exact this

@[simp] theorem Hw.countS_wch (h : Hw) {c s : Fld} {ev n : Nat} (he : ev < 256) : (h.countS c s ev n).wch = h.wch := by
  simp only [Hw.countS]
  repeat' split
  all_goals first | rfl | (rw [Hw.raise_wch _ he]; rfl)

@[simp] theorem Hw.raise_forceSaved (h : Hw) {n : Nat} (hn : n < 256) : (h.raise n).forceSaved = h.forceSaved := by
  have := congrArg Hw.forceSaved (h.raise_rest hn); exact this

@[simp] theorem Hw.countS_forceSaved (h : Hw) {c s : Fld} {ev n : Nat} (he : ev < 256) : (h.countS c s ev n).forceSaved = h.forceSaved := by
  simp only [Hw.countS]
  repeat' split
  all_goals first | rfl | (rw [Hw.raise_forceSaved _ he]; rfl)

@[simp] theorem Hw.raise_phase (h : Hw) {n : Nat} (hn : n < 256) : (h.raise n).phase = h.phase := by
  have := congrArg Hw.phase (h.raise_rest hn); exact this

@[simp] theorem Hw.countS_phase (h : Hw) {c s : Fld} {ev n : Nat} (he : ev < 256) : (h.countS c s ev n).phase = h.phase := by
  simp only [Hw.countS]
  repeat' split
  all_goals first | rfl | (rw [Hw.raise_phase _ he]; rfl)

@[simp] theorem Hw.raise_awake (h : Hw) {n : Nat} (hn : n < 256) : (h.raise n).awake = h.awake := by
  have := congrArg Hw.awake (h.raise_rest hn); exact this

@[simp] theorem Hw.countS_awake (h : Hw) {c s : Fld} {ev n : Nat} (he : ev < 256) : (h.countS c s ev n).awake = h.awake := by
  simp only [Hw.countS]
  repeat' split
  all_goals first | rfl | (rw [Hw.raise_awake _ he]; rfl)

@[simp] theorem Hw.raise_sys (h : Hw) {n : Nat} (hn : n < 256) : (h.raise n).sys = h.sys := by
  have := congrArg Hw.sys (h.raise_rest hn); exact this

@[simp] theorem Hw.countS_sys (h : Hw) {c s : Fld} {ev n : Nat} (he : ev < 256) : (h.countS c s ev n).sys = h.sys := by
  simp only [Hw.countS]
  repeat' split
  all_goals first | rfl | (rw [Hw.raise_sys _ he]; rfl)

end Sys2Proof.Machine
end

