-- ==== Sys2Proof/Tests/Slice0.lean ====
section
/-! SUPPORT. The model's own tests: WellFormed refuses ill-formed commands, words of the two instruction sets written out from
the spec decode to what they stand for, and each statement's hypotheses are met by a concrete state and operands. -/

namespace Sys2Proof.Tests

set_option Elab.async false

open Sys2Proof Sys2Proof.Machine

/-- The state after reset with an operation on its hardware. -/
def st (f : Hw → Hw) : State := State.reset.onHw f

/-- A source: master and domain. -/
def from_ (m : Master) (d : BitVec 8) : Src := ⟨m, d⟩

/-- A transaction of a master, one byte at an address. -/
def txn (m : Master) (k : TKind) (a : BitVec 64) : Txn := ⟨m, .lower, .own, false, false, k, a, 1, [0x5A#8]⟩

/-- A program of domain 5 that owns the point `p` and has one task. -/
def prog5 (p : Nat) : Program := ⟨5, 1, [], [], [], [], [], [], [p], [], [], [], [], [], none, 100⟩

/-- Lantern 3 runs task 1 of program 2, with what `f` makes of it. -/
def lantern (f : Lantern → Lantern) : State := st fun h => h.setLan 3 (f { Lantern.reset with doing := .running 2 1 true })

theorem lantern_runs (f : Lantern → Lantern) (h : (f { Lantern.reset with doing := .running 2 1 true }).doing = .running 2 1 true) :
    ((lantern f).hw.lan 3).Runs := ⟨2, 1, true, h⟩

/-- Loop engine 1 with slot 5 enabled, with what `f` makes of it. -/
def engine (f : LoopEngine → LoopEngine) : State := st fun h => h.setEng 1 (f ((h.eng 1).setFlag 5 dEn true))

/-! ## Witnesses: a concrete state and operands for the hypotheses of every statement -/

theorem witness_RegisterAccess :
    Tab.get? (st fun h => { h with bus := { h.bus with held := [(20, ⟨0x30040028, 7⟩)] } }).hw.bus.held 20 = some ⟨0x30040028, 7⟩ ∧
    ((0x80000000#64).getLsbD 31 = true ∧ (from_ .keeper 0#8).master.val = 4) ∧
    (st id).hw.region 0x30040000 = .regs 4 ∧ (st id).hw.region 0x0FFFFFFFFF = .unmapped ∧
    Tab.get? (st fun h => { h with bus := { h.bus with shadow := [(20, ⟨0x30040008, 1⟩)] } }).hw.bus.shadow 20 = some ⟨0x30040008, 1⟩ := by
  decide +kernel

/-- M4 has every access, a master without a window none. -/
theorem witness_BusAndTimeouts :
    let write := txn .keeper .write 0x20000000#64
    let read := txn .keeper .read 0x20000000#64
    let far : Txn := { txn .packet .write 0x20000000#64 with use_ := .descriptor }
    let s0 := State.reset.hw
    let full (t : Txn) : State := st fun h => { h with bus := { h.bus with outst := List.replicate 8 ⟨t, 0⟩ } }
    let one (t : Txn) : State := st fun h => { h with bus := { h.bus with outst := [⟨t, 0⟩] } }
    let shut : State := st fun h => { h with bus := { h.bus with isolated := [18] } }
    (Memory.wf State.reset.mem ∧ Issues s0 write 0 ∧ s0.region 0x20000000 = .sram ∧ s0.accessCheck 4 0 0x20000000 1 .write = none) ∧
    NoLines s0 ∧
    (Issues s0 read 0 ∧ (∀ i < read.size, s0.region (0x20000000 + i) = .sram) ∧ s0.accessCheck 4 0 0x20000000 1 .read = none) ∧
    (Issues s0 far 0 ∧ s0.accessCheck 20 0 0x20000000 1 .write = some .noWindow) ∧
    credits 4 ≤ ((full read).hw.outstOf 4).length ∧
    (s0.txnDom (txn .packet .fetch 0#64) = none ∧
      (st fun h => { h with phase := .open_ }).hw.phase = .open_) ∧
    ((one far).hw.bus.outst = [⟨far, 0⟩] ∧ 4 ≤ far.master.val ∧ far.master.val < 64) ∧
    (s0.txnDom far = some 0 ∧ s0.mayIssue far = true ∧ shut.hw.bus.stalled = [] ∧ shut.hw.portClosed 20 0x20000000 = true) := by
  unfold Issues
  refine ⟨by decide +kernel, ⟨fun _ => rfl, rfl⟩, ?_⟩
  decide +kernel

/-- A transaction that waits for its credit. -/
theorem witness_stalled :
    let read := txn .keeper .read 0x20000000#64
    let s := st fun h => { h with bus := { h.bus with stalled := [⟨read, 0⟩] } }
    s.hw.bus.outst = [] ∧ s.hw.bus.stalled = [⟨read, 0⟩] ∧ s.hw.mayIssue read = true ∧ s.hw.portClosed 4 0x20000000 = false ∧
      (∀ i < read.size, s.hw.region (0x20000000 + i) = .sram) ∧ s.hw.accessCheck 4 0 0x20000000 1 .read = none := by
  decide +kernel

/-- A zone of direction IN and class LANDING, and one of direction OUT; zone 2 is not in use. -/
def laidOut : State := st fun h => { h with img := { h.img with zones := [(0, 1), (1, 2)], types := [(0, 2), (128, 2)] } }

theorem witness_Landings :
    let far := from_ .packet 0#8
    (laidOut.hw.reaches 0 (zoneOf 127) = true ∧ laidOut.hw.isInput 127 = true ∧ classOk (laidOut.hw.zoneSrc 0) far.master.val = true) ∧
    classOk (laidOut.hw.zoneSrc 0) (from_ (.host 3) 0#8).master.val = false ∧ laidOut.hw.isUnused 256 = true ∧
    laidOut.hw.reaches 5 (zoneOf 127) = false ∧ laidOut.hw.flag IMG_DROPCNT_SAT = false ∧
    laidOut.hw.fld IMG_DROPCNT_COUNT < 2 ^ 31 - 2 ∧ Admits (laidOut.onHw fun h => { h with windows := [(3 * 2048 + 20 * 16, ⟨7, 1 + 0xFFFFFFF * 4096⟩)] }).hw far (0x21100000 + 8 * 127) 8 ∧
    laidOut.hw.accessCheck 0 0 (0x21100000 + 8 * 127) 8 .write = some .noWindow ∧
    (st fun h => { h with bus := { h.bus with isolated := [18] } }).hw.portClosed 20 (0x21100000 + 8 * 127) = true := by
  unfold Admits
  decide +kernel

/-- Entry 7 forces point 127. -/
def forced : State := laidOut.onHw fun h => ((h.setFld (FRC_ENT_POINT 7) 127).setFlag (FRC_ENT_ACTIVE 7) true).setFld (FRC_ENT_VALUE 7) 9

/-- 593,920 bytes of SRAM that nothing has written make a layout table of unused zones. -/
theorem blank_table (x : Hw) :
    (List.range 593920).map (fun i => x.plainByte [] (0x20000000 + i)) = List.replicate 593920 0#8 := by
  have h : ∀ i ∈ List.range 593920, x.plainByte [] (0x20000000 + i) = 0#8 := by
    intro i hi
    have hi := List.mem_range.1 hi
    have r : x.region (0x20000000 + i) = .sram := by
      simp only [Hw.region]
      rw [if_neg (by omega), if_neg (by omega), if_pos (by omega)]
    simp only [Hw.plainByte, r]
    rfl
  rw [List.map_congr_left h, List.map_const', List.length_range]

theorem zero_bytes (n : Nat) : ofBytes (List.replicate n 0#8) = 0 := by
  induction n with
  | zero => rfl
  | succ n ih => simp [List.replicate_succ, ofBytes, ih]

theorem zero_zones (n k : Nat) : (chunks 4 n (List.replicate k 0#8)).all zoneWordOk = true := by
  induction n generalizing k with
  | zero => rfl
  | succ n ih =>
    rw [chunks, List.drop_replicate, List.take_replicate, zero_bytes, List.all_cons, ih]
    rfl

/-- Erased flash makes one whose zone words are not of the form. -/
theorem erased_table : ∀ i < 4, State.reset.hw.plainByte [] (0x10000000 + i) = 0xFF#8 := by decide +kernel

def tableWin (base : Nat) (h : Hw) : Hw := { h with windows := [((if base = 0x20000000 then 2 else 1) * 2048 + 25 * 16, ⟨7, 1 + 0xFFFFFFF * 4096⟩)] }

theorem witness_ForcesOwnersLayout :
    let d0 := from_ .keeper 0#8
    let off := 127#64
    let on := 0x40000#64 + 127#64
    (laidOut.hw.flag (FRC_ENT_ACTIVE 7) = false ∧ off.getLsbD 18 = false ∧ laidOut.hw.fld (FRC_ENT_DOMAIN 7) < 256) ∧
    (on.getLsbD 18 = true ∧ laidOut.hw.forceReason d0 7 on.toNat = 0 ∧ laidOut.hw.flag FRC_CTRL_RETAIN = false) ∧
    (forced.hw.flag (FRC_ENT_ACTIVE 7) = true ∧ forced.hw.forceReason d0 7 off.toNat = 0 ∧ forced.hw.flag FRC_CTRL_RETAIN = false) ∧
    laidOut.hw.forceReason d0 7 (0x40000 + 256) = 1 ∧ laidOut.hw.forceReason d0 7 (0x40000 + 128) = 2 ∧
    laidOut.hw.forceReason (from_ .keeper 5#8) 7 on.toNat = 3 ∧ forced.hw.forceReason d0 8 on.toNat = 4 ∧
    forced.hw.forceReason (from_ .keeper 5#8) 7 off.toNat = 5 ∧
    ((List.range 4).any fun i => laidOut.hw.zoneTaken i 3) = false ∧
    ((List.range 4).any fun i => (laidOut.onHw fun h => { h with progs := [(0, ⟨0, 0, prog5 127⟩)] }).hw.zoneTaken i 3) = true ∧
    laidOut.hw.flag IMG_STAT_LBUSY = false := by
  decide +kernel

theorem witness_layout_read :
    (State.reset.onHw (tableWin 0x20000000)).hw.readAs [] 25 0 0x20000000 593920 = .ok (List.replicate 593920 0#8) ∧
    (chunks 4 1024 (List.replicate 593920 0#8)).all zoneWordOk = true := by
  constructor
  · have h : (State.reset.onHw (tableWin 0x20000000)).hw.rangeCheck 25 0 0x20000000 593920 .read = none := by decide +kernel
    unfold Hw.readAs
    rw [h]
    exact congrArg Except.ok (blank_table _)
  · exact zero_zones 1024 593920

/-- A station of port 0 with an output load above the port's (one entry in place of the 23 that a host would write). -/
def busy : State := st fun h => { h with flds := [(Fld.key (PKT_ST_W0_OUTEN 3), 1), (Fld.key (PKT_ST_W2_OUT2_CNT 3), 94400)] }

theorem witness_StationTables :
    laidOut.hw.stationBad 1535 (2 ^ 5 + 2 ^ 13) 0 = false ∧ laidOut.hw.stationBad 1535 0 0 = true ∧
    (0x2000000000000000#64).getLsbD 61 = true ∧ laidOut.hw.flag (PKT_ST_W0_OUTEN 1535) = false ∧
    (bits (busy.hw.stationWritten 1535 false) 1 1 = 0 ∧ 94400 < busy.hw.sumOthers 0 1535 +
      sumPart 0 (busy.hw.stationWritten 1535 false) (busy.hw.stationWritten 1535 true) 0) := by
  decide +kernel

theorem witness_UlcBitLogic : ((lantern fun x => { x with ns := [.bracket true .xor] }).hw.lan 3).Runs ∧
    ((lantern fun x => { x with ns := [.bracket true .xor] }).hw.lan 3).ns = [.bracket true .xor] :=
  ⟨lantern_runs _ rfl, rfl⟩

theorem witness_UlcStoresAndBlocks :
    ((lantern id).hw.lan 3).Runs ∧ ((lantern id).hw.lan 3).enb = true ∧ ((lantern id).hw.lan 3).ba = false ∧
    ((lantern fun x => { x with ba := true }).hw.lan 3).ba = true ∧ ((lantern fun x => { x with enb := false }).hw.lan 3).enb = false ∧
    ((lantern fun x => { x with ns := [.block true true false] }).hw.lan 3).ns = [.block true true false] :=
  ⟨lantern_runs _ rfl, by decide +kernel⟩

/-- Entry 9 of the timers and of the counters. -/
def timed (t : Timer) (c : Counter) (ba : Bool) (wa : Word) : State :=
  lantern fun x => { x with ba := ba, wa := wa, tmr := [(9, t)], ctr := [(9, c)] }

theorem witness_UlcTimersAndCounters :
    let x := fun (t : Timer) (c : Counter) (ba : Bool) (wa : Word) => (timed t c ba wa).hw.lan 3
    let t0 : Timer := ⟨0, false, false, false, false⟩
    let running : Timer := ⟨4, true, true, true, false⟩
    let c0 (v : Nat) : Counter := ⟨v, false, false, false⟩
    (∀ t c ba wa, (x t c ba wa).Runs) ∧ (x t0 (c0 0) false 0).enb = true ∧ (x t0 (c0 0) true 0).ba = true ∧
    ((x t0 (c0 0) true 0).timer 9).inp = false ∧ ((x running (c0 0) true 5).timer 9).inp = true ∧
    ((x running (c0 0) true 5).timer 9).run = true ∧ ((x running (c0 0) true 5).timer 9).et < 5 ∧
    ((x t0 (c0 0) true 0).timer 9).run = false ∧ ((x t0 (c0 (2 ^ 32 - 3)) true 0).counter 9).cv < 2 ^ 32 - 2 ∧
    ((x t0 (c0 (2 ^ 32 - 2)) true 0).counter 9).cv = 2 ^ 32 - 2 ∧ ((x t0 (c0 (2 ^ 32 - 2)) true 0).counter 9).cv < 2 ^ 32 - 1 ∧
    ((x t0 (c0 (2 ^ 32 - 1)) true 0).counter 9).cv = 2 ^ 32 - 1 ∧ 1 < ((x t0 (c0 2) true 0).counter 9).cv ∧
    ((x t0 (c0 0) true 0).counter 9).sat = false ∧ ((x t0 (c0 0) true 0).counter 9).inp = false :=
  ⟨fun _ _ _ _ => lantern_runs _ rfl, by decide +kernel⟩

theorem witness_UlcMoves : ((lantern id).hw.lan 3).Runs ∧ ((lantern id).hw.lan 3).enb = true :=
  ⟨lantern_runs _ rfl, by decide +kernel⟩

theorem witness_UlcIntegerArithmetic : ((lantern fun x => { x with wb := 7#32 }).hw.lan 3).Runs ∧
    ((lantern fun x => { x with wb := 7#32 }).hw.lan 3).wb ≠ 0#32 ∧ ((lantern id).hw.lan 3).wb = 0#32 :=
  ⟨lantern_runs _ rfl, by decide +kernel⟩

theorem witness_UlcRealArithmetic :
    let x := (lantern fun x => { x with wa := 0x7FC00000#32, cst := [(0, 1#32), (1, 2#32)] }).hw.lan 3
    x.Runs ∧ F32.isNan x.wa = true ∧ (x.const 0).toInt ≤ (x.const 1).toInt :=
  ⟨lantern_runs _ rfl, by decide +kernel⟩

/-- A loop of two passes in its first, a call to return from, a second task due. -/
def nested : State := lantern fun x => { x with loops := [⟨5, 2, 0, 0, 0⟩], cs := [9], due := [(2, 2)] }

theorem witness_UlcControl :
    (nested.hw.lan 3).Runs ∧ ((nested.hw.lan 3).loops = [] ++ [⟨5, 2, 0, 0, 0⟩] ∧ 0 + 1 < 2 ∧ 0 < 5 ∧ 5 < 2 ^ 15) ∧
    ((lantern fun x => { x with loops := [⟨5, 2, 0, 0, 1⟩] }).hw.lan 3).loops = [] ++ [⟨5, 2, 0, 0, 1⟩] ∧
    (nested.hw.blockStart 2 0 < 2 ^ 15 ∧ (nested.hw.lan 3).cs = 9 :: [] ∧ (nested.hw.lan 3).due = (2, 2) :: []) ∧
    (let s := (lantern id).onHw fun h => h.setFld (FRM_TL_ADM 3) 100
     (s.hw.lan 3).due = [] ∧ (s.hw.lan 3).ticks + 1 ≤ s.hw.fld (FRM_TL_ADM 3) ∧ s.hw.fld (FRM_TL_ADM 3) < 2 ^ 20) ∧
    (State.reset.hw.lan 3).doing = .waiting :=
  ⟨lantern_runs _ rfl, by decide +kernel⟩

theorem witness_LoopCommands :
    let e := (engine id).hw.eng 1
    e.flag 4 dEn = false ∧ e.flag 5 dEn = true ∧ e.staged = none ∧ (5#8).toNat ≠ e.get 5 dDomain ∧ (0#8).toNat = e.get 5 dDomain ∧
    (toSigned 16 (bits (e.word 5 13).toNat 0 16) ≤ toSigned 16 (bits (e.word 5 13).toNat 16 16) ∧
      bits (e.word 5 14).toNat 0 16 ≤ 32767) ∧
    ¬toSigned 16 (bits 0xFFFF0000 0 16) ≤ toSigned 16 (bits 0xFFFF0000 16 16) ∧
    ((engine fun e => { e with staged := some ⟨5, 0, false, 0, false, []⟩ }).hw.eng 1).staged.isSome = true ∧
    State.reset.hw.flag (LPE_INJ_CTRL_ACTIVE 1 3) = false ∧
    (st fun h => h.setFlag (LPE_INJ_CTRL_ACTIVE 1 3) true).hw.flag (LPE_INJ_CTRL_ACTIVE 1 3) = true ∧
    State.reset.hw.flag (LPE_CAP_CTRL_ACTIVE 1 3) = false ∧
    (st fun h => h.setFlag (LPE_CAP_CTRL_ACTIVE 1 3) true).hw.flag (LPE_CAP_CTRL_ACTIVE 1 3) = true ∧
    Admits State.reset.hw (from_ .keeper 0#8) (0x25000000 + 1 * 0x100000 + 4 * 0xA4) 4 ∧
    State.reset.hw.portClosed 20 0x25000000 = false ∧ State.reset.hw.accessCheck 20 0 0x25000000 4 .write = some .noWindow := by
  unfold Admits
  decide +kernel

/-- Lantern 3 holds program 2 with one task, which is due in every frame, or in none. -/
def placed (f : Hw → Hw) (period : Nat) : State := (lantern fun x => { x with doing := .waiting }).onHw fun h =>
  f { h with phase := .started, progs := [(2, ⟨3, 0, { prog5 127 with tasks := [⟨0, 0, period, period - 1⟩] }⟩)] }

theorem witness_EngineWindows :
    let on := placed (fun h => (List.range 8).foldl (fun (h : Hw) l => h.setFld (FRM_TL_ADM l) 100) h)
    ((on 1).hw.phase = .started ∧ (∀ l < 8, 12 ≤ (on 1).hw.fld (FRM_TL_ADM l))) ∧ (on 1).hw.lntRuns 2 = false ∧
    ((on 1).hw.lntRuns 3 = true ∧ (on 1).hw.dueTasks 3 = [(2, 0)]) ∧ ((on 2).hw.lntRuns 3 = true ∧ (on 2).hw.dueTasks 3 = []) ∧
    (0x08#8).getLsbD 3 = true ∧
    (∀ l < 8, ((st fun h => { h with phase := .open_ }).hw.lan l).doing = .ended ∨ ((st fun h => { h with phase := .open_ }).hw.lan l).doing = .waiting) ∧
    ((lantern id).onHw fun h => { h with phase := .open_ }).hw.phase = .open_ ∧ ((lantern id).hw.lan 3).doing = .running 2 1 true ∧
    (State.reset.hw.flag (LNT_ECCCNT_SAT 3) = false ∧ State.reset.hw.fld (LNT_ECCCNT_COUNT 3) < 2 ^ 31 - 2) ∧
    (∀ k : Fin 2, (State.reset.hw.eng k).left = [] ∧ (State.reset.hw.eng k).cycles ≤ State.reset.hw.fld (FRM_TL_ADM (8 + k)) ∧
      State.reset.hw.fld (FRM_TL_ADM (8 + k)) < 2 ^ 20) ∧
    ((engine fun e => { e with left := [5, 6] }).hw.eng 1).left = 5 :: [6] ∧
    (State.reset.hw.flag (LPE_ECCCNT_SAT 1) = false ∧ State.reset.hw.fld (LPE_ECCCNT_COUNT 1) < 2 ^ 31 - 2) ∧
    ((engine id).hw.eng 1).flag ((5 * 128 : Nat) / 128) dEn = true := by
  decide +kernel

/-- A solve under way, with what `f` makes of the engine. -/
def solving (f : Dpe → Dpe) : State := st fun h => { h.setFld DPE_STAT_STATE 4 with dpe := f Dpe.reset }

/-- A problem of one variable with a section of each kind. -/
def problem : DProblem :=
  ⟨1, 0, 0, 0, 0, 0, 0, 0, [⟨1, false, false, 0, 0x100, 64⟩, ⟨2, false, false, 0, 0x200, 64⟩, ⟨3, false, false, 0, 0x300, 64⟩,
    ⟨4, false, false, 0, 0x400, 64⟩, ⟨5, true, false, 0, 0x500, 64⟩, ⟨6, false, false, 0, 0x600, 64⟩, ⟨7, false, false, 0, 0x700, 64⟩]⟩

theorem witness_BalsilScalar :
    let s := solving fun x => { x with prob := some problem }
    s.hw.fld DPE_STAT_STATE = 4 ∧ ((0x500#32 + s.hw.iReg 0).toNat + 4 ≤ 2 ^ 23 ∧ s.hw.writeFault (0x500#32 + s.hw.iReg 0).toNat 4 = none) ∧
    2 ^ 23 < (0x7FFFFD#32 + s.hw.iReg 0).toNat + 4 ∧
    ((⟨1, false, false, 0, 0x100, 64⟩ : DSection) ∈ s.hw.dSecs ∧ 0x100 ≤ (0x13F#32 + s.hw.iReg 0).toNat ∧
      (0x13F#32 + s.hw.iReg 0).toNat < 0x100 + 64 ∧ (0x13F#32 + s.hw.iReg 0).toNat + 4 ≤ 2 ^ 23) := by
  decide +kernel

theorem witness_BalsilVector :
    let s := solving fun x => { x with prob := some problem, facOk := true, vd := [(1, 0x500, 1), (2, 0x504, 1), (3, 0x508, 2)] }
    s.hw.fld DPE_STAT_STATE = 4 ∧ s.hw.writeFault (s.hw.vdOf 1).1 4 = none ∧
    ((s.hw.vdOf 2).2 = (s.hw.vdOf 1).2 ∧ (s.hw.vdOf 2).1 + 4 * (s.hw.vdOf 2).2 ≤ 2 ^ 23) ∧ (s.hw.vdOf 3).2 ≠ (s.hw.vdOf 1).2 ∧
    ((s.hw.csr 0).toOption.any fun k => k.cols == 0 && k.rows == 0) = true ∧ (s.hw.vdOf 0).2 = 0 ∧
    ((s.hw.csr 1).toOption.any fun k => k.rows == 0) = true ∧
    (s.hw.dpe.prob = some problem ∧ s.hw.secOf 4 = some ⟨4, false, false, 0, 0x400, 64⟩ ∧
      s.hw.secOf 3 = some ⟨3, false, false, 0, 0x300, 64⟩ ∧ (s.hw.vdOf 2).2 = problem.n ∧
      (s.hw.vdOf 0).2 = problem.m) ∧ (s.hw.dpe.facOk = true ∧ (s.hw.vdOf 1).2 = problem.n + problem.m) ∧
    (solving id).hw.dpe.facOk = false := by
  decide +kernel

theorem witness_BalsilControl :
    let s := solving fun x => { x with prog := some ⟨9, 0, 5, []⟩, icap := 1, cst := [3] }
    s.hw.fld DPE_STAT_STATE = 4 ∧ (s.hw.dpe.cst.length < 8 ∧ s.hw.dpe.cst = 3 :: []) ∧
    8 ≤ (solving fun x => { x with cst := List.replicate 8 3 }).hw.dpe.cst.length ∧ (solving id).hw.dpe.cst = [] ∧
    (min (s.hw.fld DPE_ITER + 1) 65535 = s.hw.dpe.icap ∧ s.hw.dpe.capTaken = false ∧ s.hw.dpe.prog = some ⟨9, 0, 5, []⟩) ∧
    min (s.hw.fld DPE_ITER + 1) 65535 ≠ (solving id).hw.dpe.icap ∧
    ((s.hw.vdOf 0).2 = s.hw.mailCount ∧ (s.hw.vdOf 0).1 + 4 * (s.hw.vdOf 0).2 ≤ 2 ^ 23 ∧
      (s.hw.scratchWords (s.hw.vdOf 0).1 (s.hw.vdOf 0).2).all (fun w => !F32.isNan w && !F32.isInf w) = true) := by
  decide +kernel

/-- A load of a program, or of a problem, from SRAM that M18 may read. -/
def loading (prog : Bool) : State := st fun h => { h.setFld DPE_STAT_STATE 2 with
  windows := [(2 * 2048 + 18 * 16, ⟨7, 1 + 0xFFFFFFF * 4096⟩)], dpe := { Dpe.reset with load := some ⟨prog, 0x20000000⟩ } }

/-- Host 0 may write the scratch. -/
def host0 : Hw := (st fun h => { h with windows := [(7 * 2048, ⟨7, 1 + 0xFFFFFFF * 4096⟩)] }).hw

theorem witness_DispatchCommands :
    let on (n : Nat) := (st fun h => { h.setFld DPE_STAT_STATE n with dpe := { Dpe.reset with prob := some problem, prog := some ⟨9, 0, 5, []⟩ } }).hw
    (on 0).fld DPE_STAT_STATE = 0 ∧ (3 ≤ (on 3).fld DPE_STAT_STATE ∧ (on 3).fld DPE_STAT_STATE ≤ 5) ∧ (on 5).fld DPE_STAT_STATE = 5 ∧
    ((loading true).hw.dpe.load = some ⟨true, 0x20000000⟩ ∧ (loading true).hw.dpe.clearing = false) ∧
    (∀ prog : Bool,
      let g := (loading prog).hw.setDpe fun y => { y with load := none }
      (g.dImage [] .answered prog 0x20000000).1.isSome = true ∧
        (g.readAs [] 18 0 0x20000000 64).toOption.isSome = true ∧ (loading prog).hw.region (0x20000000 + 63) = .sram) ∧
    ((st fun h => { h with dpe := { Dpe.reset with staged := some ⟨[], 0, 0, none, none⟩ } }).hw.dpe.staged = some ⟨[], 0, 0, none, none⟩) ∧
    ((0#32).toNat % 65536 = 0 ∧ (2 : Nat) / 65536 < 2 % 65536 ∧ (0x10002 : Nat) % 65536 ≠ 0 ∧ (0x10002 : Nat) / 65536 ≠ 0) ∧
    ((from_ (.host 0) 0#8).master.val < 4 ∧ Admits host0 (from_ (.host 0) 0#8) (0x26000000 + 0x500) 64 ∧
      (loading true).hw.portClosed 20 (0x26000000 + 0x500) = false ∧
      (loading true).hw.accessCheck 20 0 (0x26000000 + 0x500) 64 .write = some .noWindow) ∧
    ((on 1).fld DPE_STAT_STATE = 1 ∧ ∃ q ∈ (on 1).dSecs, q.typ = 5 ∧ q.hostw = true ∧ q.off ≤ 0x500 ∧ 0x500 + 64 ≤ q.off + q.bytes) ∧
    ((on 3).secOf 6 = some ⟨6, false, false, 0, 0x600, 64⟩ ∧ (on 3).dpe.prog = some ⟨9, 0, 5, []⟩) ∧
    ((st fun h => { h.setFld DPE_STAT_STATE 5 with dpe := { Dpe.reset with staging := some ⟨[], 0, 0, none, none⟩ } }).hw.dpe.staging =
      some ⟨[], 0, 0, none, none⟩) ∧
    ((on 4).flag DPE_ECCCNT_SAT = false ∧ (on 4).fld DPE_ECCCNT_COUNT < 2 ^ 31 - 2) := by
  unfold Admits
  decide +kernel

/-- The metering runs with one channel as `f` leaves it. -/
def metering (f : MtrCh → MtrCh) : State := st fun h => (h.setFlag MTR_STAT_RUN true).setMch 3 (f { MtrCh.reset with en := true })

theorem witness_MeterSamplesAndCalibration :
    let on (c : State) := c.hw.flag MTR_STAT_RUN = true ∧ (c.hw.mch 3).en = true
    let ok := metering id
    let dead := metering fun c => { c with dead := true }
    let zero (k : Nat) := metering fun c => { c with zeros := some k }
    ¬on (st id) ∧ (on dead ∧ (dead.hw.mch 3).dead = true) ∧
    (on (zero 1) ∧ ((zero 1).hw.mch 3).dead = false ∧ ((zero 1).hw.mch 3).zeros = some (0 + 1)) ∧
    (on ok ∧ (ok.hw.mch 3).dead = false ∧ (ok.hw.mch 3).zeros = none) ∧
    (on (zero 0) ∧ ((zero 0).hw.mch 3).dead = false ∧ ((zero 0).hw.mch 3).zeros = some 0) ∧
    ((ok.hw.mch 3).cnt < 1 ∧ ok.hw.mtr.num ≤ (ok.hw.mch 3).cnt) ∧ ((ok.hw.mch 3).cnt < ok.hw.mtr.num ∨ ∀ g < 8, (ok.hw.feed g).next = none) ∧
    (let wait := ok.onHw fun h => h.setFeed 7 { h.feed 7 with next := some 1 }
     on wait ∧ wait.hw.mtr.num ≤ (wait.hw.mch 3).cnt ∧ (wait.hw.feed 7).next = some 1) ∧
    (ok.hw.mch 3).zeros ≠ some 0 ∧ (from_ .keeper 0#8).dom = 0#8 ∧ (st fun h => h.setFlag MTR_CTRL_CALLOCK true).hw.flag MTR_CTRL_CALLOCK = true ∧
    ok.hw.flag MTR_CTRL_CALLOCK = false ∧ ((1#32).getLsbD 0 = true ∧ (1#32).getLsbD 31 = false) ∧
    (((16#32).getLsbD 4 = true ∧ ok.hw.blockOk 0 = false) ∧ ((1#32).getLsbD 0 = true ∧ ok.hw.flag (MTR_F_CFG_EN 7) = false)) ∧
    (500 < (-501 : BitVec 16).toInt.natAbs ∧ (ok.hw.sfld MTR_REFDRIFT_PPM).natAbs ≤ 500) ∧
    ((500 : BitVec 16).toInt.natAbs ≤ 500 ∧ 500 < ((st fun h => h.setFld MTR_REFDRIFT_PPM 501).hw.sfld MTR_REFDRIFT_PPM).natAbs) := by
  decide +kernel

/-- Feeder 7 with all its channels enabled, in a tracker state, at sample 1,600 of a code. -/
def tracked (t : Nat) (code : Int) (start : Nat) : State := st fun h =>
  let one : MtrCh := { MtrCh.reset with en := true, buf := [⟨1, code, 0, code, 0#32, 0, false, 0⟩] }
  let h := ((h.setFlag (MTR_F_CFG_EN 7) true).setFld (MTR_F_STAT_TSTATE 7) t).setFld MTR_CTRL_NCYC 10
  { h with mtr := { h.mtr with
      num := 1600, ch := [21, 22, 23, 24, 25, 26].map fun n => (n, one), feed := [(7, ⟨1, none, [], start, start, 0, 0, 0, 0, none⟩)] } }

theorem witness_MeterWindows :
    let ready (s : State) := s.hw.fEn 7 = true ∧ s.hw.feedReady 7 = true ∧ s.hw.fRef 7 < 3
    let new (s : State) := s.hw.mtr.num * 65536
    let st7 (s : State) := s.hw.fld (MTR_F_STAT_TSTATE 7)
    let start (s : State) := (s.hw.feed 7).start
    ¬ready (st id) ∧ (ready (tracked 0 0 0) ∧ st7 (tracked 0 0 0) = 0) ∧
    (ready (tracked 1 0 104857600) ∧ st7 (tracked 1 0 104857600) ≠ 0 ∧ new (tracked 1 0 104857600) - 0 ≤ start (tracked 1 0 104857600)) ∧
    (∀ t, (t = 1 ∨ t = 2) → ready (tracked t 8388607 0) ∧ start (tracked t 8388607 0) < new (tracked t 8388607 0) ∧
      (tracked t 8388607 0).hw.qualified 7 0 (new (tracked t 8388607 0)) = true ∧ st7 (tracked t 8388607 0) = t) ∧
    (∀ t, (t = 1 ∨ t = 2) → ready (tracked t 0 0) ∧ start (tracked t 0 0) < new (tracked t 0 0) ∧
      (tracked t 0 0).hw.qualified 7 0 (new (tracked t 0 0)) = false ∧ st7 (tracked t 0 0) = t) ∧
    (st7 (tracked 2 0 104857600) = 2 ∧ new (tracked 2 0 104857600) ≤ start (tracked 2 0 104857600)) ∧
    ((tracked 0 0 0).hw.fEn 7 = true ∧ start (tracked 0 0 0) + 1600 * 65536 ≤ new (tracked 0 0 0)) ∧
    ((tracked 0 0 0).hw.mtr.spare + 1600 * 65536 ≤ new (tracked 0 0 0)) := by
  refine ⟨by decide +kernel, by decide +kernel, ?_, ?_, ?_, ?_⟩
  · decide +kernel
  · rintro t (rfl | rfl) <;> decide +kernel
  · rintro t (rfl | rfl) <;> decide +kernel
  · decide +kernel

/-- Feeder 7 with a crossing 120 samples after the last billing interval, and with a save under way. -/
def interval (f : Hw → Hw) : State := (tracked 2 8388607 0).onHw fun h =>
  f { h with mtr := { h.mtr with num := 1320, feed := [(7, ⟨1, none, [], 0, 0, 0, 0, 1200, 1200, none⟩)] } }
def saveRun (fs : List Nat) (heat written : Bool) : SaveRun := ⟨fs, heat, false, ⟨1, 60000000000, [], [], [], [], 0⟩, written, 0, false⟩

theorem witness_BillingIntervals :
    let s := interval id
    let at_ (n : Nat) (left : Option Nat) := interval fun h =>
      { h with mtr := { h.mtr with num := n, feed := [(7, ⟨1, none, [], 0, 0, 0, 0, 1200, 1200, left⟩)] } }
    let t (s : State) (k : Nat) := s.hw.ivlTariff 7 ((s.hw.feed 7).ivl * 65536) (k * 65536)
    let free (n : Nat) := (at_ n none).onHw fun h => h.setFld (MTR_F_STAT_TSTATE 7) 0
    let due := interval fun h => (((h.setFld TIM_STAT_STATE 2).setFlag (BIL_TSW_CTL_VALID 15) true).setFld (BIL_TSW_CTL_TAR 15) 3).setFlag
      (BIL_SNAPSTAT_FPEND) false
    ((st id).hw.fEn 7 = false ∧ (at_ 1200 none).hw.mtr.num ≤ ((at_ 1200 none).hw.feed 7).ivl ∧
      ((free 1359).hw.feedReady 7 = true ∧ (free 1359).hw.mtr.num < ((free 1359).hw.feed 7).ivl + 160)) ∧
    ((s.hw.feed 7).left = none ∧ s.hw.fEn 7 = true ∧ s.hw.fld (MTR_F_STAT_TSTATE 7) = 2 ∧ (s.hw.feed 7).ivl < s.hw.mtr.num ∧
      s.hw.mtr.num ≤ max (s.hw.feed 7).ivl (s.hw.feed 7).locked + 178 ∧ t s 1320 < 4 ∧ s.hw.bil.run = none) ∧
    (((at_ 1700 (some 1600)).hw.feed 7).left = some 1600 ∧ 1600 ≤ ((at_ 1700 (some 1600)).hw.feed 7).ivl + 400) ∧
    ((free 1360).hw.fld (MTR_F_STAT_TSTATE 7) ≠ 2 ∧ ((free 1360).hw.feed 7).ivl + 160 ≤ (free 1360).hw.mtr.num) ∧
    (¬2 ≤ s.hw.fld TIM_STAT_STATE) ∧ (due.hw.fEn 7 = true ∧ 2 ≤ due.hw.fld TIM_STAT_STATE ∧
      due.hw.tswLatest (due.hw.tswDue due.hw.nt) = some 15 ∧ due.hw.fld (BIL_TSW_CTL_TAR 15) < 4) ∧
    (interval fun h => h.setFld BIL_SNAPSTAT_FPEND 128).hw.fldBit BIL_SNAPSTAT_FPEND 7 = true ∧
    (let r := interval fun h => h.setBil fun b => { b with run := some (saveRun [7] true false) }
     t r 1320 < 4 ∧ r.hw.bil.run = some (saveRun [7] true false) ∧ 7 ∈ (saveRun [7] true false).feeders ∧
      (saveRun [7] true false).heat = true) ∧
    (let l := st fun h => (h.setFlag BIL_SNAPSTAT_HPEND true).setBil fun b => { b with snapArm := true }
     l.hw.bil.run = none ∧ l.hw.flag BIL_SNAPSTAT_HPEND = true ∧ l.hw.bil.snapArm = true) ∧
    ((st id).hw.bil.run = none ∧ ((st id).hw.flag BIL_SNAPSTAT_HPEND && (st id).hw.bil.snapArm) = false) := by
  decide +kernel

theorem witness_BillingSaves :
    let idle := st id
    let busy := interval id
    let run := st fun h => h.setBil fun b => { b with run := some (saveRun [] false true) }
    let away := st fun h => ((h.setFld TIM_STAT_STATE 2).setFld BIL_SAVECFG_PERIOD 60).setFld BIL_SAVECFG_PHASE 59
    let minute := st fun h => (h.setFld TIM_TFREE 60000000000).setFld BIL_SAVECFG_PERIOD 60
    let running (s : State) := s.hw.elapsed s.hw.mtr.began / 1000000000
    (2 ≤ away.hw.fld TIM_STAT_STATE ∧ away.hw.nt / 1000000000 % away.hw.fld BIL_SAVECFG_PERIOD ≠ away.hw.fld BIL_SAVECFG_PHASE) ∧
    (¬2 ≤ idle.hw.fld TIM_STAT_STATE ∧ running idle = 0) ∧
    (¬2 ≤ minute.hw.fld TIM_STAT_STATE ∧ running minute ≠ 0 ∧ running minute % minute.hw.fld BIL_SAVECFG_PERIOD = 0) ∧ (busy.hw.bil.run = none ∧ busy.hw.saveFeeders ≠ []) ∧
    ((interval fun h => h.setBil fun b => { b with run := some (saveRun [] false true) }).hw.bil.run ≠ none ∧
      (interval fun h => h.setBil fun b => { b with run := some (saveRun [] false true) }).hw.saveFeeders ≠ []) ∧
    (idle.hw.bil.run = none ∧ ¬(idle.hw.saveFeeders ≠ [] ∨ idle.hw.saveHeat ≠ []) ∧ idle.hw.sys.down = none ∧
      idle.hw.flag NVM_STAT_TAMPER = false ∧ idle.hw.cipherOrphan = false) ∧
    (run.hw.bil.run = some (saveRun [] false true) ∧ (saveRun [] false true).written = true ∧
      (saveRun [] false true).failed = false ∧ run.hw.billWaits = false) ∧
    (st fun h => h.setFlag MTR_CTRL_CALLOCK true).hw.flag MTR_CTRL_CALLOCK = true ∧
    (busy.hw.flag MTR_CTRL_CALLOCK = false ∧ Tab.rising busy.hw.flds = true) ∧
    ((59#12).toNat < (60#12).toNat ∧ (60#12).toNat ≤ (60#12).toNat ∧ (3599#12).toNat < (3600#12).toNat) ∧
    ((59#12).toNat < 60 ∧ 3600 < (3601#12).toNat) ∧ (idle.hw.flag BIL_ECCCNT_SAT = false ∧ idle.hw.fld BIL_ECCCNT_COUNT < 2 ^ 31 - 2) ∧
    (223 < 224 ∧ 256 ≤ (1279 : Fin 1280).val) := by
  decide +kernel

theorem witness_HeatAndPulses :
    let off := st fun h => { h with img := { h.img with zones := [(0, 1)], types := (List.range 3).map fun i => (i, 4) } }
    let set := off.onHw fun h => ((h.setFld (BIL_HCFG_FPT 1023) 0).setFld (BIL_HCFG_TFPT 1023) 1).setFld (BIL_HCFG_TRPT 1023) 2
    let on := set.onHw fun h => h.setFlag (BIL_HCFG_EN 1023) true
    let ok (s : State) (v : BitVec 32) := (v.getLsbD 3 || s.hw.heatPointOk (s.hw.fld (BIL_HCFG_FPT 1023))) &&
      s.hw.heatPointOk (s.hw.fld (BIL_HCFG_TFPT 1023)) && s.hw.heatPointOk (s.hw.fld (BIL_HCFG_TRPT 1023))
    let out := st fun h => ((h.setFlag (PLS_OUT_CFG_EN 7) true).setFld (PLS_OUT_BACKLOG 7) 65535)
    let inp := st fun h => h.setFlag (PLS_IN_CFG_EN 31) true
    let lit := out.onHw fun h => h.setBil fun b => { b with out := Tab.put b.out 7 ⟨0, true, none⟩ }
    let dark := (out.onHw fun h => h.setBil fun b => { b with out := Tab.put b.out 7 ⟨0, false, some 5000⟩ }).onHw fun h => h.setFld TIM_TFREE 5000
    (lit.hw.pulseOut 7).on = true ∧ ((dark.hw.pulseOut 7).on = false ∧ (dark.hw.pulseOut 7).gap = some 5000 ∧
      atOrAfter dark.hw.tfree 5000 = true) ∧
    on.hw.flag (BIL_HCFG_EN 1023) = true ∧ set.hw.flag (BIL_HCFG_EN 1023) = false ∧ ((1#32).getLsbD 0 = true ∧ ok set 1 = true) ∧
    ok (st id) 1 = false ∧ (inp.hw.flag (PLS_IN_CFG_EN 31) && inp.hw.flag (PLS_IN_CFG_EDGE 31) == false && !inp.hw.bil.stopped) = true ∧
    ((st id).hw.flag (PLS_IN_CFG_EN 31) && (st id).hw.flag (PLS_IN_CFG_EDGE 31) == false && !(st id).hw.bil.stopped) = false ∧
    (out.hw.flag (PLS_OUT_CFG_EN 7) = true ∧ (out.hw.pulseOut 7).on = false ∧ out.hw.fld (PLS_OUT_BACKLOG 7) ≠ 0 ∧
      out.hw.fld (PLS_OUT_BACKLOG 7) < 2 ^ 16) ∧ (st id).hw.flag (PLS_OUT_CFG_EN 7) = false := by
  decide +kernel

/-- Core 3 and the L2 hold the line at 0x20000040 as `l` and `q`; core 3 may write SRAM, or may not. -/
def cached (ls qs : List Line) (open_ : Bool) : State := st fun h => { h with
  cores := [(3, { Core.reset with lines := ls })], l2 := qs
  windows := if open_ then [(2 * 2048 + 3 * 16, ⟨7, 1 + 0xFFFFFFF * 4096⟩)] else [] }

theorem witness_HostCoresAndCaches :
    let l (w : Bool) : Line := ⟨0x20000040, 0, 3, w, [], []⟩
    let new : Line := ⟨0x20000040, 0, 3, true, [(0x20000041, 9#8)], []⟩
    let load : Txn := ⟨.host 3, .lower, .own, false, false, .read, 0x2000007C#64, 4, []⟩
    let store : Txn := ⟨.host 3, .lower, .own, false, false, .write, 0x2000007C#64, 0, [1#8, 2#8, 3#8, 4#8]⟩
    let la := lineOf (0x2000007F#40).toNat
    let held := cached [l true] [l true] true
    let clean := cached [l false] [l false] false
    Memory.wf State.reset.mem = true ∧ la = 0x20000040 ∧ (∀ i < 64, held.hw.region (la + i) = .sram) ∧ lineOf load.addr.toNat = la ∧
    (held.hw.foreign 0 la = false ∧ held.hw.dLine 3 la = some (l true) ∧ held.hw.l2Line la = some (l true) ∧
      bits (held.hw.core 3).mdomain 0 8 = 0 ∧ held.hw.hostStop load = none ∧ load.addr.toNat + 4 ≤ la + 64 ∧ held.hw.hostStop store = none) ∧
    (clean.hw.foreign 0 la = false ∧ clean.hw.dLine 3 la = some (l false) ∧ clean.hw.l2Line la = some (l false) ∧
      clean.hw.hostStop store = none ∧ clean.hw.mapCheck 3 0 store.addr.toNat .write = some .noWindow ∧ clean.hw.bus.outst = [] ∧
      clean.hw.bus.stalled = [] ∧ clean.hw.portClosed 3 store.addr.toNat = false) ∧
    ((cached [new] [l true] true).hw.linesAt la = [(3, new)] ∧ (cached [new] [l true] true).hw.l2Line la = some (l true) ∧
      (cached [new] [l true] true).hw.denied 3 0 la .write = none) ∧
    ((cached [] [new] true).hw.linesAt la = [] ∧ (cached [] [new] true).hw.l2Line la = some new ∧
      (cached [] [new] false).hw.denied 3 0 la .write = some (.check .noWindow) ∧ (cached [] [new] true).hw.denied 3 0 la .write = none) ∧
    (cached [new] [] true).hw.dLine 3 la = some new ∧ held.hw.flag MEM_L2CE_SAT = false ∧ held.hw.flag MEM_L1CE_SAT = false := by
  decide +kernel

theorem witness_MemoriesAndPatrol :
    (st fun h => h.setFld MEM_DDRCFG_SIZE 3).hw.fld MEM_DDRCFG_SIZE ≠ 0 ∧ (st fun h => { h with ddrTraining := true }).hw.ddrTraining = true ∧
    ((st fun h => h.setFlag MEM_SCRUB_SRAMEN true).hw.flag MEM_SCRUB_SRAMEN = true ∧ (st id).hw.flag MEM_SRAMCE_SAT = false) ∧
    (st fun h => h.setFlag MEM_SCRUB_SRAMEN false).hw.flag MEM_SCRUB_SRAMEN = false := by
  decide +kernel

theorem witness_AccessTables :
    let sel (t r w : Nat) := st fun h => (((h.setFlag ACT_CTRL_HOSTWR true).setFld ACT_SEL_TGT t).setFld ACT_SEL_ROW r).setFld ACT_SEL_WIN w
    let locked := (sel 9 127 15).onHw fun h => h.setFlag ACT_CTRL_LOCK true
    let shut := (sel 9 127 15).onHw fun h => h.setFlag ACT_CTRL_HOSTWR false
    ((from_ (.host 3) 0#8).master.val < 4 ∧ (from_ (.host 3) 0#8).dom = 0#8 ∧ (sel 9 127 15).hw.flag ACT_CTRL_HOSTWR = true ∧
      (sel 9 127 15).hw.flag ACT_CTRL_LOCK = false ∧ (sel 9 127 15).hw.fld ACT_SEL_TGT < 10 ∧ (sel 9 127 15).hw.fld ACT_SEL_ROW ≠ 4 ∧
      (sel 9 127 15).hw.fld ACT_SEL_ROW < 128 ∧ (sel 9 127 15).hw.fld ACT_SEL_WIN < 16) ∧
    (from_ .keeper 9#8).master.val = 4 ∧ (sel 9 4 0).hw.fld ACT_SEL_ROW = 4 ∧
    ((from_ (.host 3) 1#8).master.val < 4 ∧ (from_ (.host 3) 1#8).dom ≠ 0#8) ∧ locked.hw.flag ACT_CTRL_LOCK = true ∧ shut.hw.flag ACT_CTRL_HOSTWR = false := by
  decide +kernel

theorem witness_TranslationCommands :
    let mapped := st fun h => h.setFlag (XLT_PIN_VA_VALID 0) true
    let v : Nat := (1#64 <<< 39).toNat
    (from_ (.host 3) 0#8).dom = 0#8 ∧ State.reset.hw.pinRefused 255 ((State.reset.hw.pin 255).with_ false v) = false ∧
    mapped.hw.pinRefused 255 ((mapped.hw.pin 255).with_ false v) = true ∧ State.reset.hw.flag (TND_CH_CFG_EN 63) = false ∧
    ((st fun h => h.setFlag (TND_CH_CFG_EN 63) true).hw.flag (TND_CH_CFG_EN 63) = true ∧ State.reset.hw.flag XLT_STAT_BINDREF = false) ∧
    (st fun h => h.setFlag XLT_STAT_INVBUSY true).hw.flag XLT_STAT_INVBUSY = true := by
  decide +kernel

/-- Channel 63, of class 1 and enabled, in a state, with what it holds. -/
def channel (t : Nat) (c : TChan) : State := st fun h =>
  let h := (((h.setFlag TND_CTRL_EN true).setFlag (TND_CH_CFG_EN 63) true).setFld (TND_CH_CFG_CLASS 63) 1).setFld (TND_CH_STAT_STATE 63) t
  { h.setChan 63 c with windows := [(2 * 2048 + 127 * 16, ⟨7, 1 + 0xFFFFFFF * 4096⟩)] }
def copy256 (next : Nat) : TDesc := ⟨0x20000000, 0x20001F80, 256, false, false, false, false, false, true, true, next⟩

/-- Channel 63 is no other block's in a state that leaves the other blocks as they are after reset. -/
theorem channel_unshared (h : Hw) (a : ∀ k < 16, h.fld (PKT_LR_CFG_CHAN k) = 0) (b : ∀ p < 6, h.fld (PKT_P_OCFG_OCHAN p) = 0)
    (c : ∀ k < 8, h.fld (CAN_RIO_CFG_ICHAN k) = 0 ∧ h.fld (CAN_RIO_CFG_OCHAN k) = 0) : Unshared h 63 :=
  ⟨fun k hk => by rw [a k hk]; decide, fun p hp => by rw [b p hp]; decide,
    fun k hk => by rw [(c k hk).1, (c k hk).2]; decide⟩

theorem only_63 {h : Hw} {p : Nat → Prop} [DecidablePred p] (o : ∀ k < 63, ¬p k) (u : Unshared h 63) :
    ∀ k < 64, p k → Unshared h k := by
  intro k hk hp
  by_cases e : k = 63
  · exact e ▸ u
  · exact absurd hp (o k (by omega))

theorem witness_ChannelCommands :
    let off := st fun h => h.setFlag (TND_CH_CFG_EN 63) true
    let on (t : Nat) := channel t TChan.reset
    let dis := (on 0).onHw fun h => h.setFlag (TND_CH_CFG_EN 63) false
    (from_ (.host 3) 0#8).dom = 0#8 ∧
    ((∀ k < 64, off.hw.flag (TND_CH_CFG_EN k) = true → Unshared off.hw k) ∧
      ∀ k < 64, off.hw.flag (TND_CH_CFG_EN k) = false → off.hw.chanState k = 0) ∧
    (∀ k < 64, (on 4).hw.chanState k ≠ 0 → Unshared (on 4).hw k) ∧
    ((1#32).getLsbD 0 = true ∧ dis.hw.flag TND_CTRL_EN = true ∧ dis.hw.chanState 63 = 0 ∧ Unshared dis.hw 63) ∧
    (on 1).hw.chanState 63 = 1 ∧ ((on 2).hw.chanState 63 = 2 ∧ (on 2).hw.flag (TND_CH_STAT_PEND 63) = false) ∧
    (let p := (on 2).onHw fun h => h.setFlag (TND_CH_STAT_PEND 63) true
     p.hw.chanState 63 = 2 ∧ p.hw.flag (TND_CH_STAT_PEND 63) = true ∧ p.hw.flag TND_TRIGLOST_SAT = false ∧
      p.hw.fld TND_TRIGLOST_COUNT < 2 ^ 31 - 1 ∧ p.hw.flag (EVT_ROUTE_TND 203) = false) ∧
    (on 3).hw.chanState 63 = 3 ∧ (on 4).hw.chanState 63 ≠ 3 ∧ (2 ≤ (on 2).hw.chanState 63 ∧ Unshared (on 2).hw 63) ∧
    (on 1).hw.chanState 63 < 2 := by
  refine ⟨rfl, ⟨only_63 ?_ ?_, ?_⟩, only_63 ?_ ?_, ⟨rfl, ?_, ?_, ?_⟩, ?_, ?_, ?_, ?_, ?_, ⟨?_, ?_⟩, ?_⟩
  all_goals first | decide +kernel | apply channel_unshared <;> decide +kernel

theorem witness_ChannelMoves :
    let fetch := channel 2 { TChan.reset with daddr := 0x20000FE0 }
    let move := channel 2 { TChan.reset with desc := some (copy256 0) }
    let failed (k : TKindF) := channel 2 { TChan.reset with fail := some ⟨k, false, false, 0x20000000⟩ }
    let done (next : Nat) := channel 2 { TChan.reset with desc := some (copy256 next), off := 256 }
    Memory.wf fetch.mem = true ∧
    (fetch.hw.fetching 63 = true ∧ fetch.hw.pinFor (fetch.hw.chanAs 63) (fetch.hw.chan 63).daddr = none ∧
      fetch.hw.fld (TND_CH_CFG_CLASS 63) ≠ 0 ∧ fetch.hw.fld (XLT_AS_MODE (fetch.hw.chanAs 63)) = 0 ∧
      (∀ i < 32, fetch.hw.region ((fetch.hw.chan 63).daddr + i) = .sram) ∧ fetch.hw.portClosed (64 + 63) (fetch.hw.chan 63).daddr = false ∧
      fetch.hw.accessCheck (64 + 63) (fetch.hw.chanDom 63) (fetch.hw.chan 63).daddr 32 .read = none) ∧
    (move.hw.nextMover = some 63 ∧ (move.hw.chan 63).desc = some (copy256 0) ∧ 128 = (move.hw.chan 63).granule (copy256 0) ∧
      (copy256 0).sq = false ∧ (copy256 0).dq = false ∧ (copy256 0).sfix = false ∧ (copy256 0).dfix = false ∧
      move.hw.pinFor (move.hw.chanAs 63) ((move.hw.chan 63).srcVa (copy256 0)) = none ∧
      move.hw.pinFor (move.hw.chanAs 63) ((move.hw.chan 63).dstVa (copy256 0)) = none ∧ move.hw.fld (TND_CH_CFG_CLASS 63) ≠ 0 ∧
      move.hw.fld (XLT_AS_MODE (move.hw.chanAs 63)) = 0 ∧
      move.hw.portClosed (64 + 63) ((move.hw.chan 63).srcVa (copy256 0)) = false ∧
      move.hw.portClosed (64 + 63) ((move.hw.chan 63).dstVa (copy256 0)) = false ∧
      (∀ i < 128, move.hw.region ((move.hw.chan 63).srcVa (copy256 0) + i) = .sram) ∧
      move.hw.region ((move.hw.chan 63).dstVa (copy256 0)) = .sram ∧
      move.hw.accessCheck (64 + 63) (move.hw.chanDom 63) ((move.hw.chan 63).srcVa (copy256 0)) 128 .read = none ∧
      move.hw.accessCheck (64 + 63) (move.hw.chanDom 63) ((move.hw.chan 63).dstVa (copy256 0)) 128 .write = none) ∧
    NoLines move.hw ∧
    ((failed .nopin).hw.chan 63).fail = some ⟨.nopin, false, false, 0x20000000⟩ ∧ (failed .nopin).hw.chanState 63 = 2 ∧
    TKindF.nopin.isTranslation = true ∧ TKindF.timeout.isTranslation = false ∧
    ((failed .timeout).hw.chan 63).fail = some ⟨.timeout, false, false, 0x20000000⟩ ∧
    (∀ next : Fin 2, let s := done (32 * next); (s.hw.chan 63).desc = some (copy256 (32 * next)) ∧ s.hw.chanState 63 = 2 ∧
      (s.hw.chan 63).fail = none ∧ (copy256 (32 * next)).len ≤ (s.hw.chan 63).off ∧ (copy256 (32 * next)).doneev = false ∧
      s.hw.flag (TND_CH_STAT_PEND 63) = false) := by
  refine ⟨by decide +kernel, by decide +kernel, by decide +kernel, ⟨fun _ => rfl, rfl⟩, by decide +kernel⟩

/-- The pool and queue 63 in service for domain 5, with a quota of one cell; the queue holds `x`. -/
def moored (x : MorQueue) : State := st fun h =>
  ((((h.setFlag MOR_CTRL_EN true).setFlag (MOR_Q_CFG_EN 63) true).setFld (MOR_Q_CFG_DOM 63) 5).setFld (MOR_Q_CFG_QUOTA 63) 1).setMorQ 63 x
def openPkt (words : Nat) (dropped : Bool) : MorQueue := ⟨[], [(4, ⟨[9], words, 0, dropped⟩)], []⟩

/-- Whatever the order of the free list, a pool with a free cell gives one. -/
theorem fresh_cell {h : Hw} {c : Nat} (lt : c < 65536) (free : h.cellFree c = true) (some_ : h.cellsFree ≠ 0) :
    ∃ d, h.freshCell = some d := by
  unfold Hw.freshCell
  rw [if_neg some_, ← Option.isSome_iff_exists, List.find?_isSome]
  refine ⟨c, List.mem_map.2 ⟨(c + 65536 - h.freeVal 16 % 65536) % 65536, List.mem_range.2 (Nat.mod_lt _ (by decide)), ?_⟩, free⟩
  omega

theorem witness_MooringQueues :
    let s := moored MorQueue.empty
    let full := moored (openPkt 8 true)
    let src := from_ .keeper 5#8
    let other := from_ .debug 5#8
    let popping := moored ⟨[⟨[9], 8, 7, false⟩], [], []⟩
    (s.hw.morDom 63 src.dom.toNat = true ∧ s.hw.morOff 63 = false) ∧
    (Tab.get? (s.hw.morQ 63).building src.master.val = none ∧ s.hw.morOpen < 256 ∧
      (s.hw.morQ 63).held.length + (s.hw.morQ 63).unreached.length < s.hw.fld (MOR_Q_CFG_QUOTA 63) ∧ ∃ c, s.hw.freshCell = some c) ∧
    (full.hw.morDom 63 other.dom.toNat = true ∧ full.hw.morOff 63 = false ∧ Tab.get? (full.hw.morQ 63).building other.master.val = none ∧
      full.hw.morOpen < 256 ∧ full.hw.fld (MOR_Q_CFG_QUOTA 63) ≤ (full.hw.morQ 63).held.length + (full.hw.morQ 63).unreached.length) ∧
    (Tab.get? ((moored (openPkt 7 false)).hw.morQ 63).building src.master.val = some ⟨[9], 7, 0, false⟩ ∧ 7 % 8 ≠ 0 ∧ 1 < 7) ∧
    Tab.get? (full.hw.morQ 63).building src.master.val = some ⟨[9], 8, 0, true⟩ ∧
    (popping.hw.morQ 63).pkts = ⟨[9], 8, 7, false⟩ :: [] ∧ (s.hw.morQ 63).pkts = [] ∧
    (s.hw.flag (MOR_Q_DROPW_SAT 63) = false ∧ s.hw.fld (MOR_Q_DROPW_COUNT 63) < 2 ^ 31 - 2 ∧ s.hw.flag (MOR_Q_DROPP_SAT 63) = false ∧
      s.hw.fld (MOR_Q_DROPP_COUNT 63) < 2 ^ 31 - 2) ∧
    ((st id).hw.morDom 63 (from_ .keeper 0#8).dom.toNat = true ∧ (st id).hw.morOff 63 = true) ∧ s.hw.morDom 63 (from_ .keeper 6#8).dom.toNat = false ∧
    ((0x7FFF#16).getLsbD 15 = false ∧ s.hw.fldBit MOR_BANKEN_EN 15 = true ∧ (0x7FFF#16).getLsbD 14 = true ∧
      (∀ c ∈ s.hw.cellsUsed, bankOf c ≠ 15)) ∧
    (9 ∈ full.hw.cellsUsed ∧ bankOf 9 = 0 ∧ (0xFFFE#16).getLsbD 0 = false) ∧ src.master.val = 4 := by
  have c : ∃ c, (moored MorQueue.empty).hw.freshCell = some c := fresh_cell (c := 65535) (by decide) (by decide +kernel) (by decide +kernel)
  refine ⟨?_, ⟨?_, ?_, ?_, c⟩, ?_⟩ <;> decide +kernel

/-- A frame of 60 bytes with an EtherType at its place, and port 5 in service with what `f` makes of it. -/
def frame60 (et : Nat) : List Byte := List.replicate 12 0xFF#8 ++ (toBytes 2 et).reverse ++ [0#8, 1#8] ++ List.replicate 44 0#8
def ported (f : Hw → Hw) : State := st fun h => f ((h.setFlag PKT_CTRL_EN true).setFlag (PKT_P_CFG_EN 5) true)

theorem witness_PacketFrames :
    let s := ported id
    let on (t : State) := t.hw.flag PKT_CTRL_EN && t.hw.flag (PKT_P_CFG_EN 5)
    let d (et : Nat) := frameHead (s.hw.fld (PKT_P_CFG_PVID 5)) (frame60 et)
    let rule := ported fun h => ((h.setFlag (PKT_CR_ACT_EN 255) true).setFld (PKT_CR_M1_PORTS 255) 32).setFld (PKT_CR_ACT_ACTION 255) 0
    on (st id) = false ∧ (on s = true ∧ (frame60 0).dropLast.length < 60) ∧ 9212 < (List.replicate 9213 0#8).length ∧
    (60 ≤ (frame60 0x8808).length ∧ (frame60 0x8808).length ≤ 9212 ∧ (d 0x8808).etype = 0x8808 ∧ be (frame60 0x8808) (d 0x8808).up 2 = 1) ∧
    ((d 0x88F7).etype ≠ 0x8808 ∧ (∀ n < 256, s.hw.ruleHits 5 (d 0x88F7) (frame60 0x88F7) n = false) ∧
      (ported fun h => h.setFlag (PKT_P_CFG_DEFDROP 5) true).hw.flag (PKT_P_CFG_DEFDROP 5) = true) ∧
    (rule.hw.ruleHits 5 (d 0x88F7) (frame60 0x88F7) 255 = true ∧ (∀ k < 255, rule.hw.ruleHits 5 (d 0x88F7) (frame60 0x88F7) k = false) ∧
      rule.hw.fld (PKT_CR_ACT_ACTION 255) = 0) ∧
    (let q := ported fun h => h.setOutq 5 [frame60 0x0800]
     on q = true ∧ q.hw.outqOf 5 = frame60 0x0800 :: []) ∧ s.hw.flag (PKT_P_STAT_LINK 5) ≠ true ∧ s.hw.fld TIM_STAT_STATE = 0 ∧
    (let up := ported fun h => ((h.setFlag (PKT_P_STAT_LINK 5) true).setFld TIM_CTRL_SRCPORT 5).setFld TIM_STAT_STATE 2
     up.hw.flag (PKT_P_STAT_LINK 5) = true ∧ up.hw.fld TIM_CTRL_SRCPORT = 5 ∧ up.hw.fld TIM_STAT_STATE = 2) ∧
    (s.hw.flag (PKT_P_RXERR_SAT 5) = false ∧ s.hw.fld (PKT_P_RXERR_COUNT 5) < 2 ^ 31 - 2 ∧ s.hw.flag (PKT_P_RXDROP_SAT 5) = false ∧
      s.hw.fld (PKT_P_RXDROP_COUNT 5) < 2 ^ 31 - 2) := by
  decide +kernel

/-- Channel 7 on its bus with object 127, and with what `f` makes of it. -/
def onBus (f : Hw → Hw) : State := st fun h => f (h.setFlag (CAN_CTRL_EN 7) true)
def arbitrating (f : Hw → Hw) : State := onBus fun h => f (h.setCh 7 { h.ch 7 with arb := some (.obj 127) })

theorem witness_CanRegisterCommands :
    let off := st id
    let rq := onBus fun h => h.setFlag (CAN_OBJ_CTL_TXRQ 7 127) true
    let rqArb := onBus fun h => (h.setFlag (CAN_OBJ_CTL_TXRQ 7 127) true).setFlag (CAN_OBJ_STAT_ARB 7 127) true
    let entry : FifoEntry := ⟨⟨1, false, false, false, false, false, 0, []⟩, false⟩
    let fifo (k : Nat) := onBus fun h => h.setCh 7 { h.ch 7 with fifo := List.replicate k entry }
    let nbt : BitVec 32 := BitVec.ofNat 32 (62 * 32 + 15 * 2 ^ 13 + 15 * 2 ^ 20)
    let dbt : BitVec 32 := BitVec.ofNat 32 (14 * 32 + 3 * 2 ^ 10 + 3 * 2 ^ 14)
    let timed := st fun h => (h.setNbt 7 nbt.toNat).setDbt 7 dbt.toNat
    ((from_ (.host 3) 0#8).dom = 0#8 ∧ (st fun h => h.setFld (CAN_CTRL_DOM 7) 5).hw.fld (CAN_CTRL_DOM 7) = (from_ (.host 3) 5#8).dom.toNat) ∧
    off.hw.flag (CAN_OBJ_CTL_TXRQ 7 127) = false ∧ (rq.hw.flag (CAN_OBJ_CTL_TXRQ 7 127) = true ∧ rq.hw.flag (CAN_OBJ_STAT_ARB 7 127) = false) ∧
    (rqArb.hw.flag (CAN_OBJ_CTL_TXRQ 7 127) = true ∧ rqArb.hw.flag (CAN_OBJ_STAT_ARB 7 127) = true) ∧
    ((fifo 31).hw.ch 7).fifo.length < 32 ∧ 32 ≤ ((fifo 32).hw.ch 7).fifo.length ∧
    (((fifo 32).hw.ch 7).arb ≠ some .fifo ∧ ((fifo 32).hw.ch 7).fifo.length ≤ 32) ∧ off.hw.objClosed 7 127 = false ∧
    rq.hw.objClosed 7 127 = true ∧ ((1 : Fin 32).val ≤ 1 ∧ 16 ≤ (31 : Fin 32).val) ∧
    (timed.hw.flag (CAN_CTRL_EN 7) = false ∧ timingOk (timed.hw.nbt 7) dbt.toNat = true ∧ timingOk nbt.toNat (timed.hw.dbt 7) = true) ∧
    (onBus id).hw.flag (CAN_CTRL_EN 7) = true ∧ timingOk (0#32).toNat (timed.hw.dbt 7) = false ∧ ((onBus id).hw.ch 7).arb = none := by
  decide +kernel

theorem witness_CanBusEvents :
    let s := onBus id
    let want := onBus fun h => (h.setFlag (CAN_OBJ_CTL_EN 7 127) true).setFlag (CAN_OBJ_CTL_DIR 7 127) true |>.setFlag (CAN_OBJ_CTL_TXRQ 7 127) true
    let arb := arbitrating fun h => h.setFlag (CAN_OBJ_CTL_IE 7 127) true
    let f : CanFrame := ⟨0x1FFFFFFF, true, false, false, false, false, 8, List.replicate 8 0xC3#8⟩
    let obj := onBus fun h => ((h.setFlag (CAN_OBJ_CTL_EN 7 127) true).setFlag (CAN_OBJ_ID_IDE 7 127) true).setFld (CAN_OBJ_MASK 7 127) 0
    let tired (n : Nat) := onBus fun h => h.setFld (CAN_ERRC_TEC 7) n
    (want.hw.flag (CAN_CTRL_EN 7) = true ∧ (want.hw.ch 7).arb = none ∧ want.hw.canSends 7 = true ∧
      want.hw.candidate 7 (want.hw.cands 7) = some (.obj 127)) ∧
    ((arb.hw.ch 7).arb = some (.obj 127) ∧ arb.hw.fld (CAN_CTRL_MODE 7) = mNormal ∧ Tab.get? (arb.hw.ch 7).hold 127 = none ∧
      arb.hw.flag (CAN_OBJ_CTL_CANCEL 7 127) = false ∧ arb.hw.flag (CAN_OBJ_CTL_IE 7 127) = true) ∧
    (s.hw.flag (CAN_CTRL_EN 7) = true ∧ s.hw.fld (CAN_STAT_BSTATE 7) ≠ 2 ∧ s.hw.fld (CAN_CTRL_MODE 7) = mNormal ∧ f.fdf = false ∧
      s.hw.fld (CAN_ERRC_REC 7) ≤ 127 ∧ s.hw.matchObj 7 f = none) ∧
    (obj.hw.matchObj 7 f = some 127 ∧ (obj.hw.rxObj 7 127).rio = false ∧ f.rtr = false ∧ f.data.length = dlcBytes false f.dlc) ∧
    s.hw.fld (CAN_CTRL_MODE 7) ≠ mAbd ∧ (∀ k : Fin 8, (tired (248 + k)).hw.fld (CAN_ERRC_TEC 7) ≤ 255 ∧ 248 ≤ (tired (248 + k)).hw.fld (CAN_ERRC_TEC 7) ∧
      (tired (248 + k)).hw.fld (CAN_STAT_BSTATE 7) ≠ 2) ∧
    (onBus fun h => h.setFld (CAN_STAT_BSTATE 7) 2).hw.fld (CAN_STAT_BSTATE 7) = 2 := by
  decide +kernel

/-- The clock in a state, with what `f` makes of it. -/
def clocked (t : Nat) (f : Hw → Hw) : State := st fun h => f (h.setFld TIM_STAT_STATE t)

theorem witness_ClockStates :
    let d0 := from_ .keeper 0#8
    d0.dom = 0#8 ∧ (∀ t : Fin 4, (clocked t id).hw.fld TIM_STAT_STATE = t) ∧
    (clocked 1 fun h => h.setFlag TIM_STAT_STEPOK true).hw.flag TIM_STAT_STEPOK = true ∧ (clocked 0 id).hw.flag TIM_STAT_STEPOK = false ∧
    (clocked 3 id).hw.flag TIM_HOLDCNT_SAT = false := by
  decide +kernel

theorem witness_RateSlewAndServo :
    let s := clocked 2 id
    let top : Int := 549755813
    (s.hw.clk.slew = 0 ∧ ((549755813#32).toInt + s.hw.clk.slew).natAbs ≤ 549755813 ∧ s.hw.fld TIM_STAT_STATE ≠ 0 ∧ (1#24) ≠ 0#24 ∧
      (s.hw.sfld TIM_RATE + roundDiv (s.hw.sfld TIM_SLEWPH * 2 ^ 40) ((1#24).toNat * 1000000)).natAbs ≤ 549755813) ∧
    ((549755814#32).toInt + s.hw.clk.slew).natAbs > 549755813 ∧ ((-549755814 : BitVec 32).toInt + s.hw.clk.slew).natAbs > top.natAbs ∧
    (clocked 0 id).hw.fld TIM_STAT_STATE = 0 ∧ (clocked 2 fun h => h.setFlag TIM_CTRL_EN true).hw.flag TIM_CTRL_EN = true ∧
    (let slewing (t : Nat) := clocked 2 fun h => { (h.setFlag TIM_STAT_SLEWING true).setFld TIM_TFREE t with clk := { h.clk with slewMs := 1 } }
     (slewing 1000000).hw.flag TIM_STAT_SLEWING = true ∧
      (slewing 1000000).hw.clk.slewMs * 1000000 ≤ (slewing 1000000).hw.elapsed (slewing 1000000).hw.clk.slewStart ∧
      (slewing 999999).hw.elapsed (slewing 999999).hw.clk.slewStart < (slewing 999999).hw.clk.slewMs * 1000000) ∧
    (clocked 2 fun h => h.setFld TIM_SERVOTO_MS 0).hw.fld TIM_SERVOTO_MS = 0 ∧
    (∀ t, (t = 1 ∨ t = 2) →
      let late := clocked t fun h => (h.setFld TIM_SERVOTO_MS 1).setFld TIM_TFREE 1000000
      late.hw.fld TIM_SERVOTO_MS ≠ 0 ∧ late.hw.fld TIM_STAT_STATE = t ∧
        late.hw.fld TIM_SERVOTO_MS * 1000000 ≤ late.hw.elapsed late.hw.clk.servoAt) := by
  refine ⟨?_, ?_, ?_, ?_, ?_, ?_, ?_, ?_⟩
  all_goals first | (rintro t (rfl | rfl) <;> decide +kernel) | decide +kernel

/-- Light character 15 with a width of 4, a spacing of 5 and a period of 10 cycles. -/
def character (f : Hw → Hw) : State := st fun h => f (((h.setFld (TIM_TP_WIDTH 15) 4).setFld (TIM_TP_SPACING 15) 5).setFld (TIM_TP_PERIOD 15) 10)

theorem witness_LightCharacters :
    let s := character id
    let cfg : Nat := (0x24#32).toNat
    let on := character fun h => (h.setFlag (TIM_TP_STAT_ACTIVE 15) true)
    let high := on.onHw fun h => h.setLchar 15 { h.lchar 15 with on := true, rose := 2 ^ 64 - 4 }
    (from_ (.host 3) 0#8).dom = 0#8 ∧
    (s.hw.flag (TIM_TP_STAT_ACTIVE 15) = false ∧ 4 ≤ s.hw.fld (TIM_TP_WIDTH 15) ∧ bits cfg 5 4 = 1 ∧
      s.hw.fld (TIM_TP_WIDTH 15) < s.hw.fld (TIM_TP_SPACING 15) ∧ bitOf cfg 2 = true ∧
      bits cfg 5 4 * s.hw.fld (TIM_TP_SPACING 15) + s.hw.fld (TIM_TP_WIDTH 15) < s.hw.fld (TIM_TP_PERIOD 15) ∧
      toSigned 64 (s.hw.nt + 2 ^ 64 - s.hw.fld (TIM_TP_START 15)) < s.hw.fld (TIM_TP_WIDTH 15)) ∧
    on.hw.flag (TIM_TP_STAT_ACTIVE 15) = true ∧ (st id).hw.fld (TIM_TP_WIDTH 15) < 4 ∧
    (on.hw.flag (TIM_TP_STAT_HELD 15) = false ∧ (on.hw.lchar 15).on = false ∧
      on.hw.tpLive 15 ≤ (on.hw.lchar 15).period * on.hw.tpBurst 15 + (on.hw.lchar 15).pulse ∧
      atOrAfter on.hw.nt (on.hw.tpRise 15 (on.hw.lchar 15).period (on.hw.lchar 15).pulse) = true) ∧
    (high.hw.flag (TIM_TP_STAT_ACTIVE 15) = true ∧ (high.hw.lchar 15).on = true ∧
      high.hw.fld (TIM_TP_WIDTH 15) ≤ (high.hw.tfree + 2 ^ 64 - (high.hw.lchar 15).rose) % 2 ^ 64) := by
  decide +kernel

/-- A request of software for a record of TYPE 0x8000, with SRAM open to M24. -/
def storing (f : Hw → Hw) : State := st fun h =>
  f { (((h.setFld NVM_WTYPE 0x8000).setFld NVM_WADDR 0x20000000).setFld NVM_RTYPE 0x8000) with windows := [(2 * 2048 + 24 * 16, ⟨7, 1 + 0xFFFFFFF * 4096⟩)] }
def nvmHas (f : Nvm → Nvm) : State := storing fun h => { h with nvm := f { h.nvm with sectors := [(255, Sector.erased 0 0)] } }
def hostReq : NvmReq := ⟨0x8000, 1, [0x11#8], 0, false, .host 1 true⟩
def rec1 : NvmRec := ⟨0x8000, 1, 7, List.replicate 4048 0x22#8, 0, false⟩

theorem witness_RecordStoreRequests :
    let s := storing id
    let b := List.replicate 4 0#8
    let full := nvmHas fun n => { n with reqs := List.replicate 16 hostReq }
    let reads (g : Nat) := nvmHas fun n => { n with
      read := some ⟨0x20000000, 0x8000, 1⟩, sectors := [(255, { Sector.erased g 0 with groups := List.replicate g ⟨false, false, 0, true, 1, [rec1]⟩ })] }
    (from_ .keeper 0#8).dom = 0#8 ∧ s.hw.sys.down = none ∧ 16 ≤ full.hw.hostPending ∧
    (s.hw.hostPending < 16 ∧ (s.hw.readAs s.mem 24 0 (s.hw.fld NVM_WADDR) (min (4#13).toNat 4048)).toOption = some b ∧
      s.hw.reqReason (s.hw.fld NVM_WTYPE) (s.hw.fld NVM_WKEY) (4#13).toNat (some b) = 0 ∧ s.hw.nvm.txOpen = []) ∧
    s.hw.reqReason (s.hw.fld NVM_WTYPE) (s.hw.fld NVM_WKEY) (4049#13).toNat (some (List.replicate 4048 0#8)) ≠ 0 ∧
    (s.hw.flag NVM_RSTAT_BUSY = false ∧ partOf (s.hw.fld NVM_RTYPE) = 8) ∧
    (let o := s.onHw fun h => h.setFld NVM_RTYPE 0x3001; partOf (o.hw.fld NVM_RTYPE) ≠ 5 ∧ partOf (o.hw.fld NVM_RTYPE) ≠ 8) ∧
    (let r := reads 1
     Memory.wf r.mem = true ∧ r.hw.nvm.read = some ⟨0x20000000, 0x8000, 1⟩ ∧ r.hw.nvm.live 0x8000 1 = some rec1 ∧
      r.hw.nvm.readable 0x8000 1 = some rec1 ∧ rec1.payload ≠ [] ∧ rec1.payload.length ≤ 4048 ∧
      r.hw.writeAs 24 0 0x20000000 rec1.payload.length = none ∧ (r.hw.cores.all fun c => c.2.lines.isEmpty) = true ∧ r.hw.l2 = []) ∧
    (reads 0).hw.nvm.live 0x8000 1 = none ∧
    (8 ≤ (11#4).toNat ∧ (11#4).toNat ≤ 11 ∧ Tab.getD s.hw.nvm.cells (11#4).toNat 0 < 512) := by
  decide +kernel

theorem witness_RecordStoreSteps :
    let group := nvmHas fun n => { n with open_ := [(3, [hostReq])] }
    let comp (p : Nat) := nvmHas fun n => { n with comp := some ⟨64, 255, 1, p⟩ }
    let clear := nvmHas fun n => { n with refresh := none }
    (group.hw.sys.down = none ∧ group.hw.nvm.reqs = [] ∧ Tab.rising group.hw.nvm.open_ = true ∧
      Tab.get? group.hw.nvm.open_ 3 = some (hostReq :: []) ∧
      (group.hw.nvm.sectorFor 3 (([hostReq].map NvmReq.lines).sum + 1)).isSome = true) ∧
    (let kept := nvmHas fun n => { n with
        open_ := [(3, [hostReq])], sectors := [(192, { Sector.erased 1 0 with line0 := true, groups := [⟨false, false, 0, true, 1, [rec1]⟩] })] }
     kept.hw.nvm.sectorFor 3 (([hostReq].map NvmReq.lines).sum + 1) = some 192 ∧ kept.hw.nvm.liveOf 192 ≠ []) ∧
    (let free := nvmHas fun n => { n with open_ := [(3, [hostReq])] }
     ((free.hw.nvm.sectorFor 3 (([hostReq].map NvmReq.lines).sum + 1)).any fun r => free.hw.nvm.liveOf r == []) = true) ∧
    (let bad := nvmHas fun n => { n with comp := some ⟨64, 255, 1, 31⟩, bad := [64] }
     bad.hw.nvm.comp = some ⟨64, 255, 1, 31⟩ ∧ bad.hw.nvm.bad.contains 64 = true ∧ (comp 31).hw.nvm.bad.contains 64 = false) ∧
    (24 ≤ (nvmHas fun n => { n with retired := List.range 24 }).hw.nvm.retired.length ∧
      ((nvmHas fun n => { n with retired := List.range 24, open_ := [(3, [hostReq])] }).hw.nvm.sectorFor 3 (([hostReq].map NvmReq.lines).sum + 1)).isSome = true) ∧
    (let w := nvmHas fun n => { n with want := [(64, 1)], sectors := [253, 254, 255].map fun r => (r, Sector.erased 0 0) }
     w.hw.nvm.comp = none ∧ w.hw.compactNext = some (64, 1) ∧ (w.hw.nvm.compactDest 64).isSome = true) ∧
    (∀ p : Fin 32, (comp p).hw.nvm.comp = some ⟨64, 255, 1, p⟩ ∧ (comp p).hw.nvm.erase = none) ∧
    (∀ e ∈ [EraseOf.store 255, .code 767], (nvmHas fun n => { n with erase := some e }).hw.nvm.erase = some e) ∧
    (let e := nvmHas fun n => { n with erase := some (.store 64), comp := some ⟨64, 255, 1, 31⟩ }
     e.hw.nvm.comp = some ⟨64, 255, 1, 31⟩ ∧ e.hw.nvm.erase = some (.store 64)) ∧
    ((from_ .keeper 0#8).master.val = 4 ∧ (767#10).toNat < 768 ∧ clear.hw.nvm.refresh = none) ∧
    (nvmHas fun n => { n with refresh := some (767, .programming) }).hw.nvm.refresh = some (767, .programming) := by
  decide +kernel

/-- Node 600 as a USE node of engine 3 with 1 use left, in a state; node 528 and the root are VALID. -/
def keyed (mode state : Nat) (f : Hw → Hw) : State := st fun h =>
  let h := ((h.setFld KEY_CTRL_MODE mode).setFld (KEY_K_W0_STATE 600) state).setFld (KEY_K_W0_MASK 600) 8
  f (((h.setFld (KEY_K_W0_STATE 528) 1).setFld (KEY_K_W0_MASK 528) 64).setFld KEY_CARG_KIND kindDerived)

theorem witness_LedgerCommands :
    let s := keyed keyStart 0 id
    let expr := s.onHw fun h => h.setFld KEY_CARG_EXPR 1
    let made (flags : Nat) := (keyed keyStart 1 fun h => h.setFld KEY_CARG_COUNT 1).onHw fun h => h.setFld (KEY_K_W0_FLAGS 600) flags
    let busy (op : Nat) := keyed keyStart 1 fun h => { h with nvm := { h.nvm with sectors := [(255, Sector.erased 0 0)] } }.setKey fun k => { k with cmd := some ⟨op, 600, 528, 8, kindDerived, 0, 0, 0, 0x20000000, [], 5⟩ }
    ((from_ .keeper 0#8).dom = 0#8 ∧ s.hw.flag KEY_STAT_BUSY = false ∧ s.hw.flag KEY_STAT_TAMPER = false ∧ s.hw.keyMode ≠ keyRecovery) ∧
    (528 ≤ 600 ∧ s.hw.fld KEY_CARG_KIND = kindDerived ∧ s.hw.fld KEY_CARG_DOM = 0 ∧ s.hw.fld KEY_CARG_USE = 0 ∧
      s.hw.fld KEY_CARG_EXP ≤ 1 ∧ s.hw.fld (KEY_K_W0_DEPTH 528) < 6 ∧ s.hw.nodeState 600 = nodeFree ∧ s.hw.nodeState 528 = nodeValid ∧
      s.hw.nodeMask 528 6 = true) ∧
    (expr.hw.fld KEY_CARG_EXPR = 1 ∧ expr.hw.nodeState 600 = nodeFree) ∧
    (s.hw.fld KEY_CARG_EXPR = 0 ∧ s.hw.quotaOk 0x1004 600 (nodeLen kindDerived) = true) ∧
    ((made 2).hw.nodeState 600 ≠ nodeFree ∧ (made 2).hw.nodeFlag 600 0 = false ∧ (made 2).hw.nodeFlag 600 1 = true ∧
      (made 2).hw.fld KEY_CARG_COUNT ≠ 0) ∧
    ((made 1).hw.nodeState 600 ≠ nodeFree ∧ (made 1).hw.nodeFlag 600 0 = true ∧ (made 1).hw.descendants 600 = []) ∧
    (let low := s.onHw fun h => h.setFld (KEY_K_W0_STATE 271) 1
     low.hw.nodeState 271 ≠ nodeFree ∧ 271 < 272) ∧ s.hw.nodeState 600 = nodeFree ∧ (keyed keyRun 1 id).hw.keyMode ≠ keyStart ∧
    (let d := s.onHw fun h => { h with debug := true }
     d.hw.keyMode = keyStart ∧ d.hw.debug = true ∧ ∀ i < 8, d.hw.fld (KEY_ANCHOR_HASH i) = 0) ∧
    (keyed keyRecovery 1 id).hw.keyMode = keyRecovery ∧
    (let c : KeyCmd := ⟨2, 600, 528, 8, kindDerived, 0, 0, 0, 0x20000000, [], 5⟩
     (busy 2).hw.key.cmd = some c ∧ c.op = 2 ∧ c.node < 1024 ∧ (busy 2).hw.sys.down = none ∧ (busy 2).hw.pendWaits = false ∧ (busy 2).hw.nvm.txDead.contains c.tx = false ∧
      ((busy 2).hw.commitOk 0x1003 0 (toBytes 4 (((busy 2).hw.fld KEY_LEDGERU_U + 1) % 2 ^ 32))).2 = true ∧
      c.op ≠ 6 ∧ c.op ≠ 7 ∧
      ((busy 2).onHw fun h => { h with nvm := { h.nvm with reqs := [⟨0x1004, 600, [], 5, false, .ledger⟩] } }).hw.pendWaits = true) ∧
    (let b := (busy 7).onHw fun h => { h with windows := [(2 * 2048 + 23 * 16, ⟨7, 1 + 0xFFFFFFF * 4096⟩)] }
     (b.hw.key.cmd.any fun c => c.op == 7) = true ∧ (b.hw.readAs b.mem 23 0 0x20000000 32).toOption = some (List.replicate 32 0#8)) := by
  decide +kernel

/-- A CMAC of one byte under slot 63, and its descriptor at the start of SRAM. -/
def job63 (waits : Option Nat) : KeyJob := ⟨⟨3, 0, none, 0, 1, 0x20000100, 0, 0, 0, 16, 0, 0x20000200⟩, List.replicate 32 1#8, waits⟩
def jobMem (slot : Bool) : List Host.Cell :=
  let w0 := 3 + 2 ^ 32 + if slot then 63 * 2 ^ 5 + 2 ^ 11 else 0
  memWrite [] 0x20000000 (([w0, 0x20000100, 0, 0, 16 * 2 ^ 16, 0, 0x20000200, 0].map fun w => toBytes 8 w).flatten)
def jobs (slot : Bool) (f : Hw → Hw) : State := { keyed keyStart 1 fun h =>
    let h := (((h.setFlag (KEY_S_ATTR_VALID 63) true).setFld (KEY_S_ATTR_MASK 63) 8).setFld (KEY_ENG_JOB 3) 0x20000000)
    f { h with windows := [(2 * 2048 + 23 * 16, ⟨7, 1 + 0xFFFFFFF * 4096⟩)] }
  with mem := jobMem slot }

theorem witness_KeyRegistersAndJobs :
    let s := jobs true id
    let src := from_ .keeper 0#8
    let orphan := jobs false fun h => { (h.setFld (KEY_K_W0_STATE 600) 2) with key := { h.key with reg := [(3, ⟨600, 0, 0, []⟩)] } }
    let d (t : State) := ((t.hw.readAs t.mem 23 0 0x20000000 64).toOption.bind fun b => keyDesc b 3)
    let run (w : Option Nat) := jobs true fun h => (h.setFld (KEY_K_W0_FLAGS 600) 2).setFld (KEY_K_W1_COUNT 600) 1 |>.setKey fun k => { k with job := [(3, job63 w)] }
    (src.dom = 0#8 ∧ s.hw.keyMode = keyStart ∧ s.hw.nodeState 600 = nodeValid ∧ s.hw.nodeMask 600 3 = true) ∧
    (orphan.hw.nodeState 600 ≠ nodeValid ∧ s.hw.nodeMask 600 2 = false) ∧
    (jobs true fun h => h.setFlag (KEY_ENG_STAT_RUN 3) true).hw.flag (KEY_ENG_STAT_RUN 3) = true ∧
    (∀ t ∈ [s, orphan], t.hw.flag (KEY_ENG_STAT_RUN 3) = false ∧
      t.hw.rangeOk src.master.val src.dom.toNat (t.hw.fld (KEY_ENG_JOB 3) / 64 * 64, 64, false) = true ∧
      t.hw.fld (KEY_ENG_JOB 3) / 64 * 64 = 0x20000000 ∧ ((d t).any fun x => opOk 3 x.op) = true) ∧
    ((d s).any fun x => (s.hw.jobKey src.dom.toNat 3 x).toOption == some ([], none) && s.hw.jobNodeOk x &&
      x.ranges.all fun r => s.hw.rangeOk src.master.val src.dom.toNat r) = true ∧
    ((d orphan).any fun x => x.slot == none && match orphan.hw.jobKey src.dom.toNat 3 x with | .error n => n == 1 | .ok _ => false) = true ∧
    (Memory.wf (run none).mem = true ∧ ((run none).hw.cores = State.reset.hw.cores ∧ (run none).hw.l2 = []) ∧ Tab.rising (run none).hw.key.job = true ∧ Tab.get? (run none).hw.key.job 3 = some (job63 none) ∧
      (job63 none).waits = none ∧ (job63 none).desc.op = 3 ∧ (job63 none).desc.slot = none ∧
      (∀ r ∈ (job63 none).desc.ranges, (run none).hw.rangeOk 23 0 r = true ∧
        (run none).hw.rangeCheck 23 0 r.1 r.2.1 (if r.2.2 then .write else .read) = none) ∧
      ((run none).hw.readAs (run none).mem 23 0 (job63 none).desc.src (job63 none).desc.len).toOption = some [0#8]) ∧
    (let w := run (some 600)
     w.hw.key.job = [(3, job63 (some 600))] ∧ (job63 (some 600)).waits = some 600 ∧ w.hw.sys.down = none ∧ w.hw.nodeFlag 600 1 = true ∧
      w.hw.fld (KEY_K_W1_COUNT 600) = 0 + 1 ∧ w.hw.nvm.waiting = []) := by
  decide +kernel

theorem witness_SlotsModesTamper :
    (from_ .keeper 0#8).dom = 0#8 ∧ (keyed keyStart 1 id).hw.keyMode ≠ keyRun ∧ (keyed keyRun 1 id).hw.keyMode = keyRun ∧
    (keyed keyStart 1 id).hw.keyMode = keyStart ∧ (keyed keyRun 1 id).hw.keyMode ≠ keyStart ∧
    (∀ x ∈ [((7 : Nat), job63 none)], x.1 < 8 ∧ (x.2.desc.slot.all fun k => decide (k < 64)) = true) ∧
    ((jobs true fun h => h.setKey fun k => { k with job := [(7, job63 none)] }).hw.key.job = [(7, job63 none)]) ∧
    (keyed keyRun 1 id).hw.nodeState 600 ≠ nodeFree ∧ Tab.rising State.reset.hw.flds = true := by
  decide +kernel

/-- Event `e` pending in context `c`. -/
def pending_ (c e : Nat) : State := st fun h => h.setFldBit (EVT_PEND c (e / 64)) (e % 64) true

theorem witness_EventsAndHostRecords :
    let open_ := st fun h => h.setFld (EVT_SWDOM_DOM 31) 5
    let low := pending_ 7 255
    ((from_ .keeper 0#8).dom = 0#8 ∧ (from_ .keeper 5#8).dom.toNat = open_.hw.fld (EVT_SWDOM_DOM 31)) ∧
    ((from_ .keeper 6#8).dom ≠ 0#8 ∧ (from_ .keeper 6#8).dom.toNat ≠ open_.hw.fld (EVT_SWDOM_DOM 31)) ∧
    ((7 : Nat) ≠ 8 ∧ (from_ .keeper 0#8).master.val = 4 ∧ low.hw.fldBit (EVT_PEND 7 (255 / 64)) (255 % 64) = true ∧
      ∀ k < 255, low.hw.fldBit (EVT_PEND 7 (k / 64)) (k % 64) = false) ∧
    (∀ k : Fin 256, (st id).hw.fldBit (EVT_PEND 8 (k.val / 64)) (k.val % 64) = false) ∧
    (512 ≤ (512#10).toNat ∧ (4#3).toNat ≤ 4) ∧ ((511#10).toNat < 512 ∧ 4 < (5#3).toNat) := by
  decide +kernel

/-- A record, and the Logbook as `f` makes it. -/
def rec_ (code sev seq dom : Nat) : LogRec := ⟨0, code, sev, false, 4, dom, 0, 0, 0, seq, 0#64⟩
def logged (tail : Nat) (f : Logbook → Logbook) : State := st fun h =>
  { h.setFld LOG_TAIL tail with log := f h.log, windows := [(2 * 2048 + 4 * 16, ⟨7, 1 + 0xFFFFFFF * 4096⟩)] }

theorem witness_LogbookPaths :
    let rs := [rec_ 1023 5 0 0]
    let five := logged 767 fun l => { l with arriving := rs }
    let win (n count supp : Nat) := logged 0 fun l => { l with arriving := [rec_ 1023 4 0 0], wins := [(1023, ⟨n, 2 ^ 64 - 1, count, supp, 4⟩)] }
    let win' (n count supp : Nat) := (win n count supp).onHw fun h => { h with log := { h.log with wins := [(1023, ⟨n, 1, count, supp, 4⟩)] } }
    let two := logged 0 fun l => { l with search := [(7, ⟨5⟩)], ring := [rec_ 2 3 1 0, rec_ 2 3 2 5] }
    let clr := logged 0 fun l => { l with clear := some ⟨4, 0, 0x20000000⟩ }
    (five.hw.log.arriving = rec_ 1023 5 0 0 :: [] ∧ (rec_ 1023 5 0 0).sev = 5 ∧ five.hw.fld LOG_TAIL < 768) ∧
    (Tab.get? (win' 3 2 0).hw.log.wins 1023 = some ⟨3, 1, 2, 0, 4⟩ ∧ 2 < 3 ∧ atOrAfter (win' 3 2 0).hw.tfree 1 = false) ∧
    ((win' 3 3 0).hw.log.arriving = rec_ 1023 4 0 0 :: [] ∧ (rec_ 1023 4 0 0).sev ≠ 5 ∧
      Tab.get? (win' 3 3 0).hw.log.wins 1023 = some ⟨3, 1, 3, 0, 4⟩ ∧ 3 ≤ 3 ∧ (win' 3 3 0).hw.flag LOG_SUPCNT_SAT = false) ∧
    ((logged 768 fun l => { l with arriving := rs }).hw.fld LOG_TAIL = 768) ∧
    (let closed := (win' 3 3 1).onHw fun h => h.setFld TIM_TFREE 1
     Tab.rising closed.hw.log.wins = true ∧ Tab.get? closed.hw.log.wins 1023 = some ⟨3, 1, 3, 1, 4⟩ ∧ 1 ≠ 0 ∧ atOrAfter closed.hw.tfree 1 = true) ∧
    (Tab.get? two.hw.log.search 7 = some ⟨5⟩ ∧ two.hw.log.ring = [rec_ 2 3 1 0] ++ rec_ 2 3 2 5 :: [] ∧
      (∀ x ∈ [rec_ 2 3 1 0], seqNewer (two.hw.fld (LOG_RD_CUR 7)) x.seq = true ∨ ((⟨5⟩ : LogSearch).dom ≠ 0 ∧ x.dom ≠ (⟨5⟩ : LogSearch).dom)) ∧
      seqNewer (two.hw.fld (LOG_RD_CUR 7)) (rec_ 2 3 2 5).seq = false ∧ (rec_ 2 3 2 5).dom = (⟨5⟩ : LogSearch).dom) ∧
    (∀ x ∈ [rec_ 2 3 1 0], seqNewer (two.hw.fld (LOG_RD_CUR 7)) x.seq = true ∨ ((⟨6⟩ : LogSearch).dom ≠ 0 ∧ x.dom ≠ (⟨6⟩ : LogSearch).dom)) ∧
    two.hw.flag LOG_STAT_CLRBUSY = false ∧
    (clr.hw.log.clear = some ⟨4, 0, 0x20000000⟩ ∧ clr.hw.sys.down = none ∧
      (clr.hw.readAs clr.mem 4 0 0x20000000 208).toOption = some (List.replicate 208 0#8) ∧ clr.hw.clearBlobOk (List.replicate 208 0#8) = false) := by
  decide +kernel

/-- A clear is accepted when its signature verifies, which is the open value itself. -/
theorem witness_LogbookPaths_accepted (hv : Config.ecdsaVerify false (List.replicate 64 0#8) (List.replicate 80 0#8) (List.replicate 64 0#8) = true) :
    let s := logged 0 fun l => { l with clear := some ⟨4, 0, 0x20000000⟩ }
    let k := s.onHw fun h => (((h.setFld (KEY_K_W0_STATE 0) 1).setFld (KEY_K_W0_KIND 0) 2).setFld (KEY_K_W0_MASK 0) 32 |>.setFld LOG_NONCE 0).setFld LOG_CLRKEY 0
      |>.setKey fun k => { k with val := [(0, Config.sha256 (List.replicate 64 0#8))] }
    k.hw.log.clear = some ⟨4, 0, 0x20000000⟩ ∧ k.hw.sys.down = none ∧
      (k.hw.readAs k.mem 4 0 0x20000000 208).toOption = some (List.replicate 208 0#8) ∧ k.hw.clearBlobOk (List.replicate 208 0#8) = true := by
  refine ⟨by decide +kernel, by decide +kernel, by decide +kernel, ?_⟩
  unfold Hw.clearBlobOk
  simp only [Bool.and_eq_true]
  refine ⟨⟨⟨⟨by decide +kernel, by decide +kernel⟩, by decide +kernel⟩, ?_⟩, ?_⟩
  · exact beq_self_eq_true (Config.sha256 (List.replicate 64 0#8))
  · exact hv

/-- The transaction of a clear commits where the store has a free sector, and not without one. -/
theorem witness_LogbookPaths_commits : ∀ free : Bool,
    let s := logged 0 fun l => { l with clear := some ⟨4, 0, 0x20000000⟩ }
    let h := { s.hw with nvm := { s.hw.nvm with sectors := if free then [(255, Sector.erased 0 0)] else [] } }
    let h0 := h.noteRefused 4 0 0x20000000 208 .read
    let h1 := ((h0.setFld LOG_NONCE (h0.freeVal 64)).useFree).setFlag LOG_STAT_CLRBUSY false
    (({ h1 with log := { h1.log with clear := none } } : Hw).clearAll ⟨4, 0, 0x20000000⟩ 0).2 = free ∧
      (h.setFlag (KEY_ENG_STAT_LOADED 1) true).cipherReady = true ∧ (h.setFlag (KEY_ENG_STAT_LOADED 1) false).cipherReady = false := by
  decide +kernel

theorem witness_AdmissionCommands :
    let busy := st fun h => { h with adm := { h.adm with cmd := some ⟨8, 0, 0, 0, 0, 0⟩ } }
    (st id).hw.admBusy = false ∧ busy.hw.admBusy = true := by
  decide +kernel

/-- An image of program 31 of domain 5 with one block, END, and one task, signed with zeros. -/
def progWords : List Word :=
  let hd := [0x554C4331, 31 + 5 * 2 ^ 8, 180, 0, 128, 3, 140, 6, 0, 0, 164, 3, 176, 1] ++ List.replicate 18 0
  let body := [1 + 2 ^ 16, 0, 0xD8000000] ++ List.replicate 6 0 ++ [1, 2 ^ 16, 0] ++ [0]
  (hd ++ body ++ List.replicate 48 0).map fun n => BitVec.ofNat 32 n
def progMem : List Host.Cell := memWrite [] 0x20000000 ((progWords.take 45).map fun w => toBytes 4 w.toNat).flatten
def minimal : Program :=
  ⟨5, 0, [0xD8000000#32], [0], List.replicate 6 ⟨0, 0⟩, [], [⟨0, 0, 1, 0⟩], [], [], [], [], [], [], [], none, 0⟩
def admitting (op : Nat) (f : Hw → Hw) : State := { st fun h =>
    let h := ((h.setFld (KEY_K_W0_STATE 277) 1).setFld (KEY_K_W0_KIND 277) 2).setKey fun k => { k with val := [(277, Config.sha256 (List.replicate 96 0#8))] }
    f { h with windows := [(2 * 2048 + 25 * 16, ⟨7, 1 + 0xFFFFFFF * 4096⟩)], adm := { h.adm with cmd := some ⟨op, 31, 7, 0, 0, 0x20000000⟩ } }
  with mem := progMem }
def signedText : List Byte := ((progWords.map fun w => toBytes 4 w.toNat).flatten).take 276

theorem ok_of {ε α : Type} {x : Except ε α} {y : α} (h : x.toOption = some y) : x = .ok y := by
  cases x <;> simp_all [Except.toOption]

theorem image_read (h : Hw) (mem : List Host.Cell) (r : (h.readWords mem .answered 0x20000000 32).toOption = some (progWords.take 32))
    (a : (h.readWords mem .answered 0x20000000 93).toOption = some progWords) :
    h.imageOf mem .answered 0x20000000 31 7 = .ok ({ minimal with wcet := 5 }, h.admitFindings 31 7 { minimal with wcet := 5 } progWords) := by
  have m : wordAt (progWords.take 32) 0 = progMagic := by decide +kernel
  have n : wordAt (progWords.take 32) 2 / 4 + 48 = 93 := by decide +kernel
  have p : (if headerOk 31 (progWords.take 32) then parseProgram progWords else none) = some minimal := by decide +kernel
  have w : minimal.worst (codeWords false minimal.code) = 5 := by decide +kernel
  unfold Hw.imageOf
  simp only [ok_of r, m, n, ok_of a, p, w, if_true]

theorem image_signed (h : Hw) (hv : Config.ecdsaVerify true (List.replicate 96 0#8) signedText (List.replicate 96 0#8) = true)
    (k : (h.fld (KEY_K_W0_STATE 277) == 1 && h.fld (KEY_K_W0_KIND 277) == 2) = true)
    (v : h.pubkeyOf 277 = Config.sha256 (List.replicate 96 0#8)) : h.imageSigned progWords 5 = true := by
  have b1 : (((progWords.map fun w => toBytes 4 w.toNat).flatten).drop (wordAt progWords 2)).take 96 = List.replicate 96 0#8 := by
    decide +kernel
  have b2 : ((progWords.map fun w => toBytes 4 w.toNat).flatten).take (wordAt progWords 2 + 96) = signedText := by decide +kernel
  have b3 : (((progWords.map fun w => toBytes 4 w.toNat).flatten).drop (wordAt progWords 2 + 96)).take 96 = List.replicate 96 0#8 := by
    decide +kernel
  have n : (272 + 5 : Nat) = 277 := rfl
  unfold Hw.imageSigned
  simp only [b1, b2, b3, n, k, v, hv, beq_self_eq_true, Bool.and_self]

/-- Where the image's signature verifies, which is the open value itself, it is admitted; where the program stands on another Lantern,
FORMAT refuses it. -/
theorem witness_VerdictsAndRetirements_images
    (hv : Config.ecdsaVerify true (List.replicate 96 0#8) signedText (List.replicate 96 0#8) = true) :
    (∀ op, op = 1 ∨ op = 2 → (admitting op id).hw.imageOf (admitting op id).mem .answered 0x20000000 31 7 = .ok ({ minimal with wcet := 5 }, [])) ∧
    (let s := admitting 1 fun h => { h with progs := [(31, ⟨0, 0, minimal⟩)] }
     ∃ fs, s.hw.imageOf s.mem .answered 0x20000000 31 7 = .ok ({ minimal with wcet := 5 }, fs) ∧ firstFinding fs = some ⟨.format, none⟩ ∧
      s.hw.flag FRM_CTRL_COMMISSION = false) := by
  refine ⟨?_, _, image_read _ _ (by decide +kernel) (by decide +kernel), ?_, by decide +kernel⟩
  · rintro op (rfl | rfl)
    all_goals
      rw [image_read _ _ (by decide +kernel) (by decide +kernel)]
      refine congrArg (fun l => Except.ok (({ minimal with wcet := 5 } : Program), l)) ?_
      unfold Hw.admitFindings
      rw [show Hw.imageSigned _ progWords ({ minimal with wcet := 5 } : Program).dom = true from image_signed _ hv (by decide +kernel) rfl]
      decide +kernel
  · unfold Hw.admitFindings
    rw [show Hw.imageSigned _ progWords ({ minimal with wcet := 5 } : Program).dom = true from image_signed _ hv (by decide +kernel) rfl]
    decide +kernel

/-- Program 31 stands alone on Lantern 7, which may retire when the others have room for it. -/
def homed (op : Nat) (f : Hw → Hw) : State := st fun h =>
  f { h with progs := [(31, ⟨7, 0, { minimal with wcet := 5, reloc := some [] }⟩)], adm := { h.adm with cmd := some ⟨op, 31, 7, 0, 0, 0x20000000⟩ } }

theorem witness_VerdictsAndRetirements :
    let s := homed 3 id
    let none_ := (homed 3 fun h => { h with progs := [] })
    let keeper := homed 0 fun h => { ((h.setFlag FRM_KRQ_REQ true).setFld FRM_KRQ_LNT 7) with adm := { h.adm with cmd := none } }
    let ret : Retirement := ⟨true, false, 7, [], [], .loading⟩
    (s.hw.adm.cmd = some ⟨3, 31, 7, 0, 0, 0x20000000⟩ ∧ ((Tab.get? s.hw.progsThen 31).any fun q => q.lnt == 7) = true) ∧
    Tab.get? none_.hw.progsThen 31 = none ∧
    (let blank := { admitting 1 id with mem := [] }
     blank.hw.adm.cmd = some ⟨1, 31, 7, 0, 0, 0x20000000⟩ ∧
      (match blank.hw.imageOf blank.mem .answered 0x20000000 31 7 with | .error f => f.at_ == none | .ok _ => false) = true) ∧
    ((homed 4 id).hw.adm.cmd = some ⟨4, 31, 7, 0, 0, 0x20000000⟩ ∧ (homed 4 id).hw.lntState 7 ≠ esRetired ∧
      ((homed 4 id).hw.movesOf 7).toOption.isSome = true) ∧
    ((from_ .keeper 0#8).master.val = 4 ∧ s.hw.adm.cmd.isSome = true) ∧
    (keeper.hw.adm.cmd = none ∧ keeper.hw.adm.retire = none ∧ keeper.hw.lntState 7 ≠ esRetired ∧ (keeper.hw.movesOf 7).toOption.isSome = true ∧
      keeper.hw.flag FRM_KRQ_REQ = true ∧ keeper.hw.flag FRM_KRQ_LOOP = false ∧ keeper.hw.fld FRM_KRQ_LNT = 7) ∧
    ((st fun h => { h with adm := { h.adm with retire := some ret } }).hw.adm.retire = some ret ∧ ret.stage = .loading) := by
  decide +kernel

/-- The Keeper as `f` leaves it. -/
def kept (f : Keep → Keep) : State := st fun h => { h.setFld KEEP_VDD_CODE 19 with keep := f h.keep }

theorem witness_KeeperCommands :
    let s := kept fun k => { k with raise := some (20, true) }
    let mv (d : Int) : BitVec 12 := BitVec.ofInt 12 (mvOf 19 + d)
    ((kept fun k => { k with cum := { k.cum with hist := [(0, [(0, 5)])] } }).hw.hourDue = false ∧ s.hw.hourDue = true) ∧
    ((List.replicate 16 0#16).length = 16 ∧ s.hw.elapsed s.hw.keep.tempAt < 1000000000 ∧
      1000000000 ≤ (s.onHw fun h => h.setFld TIM_TFREE 1000000000).hw.elapsed s.hw.keep.tempAt) ∧
    (s.hw.elapsed s.hw.keep.raiseAt < 1000000 ∧ 1000000 ≤ (s.onHw fun h => h.setFld TIM_TFREE 1000000).hw.elapsed s.hw.keep.raiseAt) ∧
    (∀ d ∈ [(-10 : Int), 10], s.hw.keep.raise = some (20, true) ∧ s.hw.fld KEEP_VDD_CODE < 20 ∧ mvOf (s.hw.fld KEEP_VDD_CODE) ≤ (mv d).toNat + 10 ∧
      (mv d).toNat ≤ mvOf (s.hw.fld KEEP_VDD_CODE) + 10) ∧
    (from_ .keeper 0#8).dom = 0#8 ∧ (s.onHw fun h => h.setFlag KEEP_STAT_PLANBUSY true).hw.flag KEEP_STAT_PLANBUSY = true ∧
    (s.hw.flag KEEP_STAT_PLANBUSY = false ∧ s.hw.keep.raise.isSome = true) ∧
    (let p := kept fun k => { k with props := [⟨5, 1, false, true⟩], outst := some 6 }
     bestProposal p.hw.keep.props = some ⟨5, 1, false, true⟩ ∧ p.hw.keep.outst = some 6) ∧
    (((19#5).toNat, 4) ∈ (kept fun k => { k with retired := [(19, 4)] }).hw.keep.retired) ∧ ((20#5).toNat, 4) ∉ s.hw.keep.retired := by
  decide +kernel

/-- Unit 2 of a pair in a state, whose peer 0x8002 it has heard before, or a witness; the key of the Watch is in engine 2. -/
def watching (role st_ : Nat) (f : Hw → Hw) : State := st fun h =>
  let h := ((((h.setFlag WCH_CTRL_EN true).setFld WCH_CTRL_ROLE role).setFld WCH_UNITID_UNIT 2).setFld WCH_STAT_STATE st_).setFld WCH_EPOCH 7
  let h := h.setFld WCH_RXBUF0 0x20000000
  f { h with
    wch := { h.wch with seen := [(0x8002, ⟨0, 0, 0⟩)] }
    key := { h.key with reg := [(2, ⟨300, 0, 0, List.replicate 16 9#8⟩)] }
    windows := [(2 * 2048 + 22 * 16, ⟨7, 1 + 0xFFFFFFF * 4096⟩)] }

/-- A message of the peer, with the check of path A. -/
def fromA (typ epoch ckseq value : Nat) (payload : List Byte) : WatchMsg :=
  let m : WatchMsg := ⟨0x8002, BitVec.ofNat 32 epoch, 1, 0, 0, BitVec.ofNat 32 ckseq, BitVec.ofNat 32 value, 0, 0, payload, []⟩
  { m with check := toBytes 4 (crc32 (msgBody m typ)) }

/-- The same with the tag of path B, which is the open value itself. -/
def fromB (typ epoch : Nat) : WatchMsg :=
  let m : WatchMsg := ⟨0x8002, BitVec.ofNat 32 epoch, 1, 0, 0, 0, 0, 0, 0, [], []⟩
  { m with check := watchTag (List.replicate 16 9#8) 0x8002 0 0 1 (msgBody m typ) }

theorem passes_of {h : Hw} {path : WPath} {typ : Nat} {first : Bool} {m : WatchMsg} {w : WSeen} (seen : Tab.get? h.wch.seen m.unit.toNat = some w)
    (v : h.msgVerifies path typ m = true) (l : m.payload.length ≤ 1024)
    (a : WSeen.above ⟨m.pcyc.toNat, msgHi m typ (some w), m.seq.toNat⟩ w = true) : h.passes path typ first m := by
  unfold Hw.passes
  simp only [seen]
  exact ⟨v, l, a⟩

/-- A message of a sender whose last accepted one was ⟨0, 0, 0⟩, with one check for its four conditions. -/
theorem passes_a {h : Hw} {path : WPath} {typ : Nat} {first : Bool} {m : WatchMsg}
    (c : Tab.get? h.wch.seen m.unit.toNat = some ⟨0, 0, 0⟩ ∧ h.msgVerifies path typ m = true ∧ m.payload.length ≤ 1024 ∧
      WSeen.above ⟨m.pcyc.toNat, msgHi m typ (some ⟨0, 0, 0⟩), m.seq.toNat⟩ ⟨0, 0, 0⟩ = true) : h.passes path typ first m :=
  passes_of c.1 c.2.1 c.2.2.1 c.2.2.2

theorem passes_b {h : Hw} {typ epoch : Nat} {first : Bool} (key : h.watchKey = some (List.replicate 16 9#8))
    (seen : Tab.get? h.wch.seen (fromB typ epoch).unit.toNat = some ⟨0, 0, 0⟩)
    (hi : msgHi (fromB typ epoch) typ (some ⟨0, 0, 0⟩) = 0) : h.passes .b typ first (fromB typ epoch) := by
  refine passes_of seen ?_ (by exact Nat.zero_le _) (by rw [hi]; exact (by decide +kernel : WSeen.above ⟨0, 0, 1⟩ ⟨0, 0, 0⟩ = true))
  unfold Hw.msgVerifies
  simp only [key, seen, hi, beq_iff_eq]
  rfl

theorem not_passes {h : Hw} {path : WPath} {typ : Nat} {first : Bool} {m : WatchMsg} (v : h.msgVerifies path typ m = false) : ¬h.passes path typ first m :=
  fun p => absurd p.1 (by rw [v]; decide)

def standby : State := watching 1 3 fun h => h.setWch fun w => { w with inn := some ⟨1, 0, 4, 4, 0xFFFFFFFF, []⟩ }
def keyless (role st_ : Nat) : State := watching role st_ fun h => { h with key := { h.key with reg := [] } }

theorem witness_WatchMessages :
    let peer (s : State) (m : WatchMsg) := s.hw.isDuplex = true ∧ s.hw.isPeer m = true
    let st_ (s : State) := s.hw.fld WCH_STAT_STATE
    let m := fromA 1 8 0 0 []
    let seg := fromA 2 7 1 4 (toBytes 4 (0xFFFFFFFF ^^^ 0xFFFFFFFF))
    let late := fromA 2 7 1 5 []
    let i : WIn := ⟨1, 0, 4, 4, 0xFFFFFFFF, []⟩
    let dup (t : Nat) := watching 1 t id
    ¬peer (st id) m ∧ (∀ c ∈ [1, 2, 3, 0x14], peer (dup 3) m ∧ ¬(dup 3).hw.passes .a c (c == 1) { m with check := [] }) ∧
    (∀ c ∈ [0x11, 0x12, 0x15], (keyless 1 3).hw.isDuplex = true ∧ ¬(keyless 1 3).hw.passes .b c true m) ∧
    (∀ c ∈ [0x10, 0x13, 0x14], (keyless 2 3).hw.isWitness = true ∧ ¬(keyless 2 3).hw.passes .b c true m) ∧
    ((peer (dup 4) m ∧ (dup 4).hw.passes .a 1 true m ∧ st_ (dup 4) = 4 ∧ (dup 4).hw.fld WCH_EPOCH < m.epoch.toNat) ∧
      (peer (dup 3) m ∧ (dup 3).hw.passes .a 1 true m ∧ st_ (dup 3) = 3) ∧ (dup 3).hw.flag (pathFld .a) = false) ∧
    (peer standby seg ∧ standby.hw.passes .a 2 false seg ∧ st_ standby = 3 ∧ seg.value ≠ 0#32 ∧ standby.hw.wch.inn = some i ∧
      seg.value.toNat = i.next ∧ seg.ckseq.toNat = i.seq ∧ standby.hw.writeAs 22 0 (standby.hw.rxAddr 0 + 4) 0 = none ∧
      Memory.wf standby.mem = true ∧ (standby.hw.cores = State.reset.hw.cores ∧ standby.hw.l2 = []) ∧ i.len + 4 ≤ i.next + seg.payload.length ∧
      i.tail ++ seg.payload.drop (seg.payload.take (i.len - i.next)).length = toBytes 4 (i.crc ^^^ 0xFFFFFFFF) ∧
      standby.hw.rangeCheck 22 0 (standby.hw.rxAddr 0) 4 .read = none) ∧
    (peer standby late ∧ standby.hw.passes .a 2 false late ∧ late.value ≠ 0#32 ∧ late.value.toNat ≠ i.next) ∧
    (let s := watching 1 3 fun h => h.setWch fun w => { w with ck := some ⟨0, 1, 4, 0⟩ }
     peer s m ∧ s.hw.passes .a 0x14 false (fromA 0x14 8 0 0 []) ∧ st_ s = 3 ∧ s.hw.wch.stop = false ∧ s.hw.wch.ck.isSome = true) ∧
    (dup 3).hw.passes .a 3 false (fromA 3 7 0 0 []) := by
  refine ⟨by decide +kernel, ?_, ?_, ?_, ?_⟩
  · intro c hc
    refine ⟨by decide +kernel, not_passes ?_⟩
    revert c
    decide +kernel
  · exact fun c _ => ⟨by decide +kernel, not_passes rfl⟩
  · exact fun c _ => ⟨by decide +kernel, not_passes rfl⟩
  · refine ⟨⟨⟨?_, passes_a ?_, ?_⟩, ⟨?_, passes_a ?_, ?_⟩, ?_⟩, ⟨?_, passes_a ?_, ?_⟩, ⟨?_, passes_a ?_, ?_⟩, ⟨?_, passes_a ?_, ?_⟩,
      passes_a ?_⟩ <;> decide +kernel

theorem witness_WatchMessages_witness :
    let dup (t : Nat) := watching 1 t id
    let wit := watching 2 0
    (∀ t, (dup t).hw.passes .b 0x11 true (fromB 0x11 8) ∧ (dup t).hw.passes .b 0x12 true (fromB 0x12 8) ∧ (dup t).hw.passes .b 0x15 true (fromB 0x15 8)) ∧
    (∀ t : Fin 6, (dup t).hw.isDuplex = true ∧ (dup t).hw.fld WCH_STAT_STATE = t ∧ atOrAfter (dup t).hw.tfree ((2 : Nat) ^ 62) = false) ∧
    ((dup 3).hw.fld ACT_VHEAD_NEXT < 16 ∧ (dup 4).hw.fld WCH_EPOCH < (fromB 0x11 8).epoch.toNat ∧
      (fromB 0x11 7).epoch.toNat = (dup 4).hw.fld WCH_EPOCH ∧ (dup 4).hw.passes .b 0x11 true (fromB 0x11 7)) ∧
    (∀ f : Wch → Wch, (∀ w, (f w).seen = w.seen) → ∀ g : Hw → Hw, (∀ h, (g h).key = h.key ∧ (g h).wch = h.wch) → let s := wit fun h => g (h.setWch f)
      s.hw.passes .b 0x10 true (fromB 0x10 7) ∧ s.hw.passes .b 0x13 true (fromB 0x13 7) ∧ s.hw.passes .b 0x14 true (fromB 0x14 7)) ∧
    ((wit id).hw.isWitness = true ∧ (wit id).hw.wch.grants = false) ∧
    (let g := wit fun h => h.setWch fun w => { w with grants := true }
     g.hw.wch.grants = true ∧ g.hw.witHeld = false) ∧
    (let g := wit fun h => (h.setFlag WCH_HOLDER_HELD true).setWch fun w => { w with grants := true, holder := some 0x8002, expiry := 1 }
     g.hw.wch.grants = true ∧ g.hw.witHeld = true ∧ g.hw.wch.holder = some 0x8002 ∧ g.hw.fld WCH_WEPOCH ≠ (fromB 0x10 7).epoch.toNat ∧
      g.hw.wch.held = none) := by
  refine ⟨fun t => ⟨passes_b rfl rfl rfl, passes_b rfl rfl rfl, passes_b rfl rfl rfl⟩, by decide +kernel,
    ⟨by decide +kernel, by decide +kernel, by decide +kernel, passes_b rfl rfl rfl⟩, ?_, by decide +kernel⟩
  intro f hf g hg
  have k : ∀ h : Hw, (g (h.setWch f)).watchKey = h.watchKey := fun h => by unfold Hw.watchKey; rw [(hg _).1]; rfl
  have w : ∀ h : Hw, (g (h.setWch f)).wch.seen = h.wch.seen := fun h => by rw [(hg _).2]; exact hf _
  have e : ∀ typ epoch, Tab.get? (watching 2 0 fun h => g (h.setWch f)).hw.wch.seen (fromB typ epoch).unit.toNat = some ⟨0, 0, 0⟩ :=
    fun typ epoch => by
      unfold watching st State.onHw
      dsimp only
      rw [w]
      rfl
  have c : (watching 2 0 fun h => g (h.setWch f)).hw.watchKey = some (List.replicate 16 9#8) := by
    unfold watching st State.onHw
    dsimp only
    rw [k]
    rfl
  exact ⟨passes_b c (e _ _) rfl, passes_b c (e _ _) rfl, passes_b c (e _ _) rfl⟩

/-- A second after reset, with what `f` makes of the Watch. -/
def later (t : Nat) (f : Hw → Hw) : State := watching 1 t fun h => f (h.setFld TIM_TFREE 1000000000)

theorem witness_WatchTimersAndCommands :
    let on (t : Nat) (f : Wch → Wch) := later t fun h => h.setWch f
    let dup (t : Nat) := on t id
    let soon (t : Nat) := watching 1 t id
    let run (s : State) := s.hw.isDuplex = true ∧ s.hw.wch.stop = false
    let o : WOut := ⟨1, 0, 0, 0x20000000, 4, 1024, 0⟩
    let more : WOut := ⟨1, 0, 0, 0x20000000, 2048, 0, 0⟩
    (run (dup 2) ∧ (dup 2).hw.waited (dup 2).hw.wch.hbAt 5 = true ∧ (soon 2).hw.waited (soon 2).hw.wch.hbAt 5 = false) ∧
    (¬(st id).hw.isDuplex = true ∧ (on 2 fun w => { w with stop := true }).hw.wch.stop = true) ∧
    ((dup 2).hw.fld WCH_STAT_STATE = 2 ∧ (dup 2).hw.wch.out = none ∧
      (dup 2).hw.waited (dup 2).hw.wch.ckAt ((dup 2).hw.fld WCH_CKCFG_PERIOD) = true ∧
      (soon 2).hw.waited (soon 2).hw.wch.ckAt ((soon 2).hw.fld WCH_CKCFG_PERIOD) = false) ∧
    (on 2 fun w => { w with out := some o }).hw.wch.out ≠ none ∧
    (let s := on 2 fun w => { w with out := some o }
     s.hw.wch.out = some o ∧ s.hw.ckSources = true ∧ s.hw.fld ACT_VHEAD_NEXT < 16 ∧ o.gap + o.warm + o.host + 4 ≤ o.off + 1024) ∧
    ((dup 2).onHw fun h => { h with bus := { h.bus with isolated := [18] } }).hw.ckSources = false ∧
    (let s := (on 2 fun w => { w with out := some more }).onHw fun h => h.setFlag WCH_STAT_PATHA true
     s.hw.wch.out = some more ∧ ¬more.gap + more.warm + more.host + 4 ≤ more.off + 1024 ∧ s.hw.flag WCH_STAT_PATHA = true ∧
      more.off + 1024 < more.gap + more.warm + more.host) ∧
    (∀ t : Fin 6, run (dup t) ∧ (dup t).hw.fld WCH_STAT_STATE = t) ∧
    ((dup 1).hw.waited (dup 1).hw.wch.reqAt 25 = true ∧ (soon 1).hw.waited (soon 1).hw.wch.reqAt 25 = false) ∧
    ((on 1 fun w => { w with reqOpen := true }).hw.wch.reqOpen = true ∧ (dup 1).hw.wch.reqOpen = false) := by
  decide +kernel

theorem witness_WatchTimersAndCommands_silence :
    let on (t : Nat) (f : Wch → Wch) := later t fun h => h.setWch f
    let dup (t : Nat) := on t id
    let soon (t : Nat) := watching 1 t id
    ((dup 4).hw.wch.unreach = false ∧ (dup 4).hw.waited (dup 4).hw.wch.since 1000 = true ∧ (soon 4).hw.waited (soon 4).hw.wch.since 1000 = false) ∧
    (atOrAfter (dup 2).hw.tfree (dup 2).hw.wch.lease = true ∧ atOrAfter (soon 2).hw.tfree 1 = false) ∧
    ((on 3 fun w => { w with ck := some ⟨0, 1, 4, 0⟩ }).hw.wch.ck.isSome = true ∧ (dup 3).hw.pathSilent .a = true ∧
      (dup 3).hw.pathSilent .b = true ∧ (dup 3).hw.wch.query = .none ∧ (soon 3).hw.pathSilent .a = false) ∧
    (on 3 fun w => { w with query := .release }).hw.wch.query ≠ .none ∧ (dup 3).hw.waited (dup 3).hw.wch.reqAt 10 = true ∧
    (later 3 fun h => h.setFlag WCH_CTRL_COLDTAKE true).hw.flag WCH_CTRL_COLDTAKE = true ∧
    (let s := (on 2 fun w => { w with heardA := 1000000000 }).onHw fun h => h.setFlag WCH_STAT_PATHB true
     s.hw.flag (pathFld .b) = true ∧ s.hw.pathSilent .b = true ∧ s.hw.pathSilent (otherPath .b) = false) ∧
    (dup 2).hw.flag (pathFld .a) = false := by
  decide +kernel

theorem witness_WatchTimersAndCommands_commands :
    let on (t : Nat) (f : Wch → Wch) := later t fun h => h.setWch f
    let dup (t : Nat) := on t id
    let soon (t : Nat) := watching 1 t id
    (let w := watching 2 0 fun h => (h.setFlag WCH_HOLDER_HELD true).setFld TIM_TFREE 102000000
     w.hw.isWitness = true ∧ w.hw.flag WCH_HOLDER_HELD = true ∧ w.hw.witHeld = false ∧ w.hw.wch.held = none ∧
      w.hw.waited w.hw.wch.since 102 = true) ∧
    (let w := watching 2 0 fun h => (h.setFlag WCH_HOLDER_HELD true).setWch fun w => { w with expiry := 1 }
     w.hw.witHeld = true ∧ w.hw.waited w.hw.wch.since 102 = false) ∧
    ((watching 2 0 fun h => h.setWch fun w => { w with held := some ⟨2, 0, 7, 0⟩ }).hw.wch.held = some ⟨2, 0, 7, 0⟩) ∧
    (dup 2).hw.isWitness = false ∧
    ((watching 1 2 fun h => h.setFldBit WCH_PHEALTH 0 true).hw.fldBit WCH_PHEALTH 0 = true ∧ (dup 2).hw.wch.sw = .none ∧
      (dup 2).hw.fldBit WCH_PHEALTH 0 = false) ∧
    (let s := on 2 fun w => { w with sw := .waiting }
     s.hw.wch.sw = .waiting ∧ s.hw.waited s.hw.wch.segAt 100 = true ∧ (dup 2).hw.wch.sw ≠ .waiting ∧
      (soon 2).hw.waited (soon 2).hw.wch.segAt 100 = false) ∧
    ([⟨19, none⟩] : List TestFail).getLast? = some ⟨19, none⟩ ∧ (dup 3).hw.sys.down = none := by
  decide +kernel

def downing (d : Option Nat) (f : Hw → Hw) : State := st fun h => f { h with sys := { h.sys with down := d } }
def bootRecord : NvmRec := ⟨0x0002, 0, 3, [0#8], 0, false⟩

theorem witness_Resets :
    let tampered := downing none fun h => { h.setFlag KEY_STAT_TAMPER true with
      sys := { h.sys with tamperAt := some 0 }
      nvm := { h.nvm with sectors := [(0, { Sector.erased 0 0 with groups := [⟨false, false, 0, true, 1, [bootRecord]⟩] })] } }
    let pf := downing (some 7) fun h => { h with sys := { h.sys with captured := true, pfHigh := true } }
    let late (t : Nat) (f : Sys → Sys) := st fun h => { h.setFld TIM_TFREE t with sys := f h.sys }
    (∀ d : Fin 9, (late 13000000 fun y => { y with down := some d.val }).hw.sys.down = some d.val) ∧
    (let s := late 13000000 fun y => { y with down := some 2 }
     13000000 ≤ s.hw.elapsed s.hw.sys.downAt) ∧
    ((st id).hw.sys.down = none ∧ (downing (some 7) id).hw.sys.down = some 7 ∧
      (late 12999999 id).hw.elapsed (late 12999999 id).hw.sys.downAt < 13000000) ∧
    (pf.hw.sys.down = some 7 ∧ pf.hw.sys.captured = true ∧ pf.hw.sys.pfHigh = true ∧ pf.hw.elapsed pf.hw.sys.pfAt < 100000000 ∧
      100000000 ≤ (pf.onHw fun h => h.setFld TIM_TFREE 100000000).hw.elapsed pf.hw.sys.pfAt) ∧
    ((st id).hw.sys.tamperAt = none ∧ ¬((st id).hw.phase ≠ .idle ∧ 2 ≤ (st id).hw.frame.missed)) ∧
    (let m := st fun h => { h with phase := .open_, frame := { h.frame with missed := 2 } }
     m.hw.phase ≠ .idle ∧ 2 ≤ m.hw.frame.missed) ∧
    (let t (n : Nat) := late n fun y => { y with tamperAt := some 0 }
     (t 29999).hw.sys.tamperAt = some 0 ∧ (t 29999).hw.latched = false ∧ (t 29999).hw.elapsed 0 < 30000 ∧ 30000 ≤ (t 30000).hw.elapsed 0) ∧
    (tampered.hw.sys.tamperAt = some 0 ∧ tampered.hw.nvm.live 0x0002 0 = some bootRecord ∧ bootRecord.payload ≠ []) := by
  decide +kernel

theorem save_ready (h : Hw) (a : h.sys.down = none) (b : h.isDuplex = false) (c : ∀ f < 8, h.flag (MTR_F_CFG_EN f) = false) : SaveReady h :=
  ⟨a, fun _ => by rw [b]; rfl, fun f hf he => absurd he (by rw [c f hf]; decide)⟩

theorem witness_SavesAndPowerDown :
    let wd (w : Bool) := st fun h => { (h.setFlag SYS_WDCFG_EN true).setFld TIM_TFREE 2000000000 with sys := { h.sys with warned := w } }
    let port := st fun h => { h.setFld TIM_TFREE 10000000 with bus := { h.bus with isolated := [12], isoAt := [(12, 0)] } }
    let soon := st fun h => { h.setFld TIM_TFREE 9999999 with bus := { h.bus with isolated := [12], isoAt := [(12, 0)] } }
    let isolatedLong (s : State) := 10000000 ≤ s.hw.elapsed (Tab.getD s.hw.bus.isoAt 12 0)
    let due (s : State) := s.hw.fld SYS_WDCFG_PERIOD * 1000000 ≤ s.hw.elapsed s.hw.sys.wdAt
    let ready (d : Nat) := downing (some d) fun h => { (h.setFlag (KEY_ENG_STAT_LOADED 1) true).setFld TIM_TFREE 2000000 with
      sys := { h.sys with captured := true }, nvm := { h.nvm with sectors := [(255, Sector.erased 0 0)] } }
    (∀ w, SaveReady (wd w).hw) ∧ SaveReady port.hw ∧
    ((wd true).hw.flag SYS_WDCFG_EN = true ∧ (wd true).hw.sys.warned = true ∧ due (wd true)) ∧
    (0xA5C2#16 ≠ 0xA5C3#16 ∧ (12 : Fin 20).val ∈ port.hw.bus.isolated ∧ isolatedLong port ∧ ¬isolatedLong soon ∧ (from_ .keeper 0#8).dom = 0#8) ∧
    (∀ d : Fin 9, (ready d).hw.sys.down = some d.val ∧ (ready d).hw.sys.captured = true ∧ (ready d).hw.flag SYS_STAT_PDDONE = false ∧
      (ready d).hw.cipherReady = true ∧ 2000000 ≤ (ready d).hw.elapsed (ready d).hw.sys.downAt) ∧
    ((ready 2).hw.saveCommit.flag SYS_STAT_PDDONE = true ∧
      ((ready 2).onHw fun h => { h with nvm := { h.nvm with sectors := [] } }).hw.saveCommit.flag SYS_STAT_PDDONE = false) ∧
    (¬((11 : Fin 20).val = 1 ∨ 12 ≤ (11 : Fin 20).val) ∧ (st id).hw.flag SYS_WDCFG_EN = false ∧ (wd false).hw.sys.warned = false ∧ due (wd false) ∧
      (wd false).hw.flag SYS_WDWARN_SAT = false ∧ (wd false).hw.fld SYS_WDWARN_COUNT < 2 ^ 31 - 2) ∧
    ((ready 7).hw.fld SYS_BOOTSTAT_MODE != 1) = true := by
  refine ⟨fun w => save_ready _ rfl ?_ ?_, save_ready _ rfl ?_ ?_, ?_⟩
  all_goals first | (cases w <;> decide +kernel) | decide +kernel

def staged (b : BootStage) (f : Hw → Hw) : State := st fun h => f { h with sys := { h.sys with boot := b } }
def bootIn : BootIn := ⟨false, false, none, none, none, none, 0, false, false, false, []⟩
def mounted (h : Hw) (b : BootIn) : Hw :=
  let root := ((h.mount b.cut).planStage b.planLost).rootStage b
  let tail := if root.cipherReady then root.tailCommit else root
  tail.billResume (if tail.cipherReady then b.savesBad.val else tail.bil.saves.length) (tail.flag NVM_STAT_PDCOK && tail.cipherReady)

/-- An image in slot A with no body, signed with zeros under a key whose hash is the anchor. -/
def slotImage : List Byte :=
  toBytes 4 0x5A46494D ++ toBytes 4 1 ++ toBytes 4 160 ++ toBytes 4 64 ++ List.replicate 240 0#8
def slotTab : Tab Byte := (List.range 256).map fun i => (i, slotImage.getD i 0)
def slotted (h : Hw) : Hw :=
  (List.range 8).foldl (fun (h : Hw) i => h.setFld (KEY_ANCHOR_HASH i) 0x01010101) { h with nvm := { h.nvm with code := slotTab } }

theorem getD_range {α : Type} (f : Nat → α) {n i : Nat} {d : α} (h : i < n) : Tab.getD ((List.range n).map fun i => (i, f i)) i d = f i := by
  have g : ∀ n a, a ≤ i → i < a + n → Tab.get? ((List.range' a n).map fun i => (i, f i)) i = some (f i) := by
    intro n
    induction n with
    | zero => intro a ha hi; omega
    | succ n ih =>
      intro a ha hi
      by_cases e : i = a
      · subst e; simp [List.range'_succ, Tab.get?]
      · simp [List.range'_succ, Tab.get?, e, ih (a + 1) (by omega) (by omega), show ¬i < a by omega]
  rw [List.range_eq_range', Tab.getD, g n 0 (Nat.zero_le _) (by omega)]
  rfl

theorem slot_bytes {h : Hw} (c : h.nvm.code = slotTab) : ∀ i < 256, h.nvm.flashByte i = slotImage.getD i 0 := by
  have t : ∀ i < 256, Tab.getD slotTab i 0xFF#8 = slotImage.getD i 0 := fun i hi => by
    unfold slotTab
    exact getD_range _ hi
  intro i hi
  unfold Nvm.flashByte
  rw [if_pos (by omega), c, t i hi]

/-- A slot of erased flash holds no image. -/
theorem slot_erased (h : Hw) (c : h.nvm.code = []) (slot : Bool) : h.slotCheck slot false = 2 := by
  have b : ∀ base, base ≤ 0x600000 → ((List.range 4).map fun i => h.nvm.flashByte (base + 0 + i)) = List.replicate 4 0xFF#8 := by
    intro base hb
    rw [List.map_congr_left (g := fun _ => 0xFF#8) fun i hi => by
      have := List.mem_range.1 hi
      unfold Nvm.flashByte
      rw [if_pos (by omega), c]
      rfl]
    rfl
  have m : ofBytes (List.replicate 4 0xFF#8) ≠ 0x5A46494D := by decide
  unfold Hw.slotCheck
  simp only [Bool.false_eq_true, if_false]
  rw [b _ (by cases slot <;> decide), if_pos (Or.inl m)]

/-- A slot passes when its key has the anchor's hash and its signature verifies, which are open values. -/
theorem slot_passes (h : Hw) (hs : Config.sha256 (List.replicate 96 0#8) = List.replicate 32 1#8)
    (hv : Config.ecdsaVerify true (List.replicate 96 0#8) (slotImage.take 160) (List.replicate 96 0#8) = true)
    (c : h.nvm.code = slotTab) (a : ∀ i < 8, h.fld (KEY_ANCHOR_HASH i) = 0x01010101)
    (f : h.sys.bootRec.floor = 0) : h.slotCheck false false = 0 := by
  have get : ∀ k n, k + n ≤ 256 → ((List.range n).map fun i => h.nvm.flashByte (0 + k + i)) = (List.range n).map fun i => slotImage.getD (k + i) 0 :=
    fun k n hk => List.map_congr_left fun i hi => by rw [Nat.zero_add]; exact slot_bytes c _ (by have := List.mem_range.1 hi; omega)
  have anchor : ((List.range 8).map fun i => toBytes 4 (h.fld (KEY_ANCHOR_HASH i))) = List.replicate 8 (toBytes 4 0x01010101) := by
    rw [List.map_congr_left (g := fun _ => toBytes 4 0x01010101) fun i hi => by rw [a i (List.mem_range.1 hi)]]
    rfl
  have len : ofBytes ((List.range 4).map fun i => slotImage.getD (8 + i) 0) = 160 := by decide +kernel
  have key : ((List.range 96).map fun i => slotImage.getD (64 + i) 0) = List.replicate 96 0#8 := by decide +kernel
  have body : ((List.range 160).map fun i => slotImage.getD (0 + i) 0) = slotImage.take 160 := by decide +kernel
  have sig : ((List.range 96).map fun i => slotImage.getD (160 + i) 0) = List.replicate 96 0#8 := by decide +kernel
  have ok : ¬(ofBytes ((List.range 4).map fun i => slotImage.getD (0 + i) 0) ≠ 0x5A46494D ∨ ofBytes ((List.range 46).map fun i => slotImage.getD (18 + i) 0) ≠ 0
      ∨ 1 < ofBytes ((List.range 1).map fun i => slotImage.getD (16 + i) 0) ∨ 1 < ofBytes ((List.range 1).map fun i => slotImage.getD (17 + i) 0)
      ∨ 6 * 2 ^ 20 < 160 + 96) := by decide +kernel
  have an : (List.replicate 8 (toBytes 4 0x01010101)).flatten = List.replicate 32 1#8 := by decide +kernel
  unfold Hw.slotCheck
  simp only [Bool.false_eq_true, if_false, get 8 4 (by decide), get 0 4 (by decide), get 18 46 (by decide), get 16 1 (by decide), get 17 1 (by decide),
    get 4 4 (by decide), get 64 96 (by decide), len, get 0 160 (by decide), get 160 96 (by decide), key, body, sig, anchor, an, hs, hv, f, ok]
  decide

theorem witness_SuppliesAndBoot :
    let up := staged .supplied id
    let anchored := staged .supplied fun h => h.setFld (KEY_ANCHOR_HASH 7) 1
    ((staged .held id).hw.sys.boot = .held ∧ (staged .held id).hw.elapsed (staged .held id).hw.sys.startAt < 100000000 ∧
      100000000 ≤ (staged .held fun h => h.setFld TIM_TFREE 100000000).hw.elapsed (staged .held id).hw.sys.startAt) ∧ ¬up.hw.sys.boot = .held ∧ ((1 : Fin 8).val = 1 ∧ (7 : Fin 8).val ≠ 1) ∧
    ((up.onHw fun h => h.setFld SYS_SUPSTAT_INRANGE 127).hw.fld SYS_SUPSTAT_INRANGE < 256) ∧ (staged .up id).hw.sys.boot ≠ .supplied ∧
    (up.hw.sys.boot = .supplied ∧ ((List.range 8).any fun i => (mounted up.hw bootIn).fld (KEY_ANCHOR_HASH i) != 0) = false) ∧
    (anchored.hw.sys.boot = .supplied ∧ ((List.range 8).any fun i => (mounted anchored.hw bootIn).fld (KEY_ANCHOR_HASH i) != 0) = true ∧
      ∀ slot, (mounted anchored.hw bootIn).slotCheck slot false ≠ 0) := by
  have m : let m := mounted (staged .supplied fun h => h.setFld (KEY_ANCHOR_HASH 7) 1).hw bootIn
      m.nvm.code = [] ∧ ((List.range 8).any fun i => m.fld (KEY_ANCHOR_HASH i) != 0) = true := by decide +kernel
  refine ⟨by decide +kernel, by decide +kernel, by decide, by decide +kernel, by decide +kernel, by decide +kernel, rfl, m.2, fun slot => ?_⟩
  rw [slot_erased _ m.1]
  decide

theorem witness_SuppliesAndBoot_image (hs : Config.sha256 (List.replicate 96 0#8) = List.replicate 32 1#8)
    (hv : Config.ecdsaVerify true (List.replicate 96 0#8) (slotImage.take 160) (List.replicate 96 0#8) = true) :
    let s := staged .supplied slotted
    s.hw.sys.boot = .supplied ∧ ((List.range 8).any fun i => (mounted s.hw bootIn).fld (KEY_ANCHOR_HASH i) != 0) = true ∧
      (mounted s.hw bootIn).slotCheck false false = 0 := by
  have m : let m := mounted (staged .supplied slotted).hw bootIn
      m.nvm.code = slotTab ∧ (∀ i < 8, m.fld (KEY_ANCHOR_HASH i) = 0x01010101) ∧ m.sys.bootRec.floor = 0 := by decide +kernel
  refine ⟨rfl, List.any_eq_true.2 ⟨0, by decide, ?_⟩, slot_passes _ hs hv m.1 m.2.1 m.2.2⟩
  rw [m.2.1 0 (by decide)]
  rfl

theorem witness_SystemCommands (hs : Config.sha256 (List.replicate 96 0#8) = List.replicate 32 1#8)
    (hv : Config.ecdsaVerify true (List.replicate 96 0#8) (slotImage.take 160) (List.replicate 96 0#8) = true) :
    let s := st fun h => { slotted h with sys := { h.sys with bootRec := { h.sys.bootRec with pref := true } } }
    ((from_ .keeper 0#8).dom = 0#8 ∧ s.hw.slotCheck (!s.hw.sys.bootRec.pref) false = 0) ∧
      (st id).hw.slotCheck (!(st id).hw.sys.bootRec.pref) false ≠ 0 ∧ s.hw.slotCheck (!s.hw.sys.bootRec.pref) true ≠ 0 :=
  ⟨⟨rfl, slot_passes _ hs hv (by decide +kernel) (by decide +kernel) (by decide +kernel)⟩,
    by rw [slot_erased _ rfl]; decide, by decide +kernel⟩

/-- A frame of a running part that starts with nothing admitted, and one that has been published. -/
def frameIdle (f : Hw → Hw) : State := st fun h => f ((h.setFlag FRM_STAT_RUNNING true).setFlag FRM_CTRL_RUN true)
def frameClosed (f : Hw → Hw) : State := frameIdle fun h => f { h with
  phase := .closed
  img := { h.img with merged := [(130, ⟨7#32, 0, 0⟩)] } }

theorem witness_FrameCommands :
    let s := frameIdle fun h => { h with sys := { h.sys with restored := true } }
    let n := frameClosed id
    (downing (some 7) id).hw.sys.down.isSome = true ∧
    ((st id).hw.sys.down = none ∧ (st id).hw.starts = false ∧ (st id).hw.adm.changes = [] ∧ (st id).hw.img.load = none) ∧
    (s.hw.sys.down = none ∧ s.hw.starts = true ∧ s.hw.adm.changes = [] ∧ s.hw.img.load = none ∧ s.hw.adm.retire = none ∧
      s.hw.img.stWrites = [] ∧ s.hw.sys.restored = true ∧ s.hw.fld ACT_VHEAD_NEXT < 16 ∧
      ∀ n < 1536, s.hw.fld (RIO_SCFG_NOTIFY n) < 8) ∧
    (s.hw.phase ≠ .closed) ∧
    (n.hw.phase = .closed ∧ (n.hw.flag PKT_CTRL_EN = false ∧ ∀ k < 8, n.hw.fillList k = []) ∧ n.hw.adm.retire = none ∧
      n.hw.wch.took = none ∧ n.hw.wch.sw = .none ∧ n.hw.wch.ckDue = false ∧ n.hw.sys.down = none) ∧
    (frameClosed fun h => h.setFld WCH_STAT_STATE 3).hw.outputsHeld = true ∧
    (∀ d ∈ [(51 : Int), -51], let t := frameIdle fun h => { (h.setFld TIM_STAT_STATE 2).setFlag FRM_CTRL_ALIGN true with
        clk := { h.clk with base := (1000000 + d).toNat } }
     t.hw.nt = 1000000 + d ∧ t.hw.fld TIM_STAT_STATE = 2 ∧ t.hw.flag FRM_CTRL_ALIGN = true) ∧
    ((keyed keyRun 1 id).hw.keyMode = keyRun ∧ (st id).hw.keyMode ≠ keyRun) := by
  decide +kernel

/-! The whole machine -/

theorem witness_StepRunsFrontCommand : (step { State.reset with pending := [.frameWatchdog] }) = exec .frameWatchdog State.reset := rfl

theorem witness_MemoryStaysCanonical :
    let s : State := { State.reset with mem := [(0x20000000, 1#8)], pending := [.transaction (txn .keeper .write 0x20000000#64) .answered] }
    Memory.wf s.mem = true ∧ ∃ t, step s = .next t :=
  ⟨by decide, _, rfl⟩

theorem witness_CodeRoundTrips :
    let ton : Instr := .ulcTon 7 ⟨.one, 3⟩ 0x1FFFF
    let lak : Instr := .ulcLak 7 0xFFFFFFFF#32
    (wellFormed ton = true ∧ (ulcEncode ton).isSome = true) ∧ ((wellFormed lak = true ∧ (ulcEncode lak).any fun e => e.2 == some 0xFFFFFFFF#32) = true) ∧
    (ulcDecode 7 0x80004A26#32 0#32).isSome = true ∧ (balsilEncode (.dSpmv 31 7 31 15 15)).isSome = true ∧
    (balsilDecode 0x4030061000000000#64).isSome = true := by
  decide +kernel

theorem witness_ZeroPresetsAndWrap :
    let s := lantern fun x => { x with enb := true, ba := true, ctr := [(9, ⟨2 ^ 32 - 1, false, false, false⟩)] }
    let x := s.hw.lan 3
    x.enb = true ∧ x.wa = 0#32 ∧ (x.timer (x.index ⟨.none, 0⟩ 9)).q = false ∧ x.ba = true ∧ (x.counter (x.index ⟨.none, 0⟩ 9)).inp = false ∧
      (x.counter (x.index ⟨.none, 0⟩ 9)).cv = 2 ^ 32 - 1 := by
  decide +kernel

theorem witness_ZeroPresetsAndWrap_runs : (lantern fun x => { x with enb := true, ba := true }).hw.lan 3 |>.Runs := lantern_runs _ rfl

theorem witness_ViolationRecords :
    let last := st fun h => h.setFld ACT_VHEAD_NEXT 15
    last.hw.fld ACT_VHEAD_NEXT < 16 ∧ (15 : Nat) < 16 ∧ last.hw.flag ACT_VCNT_SAT = false ∧ last.hw.fld ACT_VCNT_COUNT < 2 ^ 31 - 2 ∧
      (from_ (.host 3) 1#8).dom ≠ 0#8 ∧ (from_ (.host 3) 1#8).master.val ≠ 4 := by
  decide +kernel

/-! Words written out from the spec decode to what they stand for -/

/-- The watch task of chapter 03 (the table after R157), word by word, and what each word stands for. -/
def watchTask : List (Word × Instr) :=
  [(0xC8042AA0#32, .ulcLoop 0 160 21 4), (0x88102A43#32, .ulcLas 0 ⟨.strideA, 0⟩ 0x2A43), (0x9C000001#32, .ulcLbi 0 1),
    (0xAC00000C#32, .ulcIop 0 .and), (0xB8000000#32, .ulcCmp 0 .i32 .eq), (0x24000000#32, .ulcAndBracket 0),
    (0x80102A43#32, .ulcLa 0 .inp ⟨.strideA, 0⟩ 0x2A43), (0x86000000#32, .ulcLb 0 .const ⟨.none, 0⟩ 0), (0xB8000012#32, .ulcCmp 0 .f32 .lt),
    (0x30000000#32, .ulcCloseBracket 0), (0x9800EA60#32, .ulcLai 0 60000), (0x5D700000#32, .ulcTon 0 ⟨.one, 0⟩ 0),
    (0xA8000003#32, .ulcWmv 0 .wba), (0x90606500#32, .ulcTa 0 .out ⟨.strideB, 0⟩ 0x6500), (0x80102A43#32, .ulcLa 0 .inp ⟨.strideA, 0⟩ 0x2A43),
    (0x84102A44#32, .ulcLb 0 .inp ⟨.strideA, 0⟩ 0x2A44), (0xB0000001#32, .ulcFop 0 .fsub), (0x84102A45#32, .ulcLb 0 .inp ⟨.strideA, 0⟩ 0x2A45),
    (0xB0000002#32, .ulcFop 0 .fmul), (0x86000001#32, .ulcLb 0 .const ⟨.none, 0⟩ 1), (0xB0000002#32, .ulcFop 0 .fmul),
    (0x91300000#32, .ulcTa 0 .lw ⟨.one, 0⟩ 0), (0xCC000000#32, .ulcEndl 0), (0xD8000000#32, .ulcEnd 0)]

theorem test_ulc_words_of_the_watch_task : ∀ e ∈ watchTask, ulcDecode 0 e.1 0#32 = some e.2 := by decide +kernel

/-- Its worst case is 4,646 ticks (chapter 03). -/
theorem test_ulc_ticks_of_the_watch_task :
    let code := watchTask.map Prod.fst
    ({ minimal with code := code } : Program).worst (codeWords false code) = 4646 := by decide +kernel

/-- R119: `LA IN P:0x0_4A26`. -/
theorem test_ulc_word_la : ulcDecode 5 0x80004A26#32 0#32 = some (.ulcLa 5 .inp ⟨.none, 0⟩ 0x4A26) := by decide +kernel

/-- R148: opcodes 0x00 and 0x3E are undefined; 0x3F is NOP. -/
theorem test_ulc_word_refused :
    ulcDecode 0 0#32 0#32 = none ∧ ulcDecode 0 0xF8000000#32 0#32 = none ∧ ulcDecode 0 0xFC000000#32 0#32 = some (.ulcNop 0) := by decide +kernel

/-- R248: `SPMV vd6 ← f1 × mx0 × vd3 + f0 × vd6` and `B f2 < f3, 0x0123`. -/
theorem test_balsil_words :
    balsilDecode 0x4030061000000000#64 = some (.dSpmv 6 0 3 1 0) ∧ balsilDecode 0x5000860500000123#64 = some (.dB (.flt 2 3) 0x123) := by
  decide +kernel

/-- R249: a field an instruction does not use holds 0. -/
theorem test_balsil_word_refused : balsilDecode 0x5000861500000123#64 = none ∧ balsilDecode 0#64 = none := by decide +kernel

/-- The table gives no row bits. -/
theorem test_no_command_word : decodeTableWord 32 0x80004A26 = none := by decide

/-! Ill-formed commands, which wellFormed refuses, one for each of its checks -/

theorem test_wf_register_access :
    wellFormed (.registerWrite (from_ .keeper 0#8) 0x2FFFFFFC#40 .w32 0#64) = false ∧
    wellFormed (.registerWrite (from_ .keeper 0#8) 0x31000000#40 .w32 0#64) = false ∧
    wellFormed (.registerWrite (from_ .keeper 0#8) 0x30000002#40 .w32 0#64) = false ∧
    wellFormed (.lowerHalfRead (from_ .keeper 0#8) 0x30000004#40) = false := by decide

theorem test_wf_transaction :
    wellFormed (.transaction { txn .keeper .write 0 with size := 2 } .answered) = false ∧
    wellFormed (.transaction { txn .keeper .read 0 with size := 257 } .answered) = false ∧
    wellFormed (.transaction { txn .keeper .read 0 with size := 0 } .answered) = false := by decide

theorem test_wf_cache_line :
    wellFormed (.cacheWriteback 0 0x20000001#40 true) = false ∧ wellFormed (.cacheWriteback 0 0x2000003F#40 false) = false := by decide

theorem test_wf_late_response : wellFormed (.lateResponse 0 (List.replicate 257 0#8)) = false := by decide +kernel

theorem test_wf_ulc_operands :
    wellFormed (.ulcLd 0 .const 0 0) = false ∧ wellFormed (.ulcLd 0 .mrk 1 0) = false ∧ wellFormed (.ulcLd 0 .lrd 0 0x8000) = false ∧
    wellFormed (.ulcSt 0 .inp 0 0) = false ∧ wellFormed (.ulcRe 0 ⟨.none, 1⟩ 0) = false ∧ wellFormed (.ulcTa 0 .inp ⟨.none, 0⟩ 0) = false ∧
    wellFormed (.ulcTas 0 .lw ⟨.none, 0⟩ 0) = false ∧ wellFormed (.ulcLsm 0 0 0) = false := by decide +kernel

theorem test_wf_readings :
    wellFormed (.hourlyReading [] 0 []) = false ∧ wellFormed (.temperatureReading []) = false ∧
    wellFormed (.scratchWrite (from_ .keeper 0#8) 0x7FFFFF [0#8, 0#8]) = false ∧ wellFormed (.scratchWrite (from_ .keeper 0#8) 0 []) = false := by decide

theorem test_wf_can_frame :
    let f : CanFrame := ⟨0x7FF, false, false, false, false, false, 1, [0#8]⟩
    canFrameOk f = true ∧ canFrameOk { f with id := 0x800 } = false ∧ canFrameOk { f with fdf := true, rtr := true } = false ∧
    canFrameOk { f with brs := true } = false ∧ canFrameOk { f with data := [] } = false ∧
    wellFormed (.canFrameStored 0 { f with data := [] }) = false := by decide

/-! Worked examples of the spec -/

/-- R376, chapter 09: the window of its example as WLO and WHI give it. -/
theorem test_window_of_the_example :
    let w : Window := ⟨0x000000104000017B, 0x0000001043FFF001⟩
    w.valid = true ∧ w.base = 0x1040000 ∧ w.limit = 0x1043FFF ∧ w.domOk 23 = true ∧ w.domOk 22 = false ∧ w.grants .read = true ∧
      w.grants .write = true ∧ w.grants .fetch = false := by decide

/-- CRC-32 of "123456789" (R404). -/
theorem test_crc32 : crc32 ([0x31, 0x32, 0x33, 0x34, 0x35, 0x36, 0x37, 0x38, 0x39].map fun n => BitVec.ofNat 8 n) = 0xCBF43926 := by
  decide +kernel

end Sys2Proof.Tests
end

section
/-! Settled statements of Uscia Logic Code (03): the presets of 0 of TON and TP, and the wrap of CTW. -/

namespace Sys2Proof.Machine

/-! ## A Lantern in the hardware -/

@[simp] theorem Hw.lan_setLan_self (h : Hw) (l : Nat) (x : Lantern) : (h.setLan l x).lan l = x := Tab.getD_put_self ..

theorem Hw.lan_setLan_other (h : Hw) {l k : Nat} (x : Lantern) (hk : k ≠ l) : (h.setLan l x).lan k = h.lan k :=
  Tab.getD_put_other _ _ _ hk

theorem Agrees.setLan {sc : Scope} {a b : Hw} {l : Nat} {x : Lantern} (hp : Part.lnt ∈ sc.parts) (agreed : Agrees sc a b) :
    Agrees sc a (b.setLan l x) := agreed.lnt_with hp

/-! ## An instruction of a running Lantern -/

/-- A running Lantern takes the instruction's effect, its ticks and the way of its PC (R85, R108). -/
theorem Hw.ulcLen_of_runs {h : Hw} {l : Fin 8} (runs : (h.lan l.val).Runs) (cost len : Nat) (f : Lantern → Lantern) :
    h.ulcLen l cost len f = h.setLan l.val { f (h.lan l.val) with
      ticks := (f (h.lan l.val)).ticks + cost, pc := ((f (h.lan l.val)).pc + len) % 2 ^ 15 } := by
  obtain ⟨p, t, first, doing⟩ := runs
  simp only [Hw.ulcLen, doing]

/-- A command that is one instruction of a running Lantern, whose effect leaves ticks and PC to the fetch. -/
theorem LanternRuns.of_ulcLen {c : Instr} {s : State} {l : Fin 8} {cost len : Nat} {f : Lantern → Lantern} {P : Lantern → Prop}
    (runs : (s.hw.lan l.val).Runs) (meaning : exec c s = .next { s with hw := s.hw.ulcLen l cost len f })
    (ticks : (f (s.hw.lan l.val)).ticks = (s.hw.lan l.val).ticks) (pc : (f (s.hw.lan l.val)).pc = (s.hw.lan l.val).pc)
    (effect : P (f (s.hw.lan l.val))) : LanternRuns c s l cost len P := by
  refine ⟨_, meaning, rfl, rfl, ?_⟩
  rw [Hw.ulcLen_of_runs runs]
  refine ⟨(Agrees.refl _ _).setLan (List.mem_singleton_self _), fun k hk => Hw.lan_setLan_other _ _ hk, ?_⟩
  simp only [Hw.lan_setLan_self, ← ticks, ← pc]
  exact ⟨trivial, trivial, effect⟩

/-! ## Timer instructions (R129, R131) -/

/-- What a timer instruction makes of its Lantern: IN = BA, PT = WA; then BA takes Q and WA takes ET. -/
def Lantern.timerStep (m : Mod) (idx : BitVec 17) (f : Timer → Bool → Nat → Timer) (x : Lantern) : Lantern :=
  let t := f (x.timer (x.index m idx)) x.ba x.wa.toNat
  { x.putTimer (x.index m idx) t with ba := t.q, wa := BitVec.ofNat 32 t.et }

section
variable (x : Lantern) (m : Mod) (idx : BitVec 17) (f : Timer → Bool → Nat → Timer)

theorem Lantern.timerStep_ba : (x.timerStep m idx f).ba = (f (x.timer (x.index m idx)) x.ba x.wa.toNat).q := rfl

theorem Lantern.timerStep_ticks : (x.timerStep m idx f).ticks = x.ticks := by
  unfold timerStep putTimer; split <;> rfl

theorem Lantern.timerStep_pc : (x.timerStep m idx f).pc = x.pc := by
  unfold timerStep putTimer; split <;> rfl

theorem Lantern.timer_timerStep_self (enb : x.enb = true) :
    (x.timerStep m idx f).timer (x.index m idx) = f (x.timer (x.index m idx)) x.ba x.wa.toNat := by
  simp [timerStep, putTimer, enb, timer]
end

theorem Hw.timerOp_eq_ulcLen (h : Hw) (l : Fin 8) (m : Mod) (idx : BitVec 17) (f : Timer → Bool → Nat → Timer) :
    h.timerOp l m idx f = h.ulcLen l 4 1 (Lantern.timerStep m idx f) := rfl

/-- A timer instruction of a running Lantern has the outcome that `timerStep` gives. -/
theorem LanternRuns.of_timerOp {c : Instr} {s : State} {l : Fin 8} {m : Mod} {idx : BitVec 17} {f : Timer → Bool → Nat → Timer}
    {P : Lantern → Prop} (runs : (s.hw.lan l.val).Runs) (meaning : exec c s = .next (s.onHw fun h => h.timerOp l m idx f))
    (effect : P ((s.hw.lan l.val).timerStep m idx f)) : LanternRuns c s l 4 1 P :=
  .of_ulcLen runs (meaning.trans (by rw [State.onHw, Hw.timerOp_eq_ulcLen])) (Lantern.timerStep_ticks ..)
    (Lantern.timerStep_pc ..) effect

theorem exec_ulcTon (l : Fin 8) (m : Mod) (idx : BitVec 17) (s : State) :
    exec (.ulcTon l m idx) s = .next (s.onHw fun h => h.timerOp l m idx Timer.ton) := rfl

theorem exec_ulcTp (l : Fin 8) (m : Mod) (idx : BitVec 17) (s : State) :
    exec (.ulcTp l m idx) s = .next (s.onHw fun h => h.timerOp l m idx Timer.tp) := rfl

/-- Every elapsed time has reached a preset of 0. -/
theorem Timer.ton_zero_q (t : Timer) (inp : Bool) : (t.ton inp 0).q = inp := by simp [Timer.ton]

/-- No elapsed time lies below a preset of 0: a pulse, started now or earlier, ends in the same execution. -/
theorem Timer.tp_zero_q {t : Timer} (q : t.q = false) (inp : Bool) : (t.tp inp 0).q = false := by
  unfold Timer.tp
  extract_lets started pulsed idle
  have started_q : started.q = false := by
    unfold started; split <;> exact q
  have pulsed_q : pulsed.q = false := by
    unfold pulsed; split
    · exact decide_eq_false (Nat.not_lt_zero started.et)
    · exact started_q
  unfold idle; split <;> exact pulsed_q

/-! ## Counter instructions (R129, R132, R133) -/

/-- What a counter instruction makes of its Lantern: then BA takes Q and WA takes CV. -/
def Lantern.counterStep (m : Mod) (idx : BitVec 17) (f : Counter → Bool → Nat → Counter) (x : Lantern) : Lantern :=
  let c := f (x.counter (x.index m idx)) x.ba x.wa.toNat
  { x.putCounter (x.index m idx) c with ba := c.q, wa := BitVec.ofNat 32 c.cv }

section
variable (x : Lantern) (m : Mod) (idx : BitVec 17) (f : Counter → Bool → Nat → Counter)

theorem Lantern.counterStep_ticks : (x.counterStep m idx f).ticks = x.ticks := by
  unfold counterStep putCounter; split <;> rfl

theorem Lantern.counterStep_pc : (x.counterStep m idx f).pc = x.pc := by
  unfold counterStep putCounter; split <;> rfl

theorem Lantern.counter_counterStep_self (enb : x.enb = true) :
    (x.counterStep m idx f).counter (x.index m idx) = f (x.counter (x.index m idx)) x.ba x.wa.toNat := by
  simp [counterStep, putCounter, enb, counter]
end

/-- A counter instruction that leaves SAT as it was reaches no limit: it captures nothing and raises nothing. -/
theorem Hw.counterOp_of_sat_eq (h : Hw) (l : Fin 8) (m : Mod) (idx : BitVec 17) {f : Counter → Bool → Nat → Counter}
    (sat : ∀ c inp v, (f c inp v).sat = c.sat) : h.counterOp l m idx f = h.ulcLen l 4 1 (Lantern.counterStep m idx f) := by
  have no_hit : ∀ enb sat running : Bool, (enb && sat && !sat && running) = false := by decide
  simp only [Hw.counterOp, sat, no_hit, Bool.false_eq_true, if_false]
  rfl

/-- A counter instruction of a running Lantern that leaves SAT as it was has the outcome that `counterStep` gives. -/
theorem LanternRuns.of_counterOp {c : Instr} {s : State} {l : Fin 8} {m : Mod} {idx : BitVec 17}
    {f : Counter → Bool → Nat → Counter} {P : Lantern → Prop} (runs : (s.hw.lan l.val).Runs)
    (meaning : exec c s = .next (s.onHw fun h => h.counterOp l m idx f)) (sat : ∀ c inp v, (f c inp v).sat = c.sat)
    (effect : P ((s.hw.lan l.val).counterStep m idx f)) : LanternRuns c s l 4 1 P :=
  .of_ulcLen runs (meaning.trans (by rw [State.onHw, Hw.counterOp_of_sat_eq _ _ _ _ sat])) (Lantern.counterStep_ticks ..)
    (Lantern.counterStep_pc ..) effect

theorem exec_ulcCtw (l : Fin 8) (m : Mod) (idx : BitVec 17) (s : State) :
    exec (.ulcCtw l m idx) s = .next (s.onHw fun h => h.counterOp l m idx Counter.ctw) := rfl

/-- CTW never sets SAT, so its wrap raises no LIMIT (R133). -/
theorem Counter.ctw_sat (c : Counter) (inp : Bool) (v : Nat) : (c.ctw inp v).sat = c.sat := by
  unfold Counter.ctw; split <;> rfl

/-- A rising input counts one on, modulo 2 to the power 32. -/
theorem Counter.ctw_cv_of_rise {c : Counter} (inp : c.inp = false) (v : Nat) : (c.ctw true v).cv = (c.cv + 1) % 2 ^ 32 := by
  simp [Counter.ctw, inp]

/-! ## The statement -/

/-- Settles O59: no ET lies below PT = 0, and CTW leaves SAT as it was, so no LIMIT follows its wrap. -/
theorem zeroPresetsAndWrap : Obligations.ZeroPresetsAndWrap := by
  intro s l m idx x i runs enb
  refine ⟨fun wa => ?ton, fun wa q => ?tp, fun ba inp _ => ?ctw⟩
  case ton =>
    have q : (Timer.ton (x.timer i) x.ba x.wa.toNat).q = x.ba := by rw [wa]; exact Timer.ton_zero_q _ _
    refine .of_timerOp runs (exec_ulcTon l m idx s) ⟨?_, (Lantern.timerStep_ba ..).trans q⟩
    rw [Lantern.timer_timerStep_self _ _ _ _ enb, q]
  case tp =>
    have q : (Timer.tp (x.timer i) x.ba x.wa.toNat).q = false := by rw [wa]; exact Timer.tp_zero_q q _
    refine .of_timerOp runs (exec_ulcTp l m idx s) ⟨?_, (Lantern.timerStep_ba ..).trans q⟩
    rw [Lantern.timer_timerStep_self _ _ _ _ enb, q]
  case ctw =>
    refine .of_counterOp runs (exec_ulcCtw l m idx s) Counter.ctw_sat ?_
    rw [Lantern.counter_counterStep_self _ _ _ _ enb, ba, Counter.ctw_cv_of_rise inp]

end Sys2Proof.Machine
end

section
/-! Settled statements of memory protection (09): the record, the count and the event of a refused transaction. -/

namespace Sys2Proof.Machine

/-! ## Writing several fields -/

/-- Writes fields in turn. -/
def Hw.setFlds (h : Hw) (ws : List (Fld × Nat)) : Hw := ws.foldl (fun h w => h.setFld w.1 w.2) h

theorem Hw.setFlds_cons (h : Hw) (w : Fld × Nat) (ws : List (Fld × Nat)) :
    h.setFlds (w :: ws) = (h.setFld w.1 w.2).setFlds ws := rfl

theorem Hw.fld_setFlds_other (h : Hw) {ws : List (Fld × Nat)} {g : Fld} (other : ∀ w ∈ ws, Fld.key g ≠ Fld.key w.1) :
    (h.setFlds ws).fld g = h.fld g := by
  induction ws generalizing h with
  | nil => rfl
  | cons w ws ih =>
    obtain ⟨first, later⟩ := List.forall_mem_cons.1 other
    rw [Hw.setFlds_cons, ih _ later, Hw.fld_setFld_other _ _ first]

/-- Of different fields each reads what was written to it, cut to its width. -/
theorem Hw.fld_setFlds_of_mem (h : Hw) {ws : List (Fld × Nat)} {f : Fld} {v : Nat}
    (distinct : (ws.map fun w => Fld.key w.1).Nodup) (mem : (f, v) ∈ ws) : (h.setFlds ws).fld f = v % 2 ^ f.w := by
  induction ws generalizing h with
  | nil => cases mem
  | cons w ws ih =>
    obtain ⟨first, later⟩ := List.nodup_cons.1 distinct
    rw [Hw.setFlds_cons]
    rcases List.mem_cons.1 mem with rfl | mem
    · rw [Hw.fld_setFlds_other _ fun u hu e => first (List.mem_map.2 ⟨u, hu, e.symm⟩), Hw.fld_setFld_self]
    · exact ih _ later mem

theorem PendUp.setFlds (h : Hw) {ws : List (Fld × Nat)} (no : ∀ w ∈ ws, noPend w.1) : PendUp h (h.setFlds ws) :=
  .foldl _ ws (fun g w hw => .setFld g w.2 (no w hw)) h

theorem Agrees.setFlds {sc : Scope} {a b : Hw} {ws : List (Fld × Nat)} (within : ∀ w ∈ ws, sc.has w.1)
    (agreed : Agrees sc a b) : Agrees sc a (b.setFlds ws) :=
  agreed.foldl fun g w hw => (Agrees.refl sc g).setFld (within w hw)

/-! ## Network time (R467) -/

theorem Hw.nt_congr {a b : Hw} (clk : b.clk = a.clk) (tim : ∀ g ∈ [TIM_TFREE, TIM_CTRL_EN, TIM_RATE], b.fld g = a.fld g) :
    b.nt = a.nt := by
  simp only [List.forall_mem_cons] at tim
  obtain ⟨tfree, en, rate, -⟩ := tim
  unfold Hw.nt Hw.ntFine Hw.rateEff Hw.sinceFold Hw.elapsed Hw.tfree Hw.flag Hw.sfld
  rw [clk, tfree, en, rate]

theorem Hw.nt_lt (h : Hw) : h.nt < 2 ^ 64 := by
  unfold Hw.nt
  omega

/-! ## The ring of violations (R378) -/

/-- Where a violation writes: the block of the access tables, apart from events, their routes and the clock. -/
theorem violationFields_block {n : Nat} (room : n < 16) :
    ∀ f ∈ violationFields n, 0x302E0000 * 64 ≤ Fld.key f ∧ Fld.key f < 0x302F0000 * 64 := by
  simp only [violationFields, List.forall_mem_cons, List.not_mem_nil, false_implies, implies_true, and_true, Fld.key,
    ACT_VREC_ADDR, ACT_VREC_MASTER, ACT_VREC_DOMAIN, ACT_VREC_TARGET, ACT_VREC_KIND, ACT_VREC_CAUSE, ACT_VREC_TIME, ACT_VHEAD_NEXT,
    ACT_VCNT_COUNT, ACT_VCNT_SAT]
  omega

theorem violationFields_distinct (n : Nat) : ((violationFields n).map Fld.key).Nodup := by
  simp only [violationFields, List.map_cons, List.map_nil, List.nodup_cons, List.nodup_nil, List.mem_cons, List.not_mem_nil,
    or_false, not_false_eq_true, and_true, Fld.key, ACT_VREC_ADDR, ACT_VREC_MASTER, ACT_VREC_DOMAIN, ACT_VREC_TARGET,
    ACT_VREC_KIND, ACT_VREC_CAUSE, ACT_VREC_TIME, ACT_VHEAD_NEXT, ACT_VCNT_COUNT, ACT_VCNT_SAT]
  omega

/-- The record at ring position `n` and the head that follows it. -/
def refusalRecord (n addr master dom target : Nat) (kind : TKind) (cause : Cause) (time : Nat) : List (Fld × Nat) :=
  [(ACT_VREC_ADDR n, addr), (ACT_VREC_MASTER n, master), (ACT_VREC_DOMAIN n, dom), (ACT_VREC_TARGET n, target),
    (ACT_VREC_KIND n, kindCode kind), (ACT_VREC_CAUSE n, cause.code), (ACT_VREC_TIME n, time), (ACT_VHEAD_NEXT, n + 1)]

section
variable {h : Hw} {addr master dom target : Nat} {kind : TKind} {cause : Cause}

/-- The fields a violation writes are those of the record and the counter: no two of them are the same. -/
theorem refusalRecord_count_distinct (n time : Nat) : ((refusalRecord n addr master dom target kind cause time).map
    (fun w => Fld.key w.1) ++ [Fld.key ACT_VCNT_COUNT, Fld.key ACT_VCNT_SAT]).Nodup := violationFields_distinct n

theorem mem_violationFields_of_refusalRecord {n time : Nat} {w : Fld × Nat}
    (mem : w ∈ refusalRecord n addr master dom target kind cause time) : w.1 ∈ violationFields n :=
  List.mem_append_left _ (List.mem_map_of_mem mem)

theorem refusalRecord_distinct (n time : Nat) :
    ((refusalRecord n addr master dom target kind cause time).map fun w => Fld.key w.1).Nodup :=
  (List.nodup_append.1 (refusalRecord_count_distinct n time)).1

/-- The counter is no field of the record. -/
theorem refusalRecord_other_than_count {n time : Nat} {w : Fld × Nat}
    (mem : w ∈ refusalRecord n addr master dom target kind cause time) :
    Fld.key w.1 ≠ Fld.key ACT_VCNT_COUNT ∧ Fld.key w.1 ≠ Fld.key ACT_VCNT_SAT := by
  obtain ⟨-, -, apart⟩ := List.nodup_append.1 (refusalRecord_count_distinct n time)
  have key := List.mem_map_of_mem (f := fun w => Fld.key w.1) mem
  exact ⟨apart _ key _ (by simp), apart _ key _ (by simp)⟩

/-- The time of the record is network time at the refusal: the fields written before it are no part of the clock. -/
theorem Hw.recordRefused_eq (room : h.fld ACT_VHEAD_NEXT < 16) : h.recordRefused addr master dom target kind cause =
    ((h.setFlds (refusalRecord (h.fld ACT_VHEAD_NEXT) addr master dom target kind cause h.nt)).countS
      ACT_VCNT_COUNT ACT_VCNT_SAT 210 1).raise 208 := by
  have time : (h.setFlds ((refusalRecord (h.fld ACT_VHEAD_NEXT) addr master dom target kind cause 0).take 6)).nt = h.nt := by
    refine Hw.nt_congr rfl fun g tim => Hw.fld_setFlds_other h fun w mem e => ?_
    have below := (by decide : ∀ g ∈ [TIM_TFREE, TIM_CTRL_EN, TIM_RATE], Fld.key g < 0x302E0000 * 64) g tim
    have := violationFields_block room w.1 (mem_violationFields_of_refusalRecord (List.mem_of_mem_take mem))
    omega
  rw [← time]
  rfl

/-! ## A refused transaction (R377, R378) -/

/-- The answer to a refused transaction: the error response, and a host core's access fault (R377). -/
def Hw.answerRefused (h : Hw) (master : Nat) (kind : TKind) : Hw :=
  let h := { h with bus := { h.bus with resp := ⟨true, []⟩ } }
  if master < 4 then h.hostExc master (faultOf kind) else h

theorem Hw.violation_eq : h.violation addr master dom target kind cause =
    (h.answerRefused master kind).recordRefused addr master dom target kind cause := rfl

theorem Hw.answerRefused_flds : (h.answerRefused master kind).flds = h.flds := by
  unfold answerRefused; split <;> rfl

theorem Hw.answerRefused_clk : (h.answerRefused master kind).clk = h.clk := by
  unfold answerRefused; split <;> rfl

theorem Hw.answerRefused_resp : (h.answerRefused master kind).bus.resp = ⟨true, []⟩ := by
  unfold answerRefused; split <;> rfl

theorem Hw.answerRefused_fld (g : Fld) : (h.answerRefused master kind).fld g = h.fld g := by
  simp only [Hw.fld, Hw.answerRefused_flds]

theorem Hw.answerRefused_nt : (h.answerRefused master kind).nt = h.nt :=
  Hw.nt_congr Hw.answerRefused_clk fun g _ => Hw.answerRefused_fld g

theorem Hw.answerRefused_core (k : Nat) : (h.answerRefused master kind).core k =
    if k < 4 ∧ k = master then { h.core k with exc := some (faultOf kind) } else h.core k := by
  by_cases host : master < 4
  · by_cases same : k = master
    · subst same
      simp [answerRefused, hostExc, setCore, core, host]
    · simp [answerRefused, hostExc, setCore, core, host, same, Tab.getD_put_other]
  · have other : ¬(k < 4 ∧ k = master) := by omega
    rw [if_neg other, answerRefused, if_neg host]
    rfl

theorem Agrees.answerRefused {sc : Scope} {a b : Hw} (bus : Part.bus ∈ sc.parts) (cores : Part.cores ∈ sc.parts)
    (agreed : Agrees sc a b) : Agrees sc a (b.answerRefused master kind) := by
  unfold Hw.answerRefused
  exact .ite (fun _ => (agreed.bus_with bus).setCore cores) fun _ => agreed.bus_with bus

/-- The state in which a refusal has been answered and stands in the ring, before it is counted. -/
def Hw.enterRefused (h : Hw) (addr master dom target : Nat) (kind : TKind) (cause : Cause) : Hw :=
  (h.answerRefused master kind).setFlds (refusalRecord (h.fld ACT_VHEAD_NEXT) addr master dom target kind cause h.nt)

/-- A refused transaction is answered and recorded, then counted, then E208 is raised. -/
theorem Hw.violation_steps (room : h.fld ACT_VHEAD_NEXT < 16) : h.violation addr master dom target kind cause =
    ((h.enterRefused addr master dom target kind cause).countS ACT_VCNT_COUNT ACT_VCNT_SAT 210 1).raise 208 := by
  rw [Hw.violation_eq, Hw.recordRefused_eq (by rwa [Hw.answerRefused_fld]), Hw.answerRefused_fld, Hw.answerRefused_nt,
    Hw.enterRefused]

theorem Hw.enterRefused_fld_other {g : Fld}
    (other : ∀ w ∈ refusalRecord (h.fld ACT_VHEAD_NEXT) addr master dom target kind cause h.nt, Fld.key g ≠ Fld.key w.1) :
    (h.enterRefused addr master dom target kind cause).fld g = h.fld g :=
  (Hw.fld_setFlds_other _ other).trans (Hw.answerRefused_fld g)

theorem Hw.enterRefused_resp : (h.enterRefused addr master dom target kind cause).bus.resp = ⟨true, []⟩ :=
  Hw.answerRefused_resp

theorem Hw.enterRefused_cores :
    (h.enterRefused addr master dom target kind cause).cores = (h.answerRefused master kind).cores := rfl

/-- No field of a violation is one that events change, and none a pending bit or a route. -/
theorem violationFields_no_event {n : Nat} (room : n < 16) : ∀ f ∈ violationFields n, ¬evtFld f ∧ noPend f := by
  intro f mem
  have := violationFields_block room f mem
  simp only [evtFld, noPend, routeFld]
  omega

theorem PendUp.enterRefused (room : h.fld ACT_VHEAD_NEXT < 16) :
    PendUp h (h.enterRefused addr master dom target kind cause) :=
  (PendUp.ofFlds Hw.answerRefused_flds).trans <| .setFlds _ fun w mem =>
    (violationFields_no_event room w.1 (mem_violationFields_of_refusalRecord mem)).2

theorem violationScope_has {f : Fld} (mem : f ∈ violationFields (h.fld ACT_VHEAD_NEXT)) : (violationScope h).has f :=
  .inl (List.mem_map_of_mem mem)

theorem Agrees.enterRefused : Agrees (violationScope h) h (h.enterRefused addr master dom target kind cause) :=
  ((Agrees.refl _ h).answerRefused (by simp [violationScope, ownEvents]) (by simp [violationScope, ownEvents])).setFlds
    fun _ mem => violationScope_has (mem_violationFields_of_refusalRecord mem)

/-! ### What a violation leaves behind -/

/-- The ring's position reads the record, and the head the position behind it. -/
theorem Hw.fld_violation_of_mem (room : h.fld ACT_VHEAD_NEXT < 16) {f : Fld} {v : Nat}
    (mem : (f, v) ∈ refusalRecord (h.fld ACT_VHEAD_NEXT) addr master dom target kind cause h.nt) :
    (h.violation addr master dom target kind cause).fld f = v % 2 ^ f.w := by
  obtain ⟨count, sat⟩ := refusalRecord_other_than_count mem
  have no_event := (violationFields_no_event room f (mem_violationFields_of_refusalRecord mem)).1
  rw [Hw.violation_steps room, Hw.raise_fld _ (by decide) no_event, Hw.countS_fld _ _ (by decide) count sat no_event,
    Hw.enterRefused, Hw.fld_setFlds_of_mem _ (refusalRecord_distinct _ _) mem]

/-- A counter that has room counts a violation. -/
theorem Hw.violation_count (room : h.fld ACT_VHEAD_NEXT < 16) (unsat : h.flag ACT_VCNT_SAT = false)
    (below : h.fld ACT_VCNT_COUNT < 2 ^ 31 - 2) :
    (h.violation addr master dom target kind cause).fld ACT_VCNT_COUNT = h.fld ACT_VCNT_COUNT + 1 := by
  have count : (h.enterRefused addr master dom target kind cause).fld ACT_VCNT_COUNT = h.fld ACT_VCNT_COUNT :=
    Hw.enterRefused_fld_other fun _ mem => (refusalRecord_other_than_count mem).1.symm
  have sat : (h.enterRefused addr master dom target kind cause).flag ACT_VCNT_SAT = false := by
    rw [← unsat, Hw.flag, Hw.enterRefused_fld_other fun _ mem => (refusalRecord_other_than_count mem).2.symm, Hw.flag]
  rw [Hw.violation_steps room, Hw.raise_fld _ (by decide) (by decide),
    Hw.countS_room _ sat (by rw [count]; exact Nat.add_lt_of_lt_sub below), Hw.fld_setFld_self, count]
  exact Nat.mod_eq_of_lt (by simp only [ACT_VCNT_COUNT] at below ⊢; omega)

theorem Hw.violation_signals (room : h.fld ACT_VHEAD_NEXT < 16) :
    Signals 208 h (h.violation addr master dom target kind cause) := by
  rw [Hw.violation_steps room]
  exact .after (by decide) ((PendUp.enterRefused room).trans (.countS _ (by decide) (by decide) (by decide)))
    (Hw.raise_signals _ (by decide))

theorem Hw.violation_agrees (room : h.fld ACT_VHEAD_NEXT < 16) :
    Agrees (violationScope h) h (h.violation addr master dom target kind cause) := by
  have events : (violationScope h).events := ownEvents_events _ _
  rw [Hw.violation_steps room]
  exact (Agrees.enterRefused.countS (by decide) events (violationScope_has (by simp [violationFields]))
    (violationScope_has (by simp [violationFields]))).raise (by decide) events

theorem Hw.violation_resp (room : h.fld ACT_VHEAD_NEXT < 16) :
    (h.violation addr master dom target kind cause).bus.resp = ⟨true, []⟩ := by
  rw [Hw.violation_steps room, Hw.raise_bus _ (by decide), Hw.countS_bus _ (by decide), Hw.enterRefused_resp]

theorem Hw.violation_core (room : h.fld ACT_VHEAD_NEXT < 16) (k : Nat) :
    (h.violation addr master dom target kind cause).core k =
      if k < 4 ∧ k = master then { h.core k with exc := some (faultOf kind) } else h.core k := by
  rw [← Hw.answerRefused_core, Hw.core, Hw.core, Hw.violation_steps room, Hw.raise_cores _ (by decide),
    Hw.countS_cores _ (by decide), Hw.enterRefused_cores]

end

theorem master_val_lt (m : Master) : m.val < 2 ^ 7 := by
  cases m <;> simp only [Master.val] <;> omega

theorem kindCode_lt (kind : TKind) : kindCode kind < 2 ^ 2 := by cases kind <;> decide

theorem Cause.code_lt (cause : Cause) : cause.code < 2 ^ 3 := by cases cause <;> decide

/-- Every field of the record holds its value whole, but for the address, which is cut to 40 bits, and the head, which wraps. -/
theorem Hw.violation_violates {h : Hw} (addr : Nat) (src : Src) {target : Nat} (kind : TKind) (cause : Cause)
    (room : h.fld ACT_VHEAD_NEXT < 16) (tgt : target < 16) :
    Violates addr src target kind cause h (h.violation addr src.master.val src.dom.toNat target kind cause) := by
  have cut {f : Fld} {v : Nat} (mem : (f, v) ∈ refusalRecord (h.fld ACT_VHEAD_NEXT) addr src.master.val src.dom.toNat target
      kind cause h.nt) := Hw.fld_violation_of_mem room mem
  have whole {f : Fld} {v : Nat} (lt : v < 2 ^ f.w) (mem : (f, v) ∈ refusalRecord (h.fld ACT_VHEAD_NEXT) addr src.master.val
      src.dom.toNat target kind cause h.nt) := (cut mem).trans (Nat.mod_eq_of_lt lt)
  refine ⟨cut ?_, whole (master_val_lt _) ?_, whole src.dom.isLt ?_, whole tgt ?_, whole (kindCode_lt _) ?_,
    whole cause.code_lt ?_, whole h.nt_lt ?_, cut ?_, Hw.violation_resp room, Hw.violation_core room, Hw.violation_signals room⟩
  all_goals simp [refusalRecord]

/-! ## Commands that only one source may give (R34, R372) -/

section
variable {s : State} {src : Src} {c : Instr} {a addr : Nat}

/-- A command turned away as a register write is a violation at the register's address, and nothing else. -/
theorem Runs.of_refuseReg (room : s.hw.fld ACT_VHEAD_NEXT < 16)
    (meaning : exec c s = .next (s.onHw fun h => h.refuseReg src addr)) :
    Runs c s (violationScope s.hw) fun h => Violates addr src 8 .write .targetRule s.hw h ∧
      (s.hw.flag ACT_VCNT_SAT = false → s.hw.fld ACT_VCNT_COUNT < 2 ^ 31 - 2 →
        h.fld ACT_VCNT_COUNT = s.hw.fld ACT_VCNT_COUNT + 1) :=
  ⟨_, meaning, rfl, rfl, Hw.violation_agrees room, Hw.violation_violates _ _ _ _ room (by decide), Hw.violation_count room⟩

/-- A command that only D0 may give, from another domain. -/
theorem exec_onlyD0_of_other {f : Hw → Hw} (dom : src.dom ≠ 0#8)
    (meaning : exec c s = .next (s.onHw fun h => h.onlyD0 src a f)) (same : a = addr) :
    exec c s = .next (s.onHw fun h => h.refuseReg src addr) := by
  have other : isD0 src = false := beq_eq_false_iff_ne.2 dom
  rw [meaning, same]
  simp only [Hw.onlyD0, other, Bool.false_eq_true, if_false]

/-- A command that only the Keeper may give, from another master. -/
theorem exec_keeper_of_other {f : Hw → Hw} (master : src.master.val ≠ 4)
    (meaning : exec c s = .next (s.onHw fun h => if isKeeper src then f h else h.refuseReg src addr)) :
    exec c s = .next (s.onHw fun h => h.refuseReg src addr) := by
  have other : isKeeper src = false := beq_eq_false_iff_ne.2 master
  rw [meaning]
  simp only [other, Bool.false_eq_true, if_false]

/-- A write of a Tender channel's CFG from a domain other than D0. -/
theorem exec_channelEn_of_other (dom : src.dom ≠ 0#8) (n : Fin 64) (v : BitVec 32) :
    exec (.channelEn src n v) s = .next (s.onHw fun h => h.refuseReg src (0x302C1000 + 0x40 * n.val)) := by
  have place : 0x302C1000 + 0x40 * n.val = tndAddr (0x1000 + 0x40 * n.val) := by unfold tndAddr; omega
  rw [place]
  exact congrArg Host.Outcome.next (if_neg fun d0 => dom (beq_iff_eq.1 d0))

end

/-- Settles O60: every refusal is one `Hw.violation`, and a command from elsewhere than its only source is one. -/
theorem violationRecords : Obligations.ViolationRecords := by
  refine ⟨fun h addr target src kind cause room tgt => ⟨Hw.violation_agrees room, Hw.violation_violates _ _ _ _ room tgt,
    Hw.violation_count room⟩, fun s src room => ⟨fun dom => ?other_domain, fun master => ?other_master⟩⟩
  case other_domain =>
    have d0 {c : Instr} {a addr : Nat} {f : Hw → Hw} (meaning : exec c s = .next (s.onHw fun h => h.onlyD0 src a f))
        (same : a = addr := by rfl) := Runs.of_refuseReg room (exec_onlyD0_of_other dom meaning same)
    refine ⟨?listed, fun b => ⟨d0 rfl, d0 rfl, d0 rfl⟩, fun v => ⟨d0 rfl, d0 rfl, d0 rfl, d0 rfl⟩, fun f h => d0 rfl,
      fun p q => d0 rfl, fun c w v => d0 rfl (by unfold bilAddr; omega), fun n v => d0 rfl (by unfold plsAddr; omega),
      fun n d v => d0 rfl, fun n v => d0 rfl, fun n v => d0 rfl, fun i => d0 rfl, fun v => d0 rfl, fun n => d0 rfl,
      fun v => d0 rfl, fun f v => d0 rfl (by unfold mtrAddr; omega), fun n t e => d0 rfl, fun n => d0 rfl,
      fun n w v => d0 rfl, fun v p a b => d0 rfl, fun n p v => d0 rfl (by unfold xltAddr; omega),
      fun n v => d0 rfl (by unfold xltAddr; omega), fun n v => .of_refuseReg room (exec_channelEn_of_other dom n v),
      fun v => d0 rfl, fun v => d0 rfl, fun n v => d0 rfl (by unfold timAddr; omega),
      fun n => d0 rfl (by unfold timAddr; omega)⟩
    case listed =>
      simp only [List.forall_mem_cons, List.not_mem_nil, false_implies, implies_true, and_true]
      exact ⟨d0 rfl, d0 rfl, d0 rfl, d0 rfl, d0 rfl, d0 rfl, d0 rfl, d0 rfl, d0 rfl, d0 rfl, d0 rfl, d0 rfl, d0 rfl, d0 rfl,
        d0 rfl, d0 rfl, d0 rfl, d0 rfl, d0 rfl, d0 rfl, d0 rfl⟩
  case other_master =>
    have m4 {c : Instr} {addr : Nat} {f : Hw → Hw}
        (meaning : exec c s = .next (s.onHw fun h => if isKeeper src then f h else h.refuseReg src addr)) :=
      Runs.of_refuseReg room (exec_keeper_of_other master meaning)
    exact ⟨fun b l e => m4 rfl, fun n r => m4 rfl, fun n b => m4 rfl, fun n => m4 rfl, fun n => m4 rfl⟩

end Sys2Proof.Machine
end
